-- ==== Sys2Proof/Word.lean ====
section
/-! DEFINITION. The words of the device and their plainest arithmetic (R1, R2, R322). -/

namespace Sys2Proof

/-- A scalar register's value: 64 bits (R322). -/
abbrev Word := BitVec 64

/-- One byte of memory. -/
abbrev Byte := BitVec 8

/-- One 32-bit instruction word (R297). -/
abbrev Word32 := BitVec 32

/-- A scalar register number, s0 to s31 (R301). -/
abbrev SReg := BitVec 5

/-- A vector register number, v0 to v31 (R318). -/
abbrev VReg := BitVec 5

/-- A predicate register number, p0 to p7 (R302). -/
abbrev PReg := BitVec 3

/-- The stall count field of a scalar word or a convoy header (R301, R304). -/
abbrev Stl := BitVec 3

/-- A physical compute core number, 20 * y + x (R18). -/
abbrev CoreId := Fin 320

/-- An engine of a core: 0 to 3 are the vector threads, 4 is the Caller (R90, selector 5). -/
abbrev EngId := Fin 5

/-- The Caller's engine number (R90). -/
abbrev callerId : EngId := 4

end Sys2Proof
end

