-- ==== Sys2Proof/Types.lean ====
section
/-! DEFINITION. The operand records of the instructions: the vector opcodes and the fields of a
vector instruction (R318, R319), of a scalar memory access (R301, M and A forms), of the two-word
matrix commands (R311, R312) and of `vcfg` (R316), and the operands of the event rows. -/

namespace Sys2Proof

/-- The vector instructions of R319, one name a row of the opcode table. -/
inductive VOp where
  | vadd | vsub | vadds | vsubs | vmul | vmin | vmax | vabs | vneg | vnot | vand | vor | vxor
  | vshl | vshr | vsra | vdiv | vsqrt | vrsqrt | vrcp | vclass | vcmp | vsel | vmov | vbcast | vid
  | vmand | vmor | vmnot | vfma | vfms | vfnma | vwmac | vdotBlk | vcvt | vld | vlds | vldx | vgl
  | vldIpb | vldZ | vst | vsts | vstx | vstX | vsc | vamo | vwait | vsortr | vchk | vmerge | vinter
  | vuniq | vrank | vpart | vmrgs | vred | vscan | vsegred | vsegscan | vsegld | vperm | vcompress
  | vexpand | vslide | vrev | vsin | vcos | vexp2 | vlog2 | vtanh | vsigm | vmmCopy | vmmFill
  deriving DecidableEq, Repr

/-- The fields of a vector instruction below its opcode (R318). `mods` is the modifier field [23:0]. -/
structure VF where
  vd : VReg
  vs1 : VReg
  vs2 : VReg
  vs3 : VReg
  mask : BitVec 3
  neg : Bool
  cls : BitVec 4
  aq : Bool
  rl : Bool
  form : BitVec 2
  mods : BitVec 24
  deriving DecidableEq, Repr

/-- One slot of a convoy: an opcode and its fields (R297, R318). -/
structure VSlot where
  op : VOp
  f : VF
  deriving DecidableEq, Repr

/-- The M form: `ld`, `ldn`, `st` (R301). `r` is the destination, or the data register of `st`. -/
structure MemF where
  r : SReg
  base : SReg
  cls : BitVec 4
  width : BitVec 2
  sp : Bool
  imm : BitVec 6
  deriving DecidableEq, Repr

/-- The A form: `amo` (R301, R303). -/
structure AmoF where
  rd : BitVec 3
  base : SReg
  rs2 : BitVec 3
  width : BitVec 2
  sp : Bool
  cls : BitVec 4
  ord : BitVec 4
  deriving DecidableEq, Repr

/-- The two words of `mma`, `mmar` and `mreel` (R311). `n1` is the field n - 1. -/
structure MmaF where
  rb : SReg
  fmt : BitVec 4
  q : Bool
  aq : Bool
  rl : Bool
  z : BitVec 6
  x : BitVec 5
  w : BitVec 6
  n1 : BitVec 6
  gang : BitVec 2
  arrive : Bool
  bar : BitVec 6
  deriving DecidableEq, Repr

/-- The two words of `mdrain` (R312). -/
structure DrainF where
  rs1 : SReg
  fmt : BitVec 4
  q : Bool
  aq : Bool
  rl : Bool
  z : BitVec 6
  rnd : BitVec 3
  sat : Bool
  cls : BitVec 4
  arrive : Bool
  bar : BitVec 6
  deriving DecidableEq, Repr

/-- The fields of `vcfg` (R316). -/
structure VcfgF where
  rd : SReg
  rs1 : SReg
  fmt : BitVec 4
  blk : BitVec 3
  grp : BitVec 2
  ta : Bool
  ma : Bool
  deriving DecidableEq, Repr

/-- Which element the order machine performs next (R161): a waiting access of an engine, by its place in that
engine's list of waiting accesses, of the running or of the parked instance (R177), or the next element of the stream that runs on
a port. -/
inductive PerfSel where
  | acc (core : CoreId) (e : EngId) (n : Nat)
  | parkedAcc (core : CoreId) (e : EngId) (n : Nat)
  | stream (core : CoreId) (port : Fin 8)
  deriving DecidableEq, Repr

/-- Which engine command completes (R170): the head of a tile queue, the oldest command of a die's
routing engine, or the oldest command of a partition's KV allocators. -/
inductive UnitSel where
  | tile (core : CoreId) (q : Fin 2)
  | route (die : Fin 8)
  | alloc (part : Fin 16)
  deriving DecidableEq, Repr

end Sys2Proof
end

