-- ==== Sys2Proof/Machine/VTable.lean ====
section
/-! DEFINITION. The vector opcode table (R317, R319): each instruction's opcode, the forms it takes,
what each register field names, the modifier bits it uses and the ranges R318 to R320, R369, R380,
R386, R393, R394, R398, R399, R401 and R402 give them. -/

namespace Sys2Proof.Machine

/-- What a register field of a vector instruction names (R318, R319). -/
inductive FUse where
  /-- the row does not use the field: it is zero -/
  | zero
  /-- a vector register -/
  | vec
  /-- a vector register, or 0 for none (R374, R402) -/
  | vecOr0
  /-- a scalar register -/
  | sca
  /-- a mask register that is written: high bits zero, never m0 (R318) -/
  | maskD
  /-- a mask register that is read: high bits zero (R370) -/
  | maskS
  deriving DecidableEq, Repr

/-- One row of R319. `vi` says whether form 2 is allowed, and so on; `mods` are the modifier bits
used beside imm16; `rnd` says that [23:21] is a rounding mode; `mem` that class, aq and rl are used. -/
structure VRow where
  opcode : Nat
  vv : Bool := true
  vx : Bool := false
  vi : Bool := false
  vr : Bool := false
  d : FUse := .vec
  a : FUse := .vec
  b : FUse := .zero
  c : FUse := .zero
  mods : Nat := 0
  rnd : Bool := false
  mem : Bool := false
  sort : Bool := false
  deriving DecidableEq, Repr

/-- The modifier bits of a Mem row: [20] sp and [19:17] scope (R319). -/
def memBits : Nat := 0x1e0000

/-- [12:11], log2 of the index scale (R319). -/
def kBits : Nat := 0x1800

/-- R319, row by row. -/
def vrow : VOp → VRow
  | .vadd => { opcode := 0x00, vx := true, vi := true, b := .vec, rnd := true }
  | .vsub => { opcode := 0x01, vx := true, vi := true, b := .vec, rnd := true }
  | .vadds => { opcode := 0x02, vx := true, vi := true, b := .vec }
  | .vsubs => { opcode := 0x03, vx := true, vi := true, b := .vec }
  | .vmul => { opcode := 0x04, vx := true, vi := true, b := .vec, rnd := true }
  | .vmin => { opcode := 0x05, vx := true, vi := true, b := .vec }
  | .vmax => { opcode := 0x06, vx := true, vi := true, b := .vec }
  | .vabs => { opcode := 0x07 }
  | .vneg => { opcode := 0x08 }
  | .vnot => { opcode := 0x0c }
  | .vand => { opcode := 0x09, vx := true, vi := true, b := .vec }
  | .vor => { opcode := 0x0a, vx := true, vi := true, b := .vec }
  | .vxor => { opcode := 0x0b, vx := true, vi := true, b := .vec }
  | .vshl => { opcode := 0x0d, vx := true, vi := true, b := .vec }
  | .vshr => { opcode := 0x0e, vx := true, vi := true, b := .vec }
  | .vsra => { opcode := 0x0f, vx := true, vi := true, b := .vec }
  | .vdiv => { opcode := 0x10, vx := true, b := .vec, rnd := true }
  | .vsqrt => { opcode := 0x11, rnd := true }
  | .vrsqrt => { opcode := 0x12, rnd := true }
  | .vrcp => { opcode := 0x13, rnd := true }
  | .vclass => { opcode := 0x14 }
  | .vcmp => { opcode := 0x15, vx := true, vi := true, d := .maskD, b := .vec, mods := 0x70000 }
  | .vsel => { opcode := 0x16, vx := true, b := .vec }
  | .vmov => { opcode := 0x17 }
  | .vbcast => { opcode := 0x18, vv := false, vx := true, vi := true, a := .zero, b := .vec }
  | .vid => { opcode := 0x19, a := .zero }
  | .vmand => { opcode := 0x1a, d := .maskD, a := .maskS, b := .maskS }
  | .vmor => { opcode := 0x1b, d := .maskD, a := .maskS, b := .maskS }
  | .vmnot => { opcode := 0x1c, d := .maskD, a := .maskS }
  | .vfma => { opcode := 0x20, vx := true, b := .vec, c := .vec, rnd := true }
  | .vfms => { opcode := 0x21, vx := true, b := .vec, c := .vec, rnd := true }
  | .vfnma => { opcode := 0x22, vx := true, b := .vec, c := .vec, rnd := true }
  | .vwmac => { opcode := 0x23, b := .vec, rnd := true }
  | .vdotBlk => { opcode := 0x24, b := .vec, rnd := true }
  | .vcvt => { opcode := 0x30, b := .vecOr0, c := .sca, mods := 0x1f0000, rnd := true }
  | .vld => { opcode := 0x40, a := .sca, mods := memBits, mem := true }
  | .vlds => { opcode := 0x41, vv := false, vx := true, a := .sca, b := .sca, mods := memBits, mem := true }
  | .vldx => { opcode := 0x42, a := .sca, b := .vec, mods := memBits + kBits, mem := true }
  | .vldIpb => { opcode := 0x43, a := .sca, mods := 0xe0000, mem := true }
  | .vldZ => { opcode := 0x44, vv := false, vi := true, a := .zero }
  | .vgl => { opcode := 0x45, a := .sca, b := .vec, mods := memBits + kBits, mem := true }
  | .vst => { opcode := 0x50, a := .sca, mods := memBits, mem := true }
  | .vsts => { opcode := 0x51, vv := false, vx := true, a := .sca, b := .sca, mods := memBits, mem := true }
  | .vstx => { opcode := 0x52, a := .sca, b := .vec, mods := memBits + kBits, mem := true }
  | .vstX => { opcode := 0x53, a := .sca }
  | .vsc => { opcode := 0x54, a := .sca, b := .vec, c := .maskD, mods := memBits + kBits, mem := true }
  | .vamo => { opcode := 0x60, a := .sca, b := .vec, c := .vec, mods := memBits + kBits + 0x1e000, mem := true }
  | .vwait => { opcode := 0x61, a := .sca, b := .vec, mods := memBits + kBits + 0x1c000, mem := true }
  | .vsortr => { opcode := 0x70, b := .vecOr0, c := .vecOr0, mods := 0x10000, sort := true }
  | .vchk => { opcode := 0x71, d := .zero, mods := 0x10000, sort := true }
  | .vmerge => { opcode := 0x72, b := .vec, c := .vecOr0, sort := true }
  | .vinter => { opcode := 0x73, b := .vec, c := .vecOr0, sort := true }
  | .vuniq => { opcode := 0x74, c := .vecOr0, sort := true }
  | .vrank => { opcode := 0x75, b := .vec, sort := true }
  | .vpart => { opcode := 0x76, vv := false, vx := true, b := .sca, mods := 0x10000, sort := true }
  | .vmrgs => { opcode := 0x77, d := .zero, a := .sca, mods := memBits, mem := true, sort := true }
  | .vred => { opcode := 0x80, vv := false, vr := true, d := .sca, mods := 0x78000, rnd := true }
  | .vscan => { opcode := 0x81, mods := 0x78000, rnd := true }
  | .vsegld => { opcode := 0x82, a := .sca, mods := memBits, mem := true }
  | .vsegred => { opcode := 0x83, mods := 0x78000, rnd := true }
  | .vsegscan => { opcode := 0x84, mods := 0x78000, rnd := true }
  | .vperm => { opcode := 0x85, b := .vec }
  | .vcompress => { opcode := 0x86 }
  | .vexpand => { opcode := 0x87 }
  | .vslide => { opcode := 0x88, vv := false, vx := true, vi := true, b := .sca, mods := 0x10000 }
  | .vrev => { opcode := 0x89 }
  | .vsin => { opcode := 0x90, rnd := true }
  | .vcos => { opcode := 0x91, rnd := true }
  | .vexp2 => { opcode := 0x92, rnd := true }
  | .vlog2 => { opcode := 0x93, rnd := true }
  | .vtanh => { opcode := 0x94, rnd := true }
  | .vsigm => { opcode := 0x95, rnd := true }
  | .vmmCopy => { opcode := 0xa0, d := .zero, a := .sca, b := .sca, c := .sca, mods := 0x3f0000, mem := true }
  | .vmmFill => { opcode := 0xa0, d := .zero, a := .sca, b := .sca, c := .sca, mods := 0x3f0000, mem := true }

/-- The opcode of a vector instruction (R319). -/
def vopcode (op : VOp) : Nat := (vrow op).opcode

/-- The unit code of a vector instruction: opcode[7:4] (R289, R317). -/
def vunit (op : VOp) : Nat := vopcode op / 16

/-- The instruction an opcode names; 0xa0 is split by its fill bit [16] (R399). -/
def vopOf (opcode : Nat) (fill : Bool) : Option VOp :=
  match opcode with
  | 0x00 => some .vadd | 0x01 => some .vsub | 0x02 => some .vadds | 0x03 => some .vsubs
  | 0x04 => some .vmul | 0x05 => some .vmin | 0x06 => some .vmax | 0x07 => some .vabs
  | 0x08 => some .vneg | 0x09 => some .vand | 0x0a => some .vor | 0x0b => some .vxor
  | 0x0c => some .vnot | 0x0d => some .vshl | 0x0e => some .vshr | 0x0f => some .vsra
  | 0x10 => some .vdiv | 0x11 => some .vsqrt | 0x12 => some .vrsqrt | 0x13 => some .vrcp
  | 0x14 => some .vclass | 0x15 => some .vcmp | 0x16 => some .vsel | 0x17 => some .vmov
  | 0x18 => some .vbcast | 0x19 => some .vid | 0x1a => some .vmand | 0x1b => some .vmor
  | 0x1c => some .vmnot | 0x20 => some .vfma | 0x21 => some .vfms | 0x22 => some .vfnma
  | 0x23 => some .vwmac | 0x24 => some .vdotBlk | 0x30 => some .vcvt | 0x40 => some .vld
  | 0x41 => some .vlds | 0x42 => some .vldx | 0x43 => some .vldIpb | 0x44 => some .vldZ
  | 0x45 => some .vgl | 0x50 => some .vst | 0x51 => some .vsts | 0x52 => some .vstx
  | 0x53 => some .vstX | 0x54 => some .vsc | 0x60 => some .vamo | 0x61 => some .vwait
  | 0x70 => some .vsortr | 0x71 => some .vchk | 0x72 => some .vmerge | 0x73 => some .vinter
  | 0x74 => some .vuniq | 0x75 => some .vrank | 0x76 => some .vpart | 0x77 => some .vmrgs
  | 0x80 => some .vred | 0x81 => some .vscan | 0x82 => some .vsegld | 0x83 => some .vsegred
  | 0x84 => some .vsegscan | 0x85 => some .vperm | 0x86 => some .vcompress | 0x87 => some .vexpand
  | 0x88 => some .vslide | 0x89 => some .vrev | 0x90 => some .vsin | 0x91 => some .vcos
  | 0x92 => some .vexp2 | 0x93 => some .vlog2 | 0x94 => some .vtanh | 0x95 => some .vsigm
  | 0xa0 => some (if fill then .vmmFill else .vmmCopy)
  | _ => none

/-- Bits [hi:lo] of a number (R2). -/
def bitsOf (n hi lo : Nat) : Nat := n / 2 ^ lo % 2 ^ (hi + 1 - lo)

/-- The modifier field as a number. -/
def vmods (f : VF) : Nat := f.mods.toNat

/-- The rounding mode [23:21] (R195). -/
def vrnd (f : VF) : Nat := bitsOf (vmods f) 23 21

/-- [20], sp: the address is in the S window (R319, R381). -/
def vsp (f : VF) : Bool := f.mods.getLsbD 20

/-- [19:17], the scope of aq or rl (R319). -/
def vscope (f : VF) : Nat := bitsOf (vmods f) 19 17

/-- [18:16], the condition of `vcmp` or the operation of a reduction (R369, R401). -/
def vcond (f : VF) : Nat := bitsOf (vmods f) 18 16

/-- [16:14], the operation of `vamo` or the condition of `vwait` (R394, R398). -/
def vaop (f : VF) : Nat := bitsOf (vmods f) 16 14

/-- [13], `.ord` of `vamo` (R395). -/
def vord (f : VF) : Bool := f.mods.getLsbD 13

/-- [12:11], log2 of the index scale (R380). -/
def vkshift (f : VF) : Nat := bitsOf (vmods f) 12 11

/-- [16], `.desc`, `.down` or `.fill` (R401, R399). -/
def vbit16 (f : VF) : Bool := f.mods.getLsbD 16

/-- [15], `.seq` (R401). -/
def vseq (f : VF) : Bool := f.mods.getLsbD 15

/-- [19:16], the destination format of `vcvt` (R374). -/
def vdstFmt (f : VF) : Nat := bitsOf (vmods f) 19 16

/-- [20], `.sat` of `vcvt` (R374). -/
def vsat (f : VF) : Bool := f.mods.getLsbD 20

/-- [15:0], the immediate of a vi form (R359). -/
def vimm (f : VF) : BitVec 16 := f.mods.extractLsb' 0 16

/-- A register field holds what its row allows (R318, R320). -/
def fieldOk (u : FUse) (r : VReg) : Bool :=
  match u with
  | .zero => r == 0
  | .vec => true
  | .vecOr0 => true
  | .sca => true
  | .maskD => r.toNat < 8 && r != 0
  | .maskS => r.toNat < 8

/-- The form is one that the row lists (R319). -/
def formOk (row : VRow) (form : BitVec 2) : Bool :=
  match form.toNat with
  | 0 => row.vv
  | 1 => row.vx
  | 2 => row.vi
  | _ => row.vr

/-- What vs2 names, by form: a scalar register in vx, zero in vi (R318, R359). -/
def bUse (row : VRow) (form : BitVec 2) : FUse :=
  match form.toNat with
  | 0 => row.b
  | 1 => .sca
  | 2 => .zero
  | _ => row.b

/-- The modifier bits the row uses in this form. -/
def modsAllowed (op : VOp) (form : BitVec 2) : Nat :=
  let row := vrow op
  (if row.rnd then 0xe00000 else 0) + row.mods +
    (if form.toNat = 2 then (if op = .vldZ then 0xfff else 0xffff) else 0)

/-- The ranges inside the modifier field that single rows give (R369, R374, R394, R398, R399, R401). -/
def rangeOk (op : VOp) (f : VF) : Bool :=
  match op with
  | .vcmp => vcond f ≤ 5
  | .vcvt => vdstFmt f != 0 && vdstFmt f != 14 && vdstFmt f != 15
  | .vamo => vaop f ≤ 6
  | .vwait => vaop f ≤ 5
  | .vred => vcond f ≤ 5
  | .vsegred => vcond f ≤ 5
  | .vscan => vcond f ≤ 2
  | .vsegscan => vcond f ≤ 2
  | .vsortr => (f.vs2 == 0) == (f.vs3 == 0)
  | .vmmCopy => !vbit16 f && (f.mods.getLsbD 21 == vsp f) && f.mask == 0 && !f.neg
  | .vmmFill => vbit16 f && !f.mods.getLsbD 21 && f.mask == 0 && !f.neg
  | _ => true

/-- The scope field is zero without aq or rl, and never 6 or 7 (R319, R384). -/
def scopeOk (row : VRow) (f : VF) : Bool :=
  !row.mem || (vscope f ≤ 5 && (f.aq || f.rl || vscope f == 0))

/-- Class, aq and rl are used by Mem rows only (R162). -/
def orderOk (row : VRow) (f : VF) : Bool :=
  row.mem || (f.cls == 0 && !f.aq && !f.rl)

/-- Every check of R318 to R320 that a vector word can fail on its own, the rounding mode apart. -/
def slotLegal (op : VOp) (f : VF) : Bool :=
  let row := vrow op
  formOk row f.form && fieldOk row.d f.vd && fieldOk row.a f.vs1 && fieldOk (bUse row f.form) f.vs2 &&
    fieldOk row.c f.vs3 && (vmods f &&& (0xffffff - modsAllowed op f.form) == 0) &&
    rangeOk op f && scopeOk row f && orderOk row f &&
    (!row.sort || (f.mask == 0 && !f.neg))

/-- The rounding mode, where the row has one, is a code of R195. -/
def slotRndOk (op : VOp) (f : VF) : Bool := !(vrow op).rnd || vrnd f ≤ 4

/-- The vector registers a slot names, for the check against VREGS (R320). -/
def slotVRegs (op : VOp) (f : VF) : List Nat :=
  let row := vrow op
  let pick (u : FUse) (r : VReg) : List Nat :=
    match u with
    | .vec => [r.toNat]
    | .vecOr0 => [r.toNat]
    | _ => []
  pick row.d f.vd ++ pick row.a f.vs1 ++ pick (bUse row f.form) f.vs2 ++ pick row.c f.vs3

/-- A slot of a unit that never chains: sort, cross-lane, memory to memory (R289). -/
def slotAlone (op : VOp) : Bool := vunit op == 7 || vunit op == 8 || vunit op == 10

/-- The slot makes a memory access (R163). -/
def slotIsMem (op : VOp) : Bool := (vrow op).mem

end Sys2Proof.Machine
end

