-- ==== Sys2Proof/Syntax.lean ====
section
/-! DEFINITION. The instructions: one constructor for each row of spec/opcode_table.json.
The scalar rows carry the fields of their word and its stall count (R301 to R316); the vector rows carry the
fields of their 64-bit word (R318) and stand in the slots of a convoy; the rows from `elementPerform` on are the
steps of the device's other agents (95_what_each_step_holds.md) and carry the agent they concern. -/

namespace Sys2Proof

/-- The instruction set and the device's other steps, one constructor a row of the opcode table. -/
inductive Instr where
  /-- ADD (R324). -/
  | add (rd rs1 rs2 : SReg) (stl : Stl)
  /-- SUB (R324). -/
  | sub (rd rs1 rs2 : SReg) (stl : Stl)
  /-- MUL (R324). -/
  | mul (rd rs1 rs2 : SReg) (stl : Stl)
  /-- MULH (R324). -/
  | mulh (rd rs1 rs2 : SReg) (stl : Stl)
  /-- MULHN (R324). -/
  | mulhn (rd rs1 rs2 : SReg) (stl : Stl)
  /-- DIV (R325). -/
  | div (rd rs1 rs2 : SReg) (stl : Stl)
  /-- DIVN (R325). -/
  | divn (rd rs1 rs2 : SReg) (stl : Stl)
  /-- REM (R325). -/
  | rem (rd rs1 rs2 : SReg) (stl : Stl)
  /-- REMN (R325). -/
  | remn (rd rs1 rs2 : SReg) (stl : Stl)
  /-- AND (R324). -/
  | and (rd rs1 rs2 : SReg) (stl : Stl)
  /-- OR (R324). -/
  | or (rd rs1 rs2 : SReg) (stl : Stl)
  /-- XOR (R324). -/
  | xor (rd rs1 rs2 : SReg) (stl : Stl)
  /-- SHL (R324). -/
  | shl (rd rs1 rs2 : SReg) (stl : Stl)
  /-- SHR (R324). -/
  | shr (rd rs1 rs2 : SReg) (stl : Stl)
  /-- SRA (R324). -/
  | sra (rd rs1 rs2 : SReg) (stl : Stl)
  /-- MIN (R324). -/
  | min (rd rs1 rs2 : SReg) (stl : Stl)
  /-- MAX (R324). -/
  | max (rd rs1 rs2 : SReg) (stl : Stl)
  /-- MINN (R324). -/
  | minn (rd rs1 rs2 : SReg) (stl : Stl)
  /-- MAXN (R324). -/
  | maxn (rd rs1 rs2 : SReg) (stl : Stl)
  /-- CLZ (R324). -/
  | clz (rd rs1 : SReg) (stl : Stl)
  /-- CTZ (R324). -/
  | ctz (rd rs1 : SReg) (stl : Stl)
  /-- POPC (R324). -/
  | popc (rd rs1 : SReg) (stl : Stl)
  /-- MOV (R324). -/
  | mov (rd rs1 : SReg) (stl : Stl)
  /-- SEL (R324). -/
  | sel (rd : SReg) (p : PReg) (rs1 rs2 : SReg) (stl : Stl)
  /-- CMP_EQ (R328). -/
  | cmpEq (pd : PReg) (rs1 rs2 : SReg) (stl : Stl)
  /-- CMP_NE (R328). -/
  | cmpNe (pd : PReg) (rs1 rs2 : SReg) (stl : Stl)
  /-- CMP_LT (R328). -/
  | cmpLt (pd : PReg) (rs1 rs2 : SReg) (stl : Stl)
  /-- CMP_GE (R328). -/
  | cmpGe (pd : PReg) (rs1 rs2 : SReg) (stl : Stl)
  /-- CMP_LTN (R328). -/
  | cmpLtn (pd : PReg) (rs1 rs2 : SReg) (stl : Stl)
  /-- CMP_GEN (R328). -/
  | cmpGen (pd : PReg) (rs1 rs2 : SReg) (stl : Stl)
  /-- PAND (R328). -/
  | pand (pd pa pb : PReg) (stl : Stl)
  /-- POR (R328). -/
  | por (pd pa pb : PReg) (stl : Stl)
  /-- PNOT (R328). -/
  | pnot (pd pa : PReg) (stl : Stl)
  /-- ADDI (R326). -/
  | addi (rd rs1 : SReg) (imm : BitVec 13) (stl : Stl)
  /-- ANDI (R326). -/
  | andi (rd rs1 : SReg) (imm : BitVec 13) (stl : Stl)
  /-- ORI (R326). -/
  | ori (rd rs1 : SReg) (imm : BitVec 13) (stl : Stl)
  /-- XORI (R326). -/
  | xori (rd rs1 : SReg) (imm : BitVec 13) (stl : Stl)
  /-- SHLI (R326). -/
  | shli (rd rs1 : SReg) (imm : BitVec 13) (stl : Stl)
  /-- SHRI (R326). -/
  | shri (rd rs1 : SReg) (imm : BitVec 13) (stl : Stl)
  /-- SRAI (R326). -/
  | srai (rd rs1 : SReg) (imm : BitVec 13) (stl : Stl)
  /-- LI (R327). -/
  | li (rd : SReg) (imm : BitVec 18) (stl : Stl)
  /-- LIH (R327). -/
  | lih (rd : SReg) (q : BitVec 2) (imm : BitVec 16) (stl : Stl)
  /-- CMPI_EQ (R328). -/
  | cmpiEq (pd : PReg) (rs1 : SReg) (imm : BitVec 13) (stl : Stl)
  /-- CMPI_NE (R328). -/
  | cmpiNe (pd : PReg) (rs1 : SReg) (imm : BitVec 13) (stl : Stl)
  /-- CMPI_LT (R328). -/
  | cmpiLt (pd : PReg) (rs1 : SReg) (imm : BitVec 13) (stl : Stl)
  /-- CMPI_GE (R328). -/
  | cmpiGe (pd : PReg) (rs1 : SReg) (imm : BitVec 13) (stl : Stl)
  /-- CMPI_LTN (R328). -/
  | cmpiLtn (pd : PReg) (rs1 : SReg) (imm : BitVec 13) (stl : Stl)
  /-- CMPI_GEN (R328). -/
  | cmpiGen (pd : PReg) (rs1 : SReg) (imm : BitVec 13) (stl : Stl)
  /-- LD (R329). -/
  | ld (f : MemF) (stl : Stl)
  /-- LDN (R329). -/
  | ldn (f : MemF) (stl : Stl)
  /-- ST (R329). -/
  | st (f : MemF) (stl : Stl)
  /-- AMO_ADD (R331). -/
  | amoAdd (f : AmoF) (stl : Stl)
  /-- AMO_MIN (R331). -/
  | amoMin (f : AmoF) (stl : Stl)
  /-- AMO_MAX (R331). -/
  | amoMax (f : AmoF) (stl : Stl)
  /-- AMO_SWAP (R331). -/
  | amoSwap (f : AmoF) (stl : Stl)
  /-- AMO_CAS (R331). -/
  | amoCas (f : AmoF) (stl : Stl)
  /-- AMO_AND (R331). -/
  | amoAnd (f : AmoF) (stl : Stl)
  /-- AMO_OR (R331). -/
  | amoOr (f : AmoF) (stl : Stl)
  /-- BR (R332). -/
  | br (off : BitVec 23) (stl : Stl)
  /-- CALL (R332). -/
  | call (off : BitVec 23) (stl : Stl)
  /-- BP (R332). -/
  | bp (p : PReg) (off : BitVec 18) (stl : Stl)
  /-- JR (R332). -/
  | jr (rs1 : SReg) (stl : Stl)
  /-- RET (R332). -/
  | ret (stl : Stl)
  /-- VSTRIP (R333). -/
  | vstrip (rs : SReg) (off : BitVec 18) (stl : Stl)
  /-- BAR_INIT (R335). -/
  | barInit (b : BitVec 6) (rs1 : SReg) (scope : BitVec 2) (stl : Stl)
  /-- BAR_ARRIVE (R335). -/
  | barArrive (b : BitVec 6) (rs1 : SReg) (mode : BitVec 2) (stl : Stl)
  /-- BAR_WAIT (R335). -/
  | barWait (b : BitVec 6) (stl : Stl)
  /-- BAR_TWAIT (R173). -/
  | barTwait (rd : SReg) (b : BitVec 6) (rs1 : SReg) (stl : Stl)
  /-- BAR_TEST (R335). -/
  | barTest (rd : SReg) (b : BitVec 6) (stl : Stl)
  /-- FENCE (R165). -/
  | fence (scope : BitVec 3) (mask : BitVec 16) (stl : Stl)
  /-- FORK (R91). -/
  | fork (t : BitVec 2) (rs : SReg) (off : BitVec 16) (stl : Stl)
  /-- RENDEZ (R92). -/
  | rendez (mask : BitVec 4) (stl : Stl)
  /-- LAUNCH (R340). -/
  | launch (rd rs1 : SReg) (stl : Stl)
  /-- IDENT (R341). -/
  | ident (rd : SReg) (sel : BitVec 13) (stl : Stl)
  /-- CLK (R341). -/
  | clk (rd : SReg) (stl : Stl)
  /-- CR_RD (R342). -/
  | crRd (r : SReg) (num : BitVec 12) (stl : Stl)
  /-- CR_WR (R342). -/
  | crWr (r : SReg) (num : BitVec 12) (stl : Stl)
  /-- CR_SET (R342). -/
  | crSet (r : SReg) (num : BitVec 12) (stl : Stl)
  /-- CR_CLR (R342). -/
  | crClr (r : SReg) (num : BitVec 12) (stl : Stl)
  /-- TRAP (R345). -/
  | trap (imm : BitVec 16) (stl : Stl)
  /-- ERET (R269). -/
  | eret (stl : Stl)
  /-- UERET (R148). -/
  | ueret (stl : Stl)
  /-- HALT (R346). -/
  | halt (stl : Stl)
  /-- TLBINV (R348). -/
  | tlbinv (rs1 : SReg) (stl : Stl)
  /-- TLBINV_ALL (R348). -/
  | tlbinvAll (stl : Stl)
  /-- NOP (R347). -/
  | nop (stl : Stl)
  /-- UNFREEZE (R349). -/
  | unfreeze (rd rs1 : SReg) (stl : Stl)
  /-- PSAMPLE (R350). -/
  | psample (rs1 : SReg) (stl : Stl)
  /-- MCLAIM_X (R432). -/
  | mclaimX (n : BitVec 6) (stl : Stl)
  /-- MCLAIM_X_SCL (R432). -/
  | mclaimXScl (n : BitVec 6) (stl : Stl)
  /-- MCLAIM_W (R432). -/
  | mclaimW (n : BitVec 6) (stl : Stl)
  /-- MRELEASE_X (R433). -/
  | mreleaseX (n : BitVec 6) (stl : Stl)
  /-- MRELEASE_W (R433). -/
  | mreleaseW (n : BitVec 6) (stl : Stl)
  /-- MZERO (R435). -/
  | mzero (n : BitVec 6) (q : Bool) (stl : Stl)
  /-- MQPRIO (R430). -/
  | mqprio (n : BitVec 6) (stl : Stl)
  /-- MMODE_STD (R431). -/
  | mmodeStd (q : Bool) (stl : Stl)
  /-- MMODE_RED (R431). -/
  | mmodeRed (q : Bool) (stl : Stl)
  /-- MMA (R437). -/
  | mma (f : MmaF) (stl : Stl)
  /-- MMAR (R437). -/
  | mmar (f : MmaF) (stl : Stl)
  /-- MREEL (R441). -/
  | mreel (f : MmaF) (stl : Stl)
  /-- MDRAIN (R444). -/
  | mdrain (f : DrainF) (stl : Stl)
  /-- SSTRM (R137). -/
  | sstrm (rd rs1 : SReg) (port : BitVec 3) (q : Bool) (stl : Stl)
  /-- SPEEK (R143). -/
  | speek (rd rs1 : SReg) (stl : Stl)
  /-- SSUSP (R144). -/
  | ssusp (port : BitVec 3) (q : Bool) (stl : Stl)
  /-- SRES (R144). -/
  | sres (port : BitVec 3) (q : Bool) (stl : Stl)
  /-- SKILL (R144). -/
  | skill (port : BitVec 3) (q : Bool) (stl : Stl)
  /-- SNOTE (R147). -/
  | snote (port : BitVec 3) (q : Bool) (stl : Stl)
  /-- RTPUSH (R219). -/
  | rtpush (rs1 : SReg) (q : Bool) (stl : Stl)
  /-- RDISP (R223). -/
  | rdisp (rs1 : SReg) (q : Bool) (stl : Stl)
  /-- RCOMB_PART (R231). -/
  | rcombPart (rs1 : SReg) (q : Bool) (stl : Stl)
  /-- RCOMB_FIN (R232). -/
  | rcombFin (rs1 : SReg) (q : Bool) (stl : Stl)
  /-- RGEN_OPEN (R228). -/
  | rgenOpen (rn rs1 rs2 : SReg) (q : Bool) (stl : Stl)
  /-- RGEN_RETIRE (R229). -/
  | rgenRetire (rs1 : SReg) (q : Bool) (stl : Stl)
  /-- ABOUND (R243). -/
  | abound (rd rs1 : SReg) (vd : VReg) (stl : Stl)
  /-- AGATHER (R245). -/
  | agather (rd rs1 : SReg) (port : BitVec 5) (q : Bool) (stl : Stl)
  /-- KVALLOC (R247). -/
  | kvalloc (rd rs1 rs2 : SReg) (q : Bool) (stl : Stl)
  /-- KVFREE (R250). -/
  | kvfree (rd rs1 : SReg) (q : Bool) (stl : Stl)
  /-- KVPIN (R249). -/
  | kvpin (rd rs1 : SReg) (q : Bool) (stl : Stl)
  /-- KVUNPIN (R249). -/
  | kvunpin (rd rs1 : SReg) (q : Bool) (stl : Stl)
  /-- KVEVICT (R251). -/
  | kvevict (rd rs1 rs2 : SReg) (q : Bool) (stl : Stl)
  /-- KVINV (R252). -/
  | kvinv (rd rs1 rs2 : SReg) (q : Bool) (stl : Stl)
  /-- SCTAB (R257). -/
  | sctab (rs1 : SReg) (stl : Stl)
  /-- SCOMMIT (R262). -/
  | scommit (stl : Stl)
  /-- SABORT (R260). -/
  | sabort (stl : Stl)
  /-- SOP (R258). -/
  | sop (k : BitVec 6) (rh ra rb : SReg) (stl : Stl)
  /-- SREG (R256). -/
  | sreg (k : BitVec 6) (rs1 : SReg) (stl : Stl)
  /-- SBEGIN (R254). -/
  | sbegin (rd : SReg) (off : BitVec 16) (stl : Stl)
  /-- VCFG (R352). -/
  | vcfg (f : VcfgF) (stl : Stl)
  /-- VRESHAPE (R355). -/
  | vreshape (n : BitVec 2) (stl : Stl)
  /-- VQUAD (R356). -/
  | vquad (p : BitVec 2) (stl : Stl)
  /-- CONVOY (R96). -/
  | convoy (slots : List VSlot) (stl : Stl)
  /-- VADD (R363). -/
  | vadd (f : VF)
  /-- VSUB (R363). -/
  | vsub (f : VF)
  /-- VADDS (R363). -/
  | vadds (f : VF)
  /-- VSUBS (R363). -/
  | vsubs (f : VF)
  /-- VMUL (R363). -/
  | vmul (f : VF)
  /-- VMIN (R363). -/
  | vmin (f : VF)
  /-- VMAX (R363). -/
  | vmax (f : VF)
  /-- VABS (R368). -/
  | vabs (f : VF)
  /-- VNEG (R368). -/
  | vneg (f : VF)
  /-- VNOT (R367). -/
  | vnot (f : VF)
  /-- VAND (R367). -/
  | vand (f : VF)
  /-- VOR (R367). -/
  | vor (f : VF)
  /-- VXOR (R367). -/
  | vxor (f : VF)
  /-- VSHL (R367). -/
  | vshl (f : VF)
  /-- VSHR (R367). -/
  | vshr (f : VF)
  /-- VSRA (R367). -/
  | vsra (f : VF)
  /-- VDIV (R363). -/
  | vdiv (f : VF)
  /-- VSQRT (R363). -/
  | vsqrt (f : VF)
  /-- VRSQRT (R363). -/
  | vrsqrt (f : VF)
  /-- VRCP (R363). -/
  | vrcp (f : VF)
  /-- VCLASS (R373). -/
  | vclass (f : VF)
  /-- VCMP (R369). -/
  | vcmp (f : VF)
  /-- VSEL (R371). -/
  | vsel (f : VF)
  /-- VMOV (R372). -/
  | vmov (f : VF)
  /-- VBCAST (R372). -/
  | vbcast (f : VF)
  /-- VID (R372). -/
  | vid (f : VF)
  /-- VMAND (R370). -/
  | vmand (f : VF)
  /-- VMOR (R370). -/
  | vmor (f : VF)
  /-- VMNOT (R370). -/
  | vmnot (f : VF)
  /-- VFMA (R366). -/
  | vfma (f : VF)
  /-- VFMS (R366). -/
  | vfms (f : VF)
  /-- VFNMA (R366). -/
  | vfnma (f : VF)
  /-- VWMAC (R377). -/
  | vwmac (f : VF)
  /-- VDOT_BLK (R378). -/
  | vdotBlk (f : VF)
  /-- VCVT (R374). -/
  | vcvt (f : VF)
  /-- VLD (R380). -/
  | vld (f : VF)
  /-- VLDS (R380). -/
  | vlds (f : VF)
  /-- VLDX (R380). -/
  | vldx (f : VF)
  /-- VGL (R392). -/
  | vgl (f : VF)
  /-- VLD_IPB (R386). -/
  | vldIpb (f : VF)
  /-- VLD_Z (R390). -/
  | vldZ (f : VF)
  /-- VST (R380). -/
  | vst (f : VF)
  /-- VSTS (R380). -/
  | vsts (f : VF)
  /-- VSTX (R380). -/
  | vstx (f : VF)
  /-- VST_X (R389). -/
  | vstX (f : VF)
  /-- VSC (R393). -/
  | vsc (f : VF)
  /-- VAMO (R395). -/
  | vamo (f : VF)
  /-- VWAIT (R398). -/
  | vwait (f : VF)
  /-- VSORTR (R404). -/
  | vsortr (f : VF)
  /-- VCHK (R405). -/
  | vchk (f : VF)
  /-- VMERGE (R406). -/
  | vmerge (f : VF)
  /-- VINTER (R407). -/
  | vinter (f : VF)
  /-- VUNIQ (R407). -/
  | vuniq (f : VF)
  /-- VRANK (R408). -/
  | vrank (f : VF)
  /-- VPART (R409). -/
  | vpart (f : VF)
  /-- VMRGS (R411). -/
  | vmrgs (f : VF)
  /-- VRED (R414). -/
  | vred (f : VF)
  /-- VSCAN (R415). -/
  | vscan (f : VF)
  /-- VSEGRED (R419). -/
  | vsegred (f : VF)
  /-- VSEGSCAN (R420). -/
  | vsegscan (f : VF)
  /-- VSEGLD (R421). -/
  | vsegld (f : VF)
  /-- VPERM (R422). -/
  | vperm (f : VF)
  /-- VCOMPRESS (R423). -/
  | vcompress (f : VF)
  /-- VEXPAND (R423). -/
  | vexpand (f : VF)
  /-- VSLIDE (R422). -/
  | vslide (f : VF)
  /-- VREV (R422). -/
  | vrev (f : VF)
  /-- VSIN (R424). -/
  | vsin (f : VF)
  /-- VCOS (R424). -/
  | vcos (f : VF)
  /-- VEXP2 (R424). -/
  | vexp2 (f : VF)
  /-- VLOG2 (R424). -/
  | vlog2 (f : VF)
  /-- VTANH (R424). -/
  | vtanh (f : VF)
  /-- VSIGM (R424). -/
  | vsigm (f : VF)
  /-- VMM_COPY (R399). -/
  | vmmCopy (f : VF)
  /-- VMM_FILL (R399). -/
  | vmmFill (f : VF)
  /-- ELEMENT_PERFORM (R161). -/
  | elementPerform (sel : PerfSel)
  /-- BARRIER_PHASE_COMPLETE (R336). -/
  | barrierPhaseComplete (core : CoreId) (b : BitVec 6)
  /-- BAR_TWAIT_EXPIRY (R173). -/
  | barTwaitExpiry (core : CoreId) (e : EngId)
  /-- VWAIT_EXPIRY (R398). -/
  | vwaitExpiry (core : CoreId) (e : EngId)
  /-- FEED_LIMIT_EXPIRY (R388). -/
  | feedLimitExpiry (core : CoreId) (e : EngId)
  /-- SHARE_WINDOW (R101). -/
  | shareWindow (core : CoreId)
  /-- MATRIX_GRANT (R429). -/
  | matrixGrant (core : CoreId)
  /-- REEL_COMPLETE (R441). -/
  | reelComplete (core : CoreId)
  /-- STREAM_START (R137). -/
  | streamStart (core : CoreId) (port : Fin 8)
  /-- STREAM_END (R141). -/
  | streamEnd (core : CoreId) (port : Fin 8)
  /-- USER_INTERRUPT (R147). -/
  | userInterrupt (core : CoreId)
  /-- TRAP_ENTRY (R267). -/
  | trapEntry (core : CoreId) (e : EngId)
  /-- FACTOR_GATE_ENTRY (R220). -/
  | factorGateEntry (die : Fin 8)
  /-- ROW_ARRIVAL (R226). -/
  | rowArrival (n : Nat)
  /-- COMBINE_ROW_ARRIVAL (R233). -/
  | combineRowArrival (n : Nat)
  /-- SPECULATION_ABORT (R260). -/
  | speculationAbort (core : CoreId) (e : EngId)
  /-- SOP_WAIT_COMPLETE (R259). -/
  | sopWaitComplete (core : CoreId) (e : EngId)
  /-- KV_POOL_DISABLE_COMPLETE (R235). -/
  | kvPoolDisableComplete (part : Fin 16)
  /-- PRE_EMPTION (R107). -/
  | preEmption (core : CoreId)
  /-- INSTANCE_START (R87). -/
  | instanceStart (core : CoreId)
  /-- INSTANCE_RESUME (R117). -/
  | instanceResume (core : CoreId)
  /-- INSTANCE_END (R93). -/
  | instanceEnd (core : CoreId)
  /-- LAUNCH_END (R83). -/
  | launchEnd (id : Nat)
  /-- ATTEST (R56). -/
  | attest (written : Bool)
  /-- CONFIGURATION_RECORD (R47). -/
  | configurationRecord (read : Bool)
  /-- RUNTIME_IMAGE (R70). -/
  | runtimeImage (read : Bool)
  /-- BIROTTE_REQUEST (R71). -/
  | birotteRequest (port : Fin 32)
  /-- PENDING_CORE_RETIREMENT (R62). -/
  | pendingCoreRetirement (core : CoreId)
  /-- SPLIT_APPLY (R89). -/
  | splitApply (core : CoreId)
  /-- IMAGE_DATA (R53). -/
  | imageData (port : Fin 32)
  /-- RECORD_OFFER (R53). -/
  | recordOffer (port : Fin 32)
  /-- DATA_FRAME_SEND (R33). -/
  | dataFrameSend (port : Fin 32) (cls : Fin 8)
  /-- RESEND_TIMEOUT (R32). -/
  | resendTimeout (port : Fin 32) (cls : Fin 8)
  /-- KEEP_ALIVE (R35). -/
  | keepAlive (port : Fin 32)
  /-- PEER_DOWN (R35). -/
  | peerDown (port : Fin 32)
  /-- ELEMENT_GROUP_ISSUE (R102). -/
  | elementGroupIssue (core : CoreId) (g : Fin 4)
  /-- ENGINE_COMMAND_COMPLETION (R170). -/
  | engineCommandCompletion (unit : UnitSel)
  /-- PARTITION_RESET_COMPLETE (R58). -/
  | partitionResetComplete (part : Fin 16)
  /-- DRAIN_MARKER_ARRIVAL (R229). -/
  | drainMarkerArrival (port : Fin 32) (gen : BitVec 16)
  /-- KV_POOL_ENABLE (R234). -/
  | kvPoolEnable (part : Fin 16) (v : Word)
  /-- KV_POOL_DISABLE (R235). -/
  | kvPoolDisable (part : Fin 16)
  /-- LAUNCH_PORT_SUBMIT (R75). -/
  | launchPortSubmit (port : Fin 16) (v : Word)
  /-- SUBMISSION_TAKE (R78). -/
  | submissionTake
  /-- PLACEMENT_ROUND (R81). -/
  | placementRound
  /-- MAILBOX_POLL (R68). -/
  | mailboxPoll
  /-- SUBMIT_LAUNCH (R70). -/
  | submitLaunch
  /-- CANCEL_LAUNCH (R84). -/
  | cancelLaunch
  /-- RESPONSE_RELEASE (R68). -/
  | responseRelease
  /-- RETIRE_CORE (R62). -/
  | retireCore (target : BitVec 11)
  /-- RETIRE_LANE_GROUP (R62). -/
  | retireLaneGroup (target : BitVec 11)
  /-- RETIRE_CHANNEL (R62). -/
  | retireChannel (target : BitVec 11)
  /-- RETIRE_PORT (R62). -/
  | retirePort (target : BitVec 11)
  /-- RESET_PARTITION (R58). -/
  | resetPartition (target : BitVec 11)
  /-- RE_IMAGE_PARTITION (R58). -/
  | reImagePartition (target : BitVec 11)
  /-- REPAIR_BAD_OPERATION (R60). -/
  | repairBadOperation (op : BitVec 4) (target : BitVec 11)
  /-- HEALTH_WORD (R66). -/
  | healthWord (v : Word)
  /-- FIRMWARE_UPDATE (R63). -/
  | firmwareUpdate (image : List Byte)
  /-- HEALTH_TIMEOUT (R65). -/
  | healthTimeout
  /-- NOTIFICATION_POP (R272). -/
  | notificationPop
  /-- UNFREEZE_REGISTER (R349). -/
  | unfreezeRegister (master : BitVec 32)
  /-- TRC_WRITE (R284). -/
  | trcWrite (core : CoreId) (v : Word)
  /-- REGISTER_WRITE (R4). -/
  | registerWrite (addr : Nat) (bytes : Nat) (v : Word)
  /-- BOOT_SEQUENCE (R51). -/
  | bootSequence
  /-- ENROLMENT_REPORT (R54). -/
  | enrolmentReport
  /-- BOOT_REQUEST_RETRY (R53). -/
  | bootRequestRetry
  /-- BOOT_FETCH_RETRY (R51). -/
  | bootFetchRetry
  /-- PORT_COME_UP (R34). -/
  | portComeUp (port : Fin 32)
  /-- DATA_FRAME_RECEIVE (R32). -/
  | dataFrameReceive (port : Fin 32) (frame : List Byte)
  /-- ACKNOWLEDGEMENT (R32). -/
  | acknowledgement (port : Fin 32) (frame : List Byte)
  /-- CREDIT_GRANT (R33). -/
  | creditGrant (port : Fin 32) (frame : List Byte)
  /-- UCIE_RETRAIN (R17). -/
  | ucieRetrain (a b : Fin 10)
  /-- UCIE_RETRAINING_FAILURE (R17). -/
  | ucieRetrainingFailure (a b : Fin 10)
  /-- CXL_SURPRISE_REMOVAL (R27). -/
  | cxlSurpriseRemoval (port : Fin 8)
  /-- POWER_ESTIMATE (R39). -/
  | powerEstimate (amps : Nat)
  /-- THERMAL_THROTTLE_ENTER (R40). -/
  | thermalThrottleEnter (die : Fin 10) (celsius : BitVec 8)
  /-- THERMAL_THROTTLE_LEAVE (R40). -/
  | thermalThrottleLeave (die : Fin 10) (celsius : BitVec 8)
  /-- THERMAL_HALT (R40). -/
  | thermalHalt (die : Fin 10) (celsius : BitVec 8)
  /-- DEBUG_HALT (R282). -/
  | debugHalt
  /-- DEBUG_RESUME (R282). -/
  | debugResume
  /-- UCIE_RETRAINING_END (R17). -/
  | ucieRetrainingEnd (a b : Fin 10)
  /-- POWER_FAIL (R47). -/
  | powerFail (keepOld : Bool)
  /-- KEEP_ALIVE_RECEIPT (R35). -/
  | keepAliveReceipt (port : Fin 32)
  deriving DecidableEq, Repr

end Sys2Proof
end

