-- ==== Sys2Proof/WellFormed.lean ====
section
/-! DEFINITION. The well-formed instructions: the ranges that R306 to R319 give the fields of each
word, by one Boolean check a constructor. An event row carries no encoding and is always well formed. -/

namespace Sys2Proof

open Sys2Proof.Machine

/-- The control register numbers of R308. -/
def crAssigned (n : Nat) : Bool := n ≤ 0x15 || (0x40 ≤ n && n < 0x80)

/-- The formats of a product: fp4, fp8e4, fp8e5, bf16 (R311). -/
def mmaFmtOk (fmt : BitVec 4) : Bool := fmt == 8 || fmt == 9 || fmt == 10 || fmt == 12

/-- The formats of a drain: codes 8 to 13 (R312). -/
def drainFmtOk (fmt : BitVec 4) : Bool := 8 ≤ fmt.toNat && fmt.toNat ≤ 13

/-- A vector word is one that R318 to R320 allow, with a rounding mode of R195. -/
def slotOk (op : VOp) (f : VF) : Bool := slotLegal op f && slotRndOk op f

/-- A convoy holds one to four vector instructions, and a unit 7, 8 or 10 instruction stands alone
(R289, R297, R320). -/
def convoyOk (slots : List VSlot) : Bool :=
  1 ≤ slots.length && slots.length ≤ 4 && slots.all (fun v => slotOk v.op v.f) &&
    (slots.length == 1 || slots.all (fun v => !slotAlone v.op))

/-- The check of each instruction. -/
def Instr.wf : Instr → Bool
  | .add _ _ _ _ => true
  | .sub _ _ _ _ => true
  | .mul _ _ _ _ => true
  | .mulh _ _ _ _ => true
  | .mulhn _ _ _ _ => true
  | .div _ _ _ _ => true
  | .divn _ _ _ _ => true
  | .rem _ _ _ _ => true
  | .remn _ _ _ _ => true
  | .and _ _ _ _ => true
  | .or _ _ _ _ => true
  | .xor _ _ _ _ => true
  | .shl _ _ _ _ => true
  | .shr _ _ _ _ => true
  | .sra _ _ _ _ => true
  | .min _ _ _ _ => true
  | .max _ _ _ _ => true
  | .minn _ _ _ _ => true
  | .maxn _ _ _ _ => true
  | .clz _ _ _ => true
  | .ctz _ _ _ => true
  | .popc _ _ _ => true
  | .mov _ _ _ => true
  | .sel _ _ _ _ _ => true
  | .cmpEq pd _ _ _ => pd != 0
  | .cmpNe pd _ _ _ => pd != 0
  | .cmpLt pd _ _ _ => pd != 0
  | .cmpGe pd _ _ _ => pd != 0
  | .cmpLtn pd _ _ _ => pd != 0
  | .cmpGen pd _ _ _ => pd != 0
  | .pand pd _ _ _ => pd != 0
  | .por pd _ _ _ => pd != 0
  | .pnot pd _ _ => pd != 0
  | .addi _ _ _ _ => true
  | .andi _ _ _ _ => true
  | .ori _ _ _ _ => true
  | .xori _ _ _ _ => true
  | .shli _ _ imm _ => imm.toNat < 64
  | .shri _ _ imm _ => imm.toNat < 64
  | .srai _ _ imm _ => imm.toNat < 64
  | .li _ _ _ => true
  | .lih _ _ _ _ => true
  | .cmpiEq pd _ _ _ => pd != 0
  | .cmpiNe pd _ _ _ => pd != 0
  | .cmpiLt pd _ _ _ => pd != 0
  | .cmpiGe pd _ _ _ => pd != 0
  | .cmpiLtn pd _ _ _ => pd != 0
  | .cmpiGen pd _ _ _ => pd != 0
  | .ld _ _ => true
  | .ldn f _ => f.width != 3
  | .st _ _ => true
  | .amoAdd _ _ => true
  | .amoMin _ _ => true
  | .amoMax _ _ => true
  | .amoSwap _ _ => true
  | .amoCas _ _ => true
  | .amoAnd _ _ => true
  | .amoOr _ _ => true
  | .br _ _ => true
  | .call _ _ => true
  | .bp _ _ _ => true
  | .jr _ _ => true
  | .ret _ => true
  | .vstrip _ _ _ => true
  | .barInit _ _ _ _ => true
  | .barArrive _ _ mode _ => mode != 3
  | .barWait _ _ => true
  | .barTwait _ _ _ _ => true
  | .barTest _ _ _ => true
  | .fence scope mask _ => scope.toNat ≤ 5 && mask != 0
  | .fork _ _ _ _ => true
  | .rendez _ _ => true
  | .launch _ _ _ => true
  | .ident _ code _ => code.toNat ≤ 8
  | .clk _ _ => true
  | .crRd _ num _ => crAssigned num.toNat
  | .crWr _ num _ => crAssigned num.toNat
  | .crSet _ num _ => crAssigned num.toNat
  | .crClr _ num _ => crAssigned num.toNat
  | .trap _ _ => true
  | .eret _ => true
  | .ueret _ => true
  | .halt _ => true
  | .tlbinv _ _ => true
  | .tlbinvAll _ => true
  | .nop _ => true
  | .unfreeze _ _ _ => true
  | .psample _ _ => true
  | .mclaimX n _ => n.toNat < 32
  | .mclaimXScl n _ => n.toNat < 32
  | .mclaimW _ _ => true
  | .mreleaseX n _ => n.toNat < 32
  | .mreleaseW _ _ => true
  | .mzero _ _ _ => true
  | .mqprio n _ => n.toNat ≤ 2
  | .mmodeStd _ _ => true
  | .mmodeRed _ _ => true
  | .mma f _ => mmaFmtOk f.fmt && f.gang == 0 && f.n1 == 0 && (f.arrive || f.bar == 0)
  | .mmar f _ => mmaFmtOk f.fmt && f.gang == 0 && (f.arrive || f.bar == 0)
  | .mreel f _ => mmaFmtOk f.fmt && f.gang != 0 && f.n1 == 0 && f.arrive
  | .mdrain f _ => drainFmtOk f.fmt && f.rnd.toNat ≤ 4 && (f.arrive || f.bar == 0)
  | .sstrm _ _ _ _ _ => true
  | .speek _ _ _ => true
  | .ssusp _ _ _ => true
  | .sres _ _ _ => true
  | .skill _ _ _ => true
  | .snote _ _ _ => true
  | .rtpush _ _ _ => true
  | .rdisp _ _ _ => true
  | .rcombPart _ _ _ => true
  | .rcombFin _ _ _ => true
  | .rgenOpen _ _ _ _ _ => true
  | .rgenRetire _ _ _ => true
  | .abound _ _ _ _ => true
  | .agather _ _ port _ _ => port == 4 || port == 7
  | .kvalloc _ _ _ _ _ => true
  | .kvfree _ _ _ _ => true
  | .kvpin _ _ _ _ => true
  | .kvunpin _ _ _ _ => true
  | .kvevict _ _ _ _ _ => true
  | .kvinv _ _ _ _ _ => true
  | .sctab _ _ => true
  | .scommit _ => true
  | .sabort _ => true
  | .sop _ _ _ _ _ => true
  | .sreg _ _ _ => true
  | .sbegin _ _ _ => true
  | .vcfg f _ => f.fmt != 0 && f.fmt != 14
  | .vreshape n _ => n != 3
  | .vquad _ _ => true
  | .convoy slots _ => convoyOk slots
  | .vadd f => slotOk .vadd f
  | .vsub f => slotOk .vsub f
  | .vadds f => slotOk .vadds f
  | .vsubs f => slotOk .vsubs f
  | .vmul f => slotOk .vmul f
  | .vmin f => slotOk .vmin f
  | .vmax f => slotOk .vmax f
  | .vabs f => slotOk .vabs f
  | .vneg f => slotOk .vneg f
  | .vnot f => slotOk .vnot f
  | .vand f => slotOk .vand f
  | .vor f => slotOk .vor f
  | .vxor f => slotOk .vxor f
  | .vshl f => slotOk .vshl f
  | .vshr f => slotOk .vshr f
  | .vsra f => slotOk .vsra f
  | .vdiv f => slotOk .vdiv f
  | .vsqrt f => slotOk .vsqrt f
  | .vrsqrt f => slotOk .vrsqrt f
  | .vrcp f => slotOk .vrcp f
  | .vclass f => slotOk .vclass f
  | .vcmp f => slotOk .vcmp f
  | .vsel f => slotOk .vsel f
  | .vmov f => slotOk .vmov f
  | .vbcast f => slotOk .vbcast f
  | .vid f => slotOk .vid f
  | .vmand f => slotOk .vmand f
  | .vmor f => slotOk .vmor f
  | .vmnot f => slotOk .vmnot f
  | .vfma f => slotOk .vfma f
  | .vfms f => slotOk .vfms f
  | .vfnma f => slotOk .vfnma f
  | .vwmac f => slotOk .vwmac f
  | .vdotBlk f => slotOk .vdotBlk f
  | .vcvt f => slotOk .vcvt f
  | .vld f => slotOk .vld f
  | .vlds f => slotOk .vlds f
  | .vldx f => slotOk .vldx f
  | .vgl f => slotOk .vgl f
  | .vldIpb f => slotOk .vldIpb f
  | .vldZ f => slotOk .vldZ f
  | .vst f => slotOk .vst f
  | .vsts f => slotOk .vsts f
  | .vstx f => slotOk .vstx f
  | .vstX f => slotOk .vstX f
  | .vsc f => slotOk .vsc f
  | .vamo f => slotOk .vamo f
  | .vwait f => slotOk .vwait f
  | .vsortr f => slotOk .vsortr f
  | .vchk f => slotOk .vchk f
  | .vmerge f => slotOk .vmerge f
  | .vinter f => slotOk .vinter f
  | .vuniq f => slotOk .vuniq f
  | .vrank f => slotOk .vrank f
  | .vpart f => slotOk .vpart f
  | .vmrgs f => slotOk .vmrgs f
  | .vred f => slotOk .vred f
  | .vscan f => slotOk .vscan f
  | .vsegred f => slotOk .vsegred f
  | .vsegscan f => slotOk .vsegscan f
  | .vsegld f => slotOk .vsegld f
  | .vperm f => slotOk .vperm f
  | .vcompress f => slotOk .vcompress f
  | .vexpand f => slotOk .vexpand f
  | .vslide f => slotOk .vslide f
  | .vrev f => slotOk .vrev f
  | .vsin f => slotOk .vsin f
  | .vcos f => slotOk .vcos f
  | .vexp2 f => slotOk .vexp2 f
  | .vlog2 f => slotOk .vlog2 f
  | .vtanh f => slotOk .vtanh f
  | .vsigm f => slotOk .vsigm f
  | .vmmCopy f => slotOk .vmmCopy f
  | .vmmFill f => slotOk .vmmFill f
  | .elementPerform _ => true
  | .barrierPhaseComplete _ _ => true
  | .barTwaitExpiry _ _ => true
  | .vwaitExpiry _ _ => true
  | .feedLimitExpiry _ _ => true
  | .shareWindow _ => true
  | .matrixGrant _ => true
  | .reelComplete _ => true
  | .streamStart _ _ => true
  | .streamEnd _ _ => true
  | .userInterrupt _ => true
  | .trapEntry _ _ => true
  | .factorGateEntry _ => true
  | .rowArrival _ => true
  | .combineRowArrival _ => true
  | .drainMarkerArrival _ _ => true
  | .speculationAbort _ _ => true
  | .sopWaitComplete _ _ => true
  | .kvPoolEnable _ _ => true
  | .kvPoolDisable _ => true
  | .kvPoolDisableComplete _ => true
  | .preEmption _ => true
  | .instanceStart _ => true
  | .instanceResume _ => true
  | .instanceEnd _ => true
  | .launchEnd _ => true
  | .launchPortSubmit _ _ => true
  | .submissionTake => true
  | .placementRound => true
  | .mailboxPoll => true
  | .submitLaunch => true
  | .cancelLaunch => true
  | .attest _ => true
  | .configurationRecord _ => true
  | .runtimeImage _ => true
  | .responseRelease => true
  | .birotteRequest _ => true
  | .retireCore _ => true
  | .retireLaneGroup _ => true
  | .retireChannel _ => true
  | .retirePort _ => true
  | .resetPartition _ => true
  | .reImagePartition _ => true
  | .repairBadOperation _ _ => true
  | .pendingCoreRetirement _ => true
  | .healthWord _ => true
  | .firmwareUpdate _ => true
  | .healthTimeout => true
  | .notificationPop => true
  | .unfreezeRegister _ => true
  | .splitApply _ => true
  | .trcWrite _ _ => true
  | .registerWrite _ _ _ => true
  | .bootSequence => true
  | .enrolmentReport => true
  | .bootRequestRetry => true
  | .bootFetchRetry => true
  | .imageData _ => true
  | .recordOffer _ => true
  | .portComeUp _ => true
  | .dataFrameReceive _ _ => true
  | .acknowledgement _ _ => true
  | .creditGrant _ _ => true
  | .dataFrameSend _ _ => true
  | .resendTimeout _ _ => true
  | .keepAlive _ => true
  | .peerDown _ => true
  | .ucieRetrain _ _ => true
  | .ucieRetrainingFailure _ _ => true
  | .cxlSurpriseRemoval _ => true
  | .powerEstimate _ => true
  | .thermalThrottleEnter _ _ => true
  | .thermalThrottleLeave _ _ => true
  | .thermalHalt _ _ => true
  | .debugHalt => true
  | .debugResume => true
  | .elementGroupIssue _ _ => true
  | .engineCommandCompletion _ => true
  | .partitionResetComplete _ => true
  | .ucieRetrainingEnd _ _ => true
  | .powerFail _ => true
  | .keepAliveReceipt _ => true

end Sys2Proof
end

