-- ==== Sys2Proof/Decode.lean ====
section
/-! DEFINITION. The decoder and the encoder (R297 to R321).

`decode` is total on any bytes: it answers an instruction and the bytes left, or a rejection by name.
What depends on the engine (R309, VREGS, privilege) is judged at issue (Machine/Issue.lean).
`encode` gives the words of a well-formed instruction from the same tables. -/

namespace Sys2Proof

open Sys2Proof.Machine

/-- Why a word is no instruction (R320, step 3). -/
inductive Reason where
  /-- an unassigned major opcode (R306) -/
  | majorUnassigned
  /-- an unassigned func8, sub-op or form code (R306, R307, R310 to R316) -/
  | subopUnassigned
  /-- a reserved or unused field that is not zero -/
  | reservedNonzero
  /-- a value out of the range given for its field -/
  | fieldRange
  /-- a destination predicate of p0 (R328) -/
  | predicateZero
  /-- an unassigned control register number (R308) -/
  | crUnassigned
  /-- a header's unit codes break R289 or R317 -/
  | unitCode
  /-- a unit 7, 8 or 10 instruction in a convoy of count above 1 (R289) -/
  | chained
  /-- an unassigned vector opcode (R319) -/
  | opcodeUnassigned
  /-- a field, form or range of a vector word that R318 or R319 does not allow -/
  | slotField
  deriving DecidableEq, Repr

/-- What the decoder answers for bytes that are no instruction. -/
inductive Reject where
  /-- fewer bytes than the instruction has -/
  | short
  /-- a convoy header at an address that is 0 modulo 8 (R299, ECODE 0x04) -/
  | headerAlign
  /-- an illegal word, with the EINFO of R265 (R320 step 3, ECODE 0x01) -/
  | illegal (why : Reason) (einfo : Word)
  /-- a reserved rounding mode, with the word as read and the EINFO of R265 (R320 step 4, ECODE 0x02) -/
  | rounding (i : Instr) (einfo : Word)
  deriving DecidableEq, Repr

/-- `len` bits of a scalar word from bit `lo` up (R2). -/
def fld (w : Word32) (lo len : Nat) : BitVec len := w.extractLsb' lo len

/-- Bit `n` of a scalar word. -/
def bit (w : Word32) (n : Nat) : Bool := w.getLsbD n

/-- `len` bits from `lo` up are zero. -/
def zeroAt (w : Word32) (lo len : Nat) : Bool := fld w lo len == 0

/-- `i` when the condition holds, and the reason otherwise. -/
def need (ok : Bool) (why : Reason) (i : Instr) : Except Reason Instr := if ok then .ok i else .error why

/-- Major 0x00: the ALU group (R307). -/
def decodeAlu (w : Word32) : Except Reason Instr :=
  let rd := fld w 21 5
  let rs1 := fld w 16 5
  let rs2 := fld w 11 5
  let stl := fld w 0 3
  let pd := fld w 21 3
  let pHigh := zeroAt w 24 2
  let cmpOk (i : Instr) : Except Reason Instr :=
    if !pHigh then .error .reservedNonzero else need (pd != 0) .predicateZero i
  let predOk (two : Bool) (i : Instr) : Except Reason Instr :=
    if !(pHigh && zeroAt w 19 2 && (if two then zeroAt w 14 2 else zeroAt w 11 5)) then .error .reservedNonzero
    else need (pd != 0) .predicateZero i
  match (fld w 3 8).toNat with
  | 0x00 => .ok (.add rd rs1 rs2 stl)
  | 0x01 => .ok (.sub rd rs1 rs2 stl)
  | 0x02 => .ok (.mul rd rs1 rs2 stl)
  | 0x03 => .ok (.mulh rd rs1 rs2 stl)
  | 0x04 => .ok (.mulhn rd rs1 rs2 stl)
  | 0x05 => .ok (.div rd rs1 rs2 stl)
  | 0x06 => .ok (.divn rd rs1 rs2 stl)
  | 0x07 => .ok (.rem rd rs1 rs2 stl)
  | 0x08 => .ok (.remn rd rs1 rs2 stl)
  | 0x09 => .ok (.and rd rs1 rs2 stl)
  | 0x0a => .ok (.or rd rs1 rs2 stl)
  | 0x0b => .ok (.xor rd rs1 rs2 stl)
  | 0x0c => .ok (.shl rd rs1 rs2 stl)
  | 0x0d => .ok (.shr rd rs1 rs2 stl)
  | 0x0e => .ok (.sra rd rs1 rs2 stl)
  | 0x0f => .ok (.min rd rs1 rs2 stl)
  | 0x10 => .ok (.max rd rs1 rs2 stl)
  | 0x11 => .ok (.minn rd rs1 rs2 stl)
  | 0x12 => .ok (.maxn rd rs1 rs2 stl)
  | 0x13 => need (rs2 == 0) .reservedNonzero (.clz rd rs1 stl)
  | 0x14 => need (rs2 == 0) .reservedNonzero (.ctz rd rs1 stl)
  | 0x15 => need (rs2 == 0) .reservedNonzero (.popc rd rs1 stl)
  | 0x16 => need (rs2 == 0) .reservedNonzero (.mov rd rs1 stl)
  | 0x20 => cmpOk (.cmpEq pd rs1 rs2 stl)
  | 0x21 => cmpOk (.cmpNe pd rs1 rs2 stl)
  | 0x22 => cmpOk (.cmpLt pd rs1 rs2 stl)
  | 0x23 => cmpOk (.cmpGe pd rs1 rs2 stl)
  | 0x24 => cmpOk (.cmpLtn pd rs1 rs2 stl)
  | 0x25 => cmpOk (.cmpGen pd rs1 rs2 stl)
  | 0x28 => predOk true (.pand pd (fld w 16 3) (fld w 11 3) stl)
  | 0x29 => predOk true (.por pd (fld w 16 3) (fld w 11 3) stl)
  | 0x2a => predOk false (.pnot pd (fld w 16 3) stl)
  | 0x30 => .ok (.sel rd 0 rs1 rs2 stl)
  | 0x31 => .ok (.sel rd 1 rs1 rs2 stl)
  | 0x32 => .ok (.sel rd 2 rs1 rs2 stl)
  | 0x33 => .ok (.sel rd 3 rs1 rs2 stl)
  | 0x34 => .ok (.sel rd 4 rs1 rs2 stl)
  | 0x35 => .ok (.sel rd 5 rs1 rs2 stl)
  | 0x36 => .ok (.sel rd 6 rs1 rs2 stl)
  | 0x37 => .ok (.sel rd 7 rs1 rs2 stl)
  | _ => .error .subopUnassigned

/-- Majors 0x14 to 0x17: the scalar atomics (R303). -/
def decodeAmo (w : Word32) : Except Reason Instr :=
  let f : AmoF := { rd := fld w 22 3, base := fld w 17 5, rs2 := fld w 14 3, width := fld w 12 2, sp := bit w 11,
                    cls := fld w 7 4, ord := fld w 3 4 }
  let stl := fld w 0 3
  match (fld w 25 3).toNat % 8 with
  | 0 => .ok (.amoAdd f stl)
  | 1 => .ok (.amoMin f stl)
  | 2 => .ok (.amoMax f stl)
  | 3 => .ok (.amoSwap f stl)
  | 4 => .ok (.amoCas f stl)
  | 5 => .ok (.amoAnd f stl)
  | 6 => .ok (.amoOr f stl)
  | _ => .error .subopUnassigned

/-- Major 0x20: the barrier group (R306). -/
def decodeBar (w : Word32) : Except Reason Instr :=
  let rd := fld w 21 5
  let rs1 := fld w 16 5
  let b := fld w 10 6
  let stl := fld w 0 3
  match (fld w 7 3).toNat with
  | 0 => need (zeroAt w 21 5 && zeroAt w 3 2) .reservedNonzero (.barInit b rs1 (fld w 5 2) stl)
  | 1 => if zeroAt w 21 5 && zeroAt w 5 2 then need (fld w 3 2 != 3) .fieldRange (.barArrive b rs1 (fld w 3 2) stl)
         else .error .reservedNonzero
  | 2 => need (zeroAt w 16 10 && zeroAt w 3 4) .reservedNonzero (.barWait b stl)
  | 3 => need (zeroAt w 3 4) .reservedNonzero (.barTwait rd b rs1 stl)
  | 4 => need (zeroAt w 16 5 && zeroAt w 3 4) .reservedNonzero (.barTest rd b stl)
  | _ => .error .subopUnassigned

/-- Major 0x28: control registers (R306, R308). -/
def decodeCr (w : Word32) : Except Reason Instr :=
  let r := fld w 21 5
  let num := fld w 7 12
  let stl := fld w 0 3
  if !zeroAt w 3 4 then .error .reservedNonzero
  else if !crAssigned num.toNat then .error .crUnassigned
  else match (fld w 19 2).toNat with
    | 0 => .ok (.crRd r num stl)
    | 1 => .ok (.crWr r num stl)
    | 2 => .ok (.crSet r num stl)
    | _ => .ok (.crClr r num stl)

/-- Major 0x30: the single-word matrix commands (R310). -/
def decodeMat (w : Word32) : Except Reason Instr :=
  let n := fld w 15 6
  let q := bit w 14
  let stl := fld w 0 3
  let x (ok : Bool) (i : Instr) : Except Reason Instr := if q then .error .reservedNonzero else need ok .fieldRange i
  if !zeroAt w 3 11 then .error .reservedNonzero
  else match (fld w 21 5).toNat with
    | 0 => x (n.toNat < 32) (.mclaimX n stl)
    | 1 => x (n.toNat < 32) (.mclaimXScl n stl)
    | 2 => x true (.mclaimW n stl)
    | 3 => x (n.toNat < 32) (.mreleaseX n stl)
    | 4 => x true (.mreleaseW n stl)
    | 5 => .ok (.mzero n q stl)
    | 6 => x (n.toNat ≤ 2) (.mqprio n stl)
    | 7 => need (n == 0) .reservedNonzero (.mmodeStd q stl)
    | 8 => need (n == 0) .reservedNonzero (.mmodeRed q stl)
    | _ => .error .subopUnassigned

/-- Major 0x39: the stream commands beside `sstrm` (R313). -/
def decodeStream (w : Word32) : Except Reason Instr :=
  let stl := fld w 0 3
  let port := fld w 13 3
  let q := bit w 12
  let c (i : Instr) : Except Reason Instr := need (zeroAt w 16 10) .reservedNonzero i
  if !zeroAt w 6 6 then .error .reservedNonzero
  else match (fld w 3 3).toNat with
    | 0 => need (zeroAt w 12 4) .reservedNonzero (.speek (fld w 21 5) (fld w 16 5) stl)
    | 1 => c (.ssusp port q stl)
    | 2 => c (.sres port q stl)
    | 3 => c (.skill port q stl)
    | 4 => c (.snote port q stl)
    | _ => .error .subopUnassigned

/-- Major 0x3c: routing, attention and speculation (R314). -/
def decodeEngine (w : Word32) : Except Reason Instr :=
  let rd := fld w 21 5
  let rs1 := fld w 16 5
  let rs2 := fld w 11 5
  let q := bit w 3
  let stl := fld w 0 3
  let d0 := rd == 0
  let b0 := rs2 == 0
  match (fld w 4 7).toNat with
  | 0 => need (d0 && b0) .reservedNonzero (.rtpush rs1 q stl)
  | 1 => need (d0 && b0) .reservedNonzero (.rdisp rs1 q stl)
  | 2 => need (d0 && b0) .reservedNonzero (.rcombPart rs1 q stl)
  | 3 => need (d0 && b0) .reservedNonzero (.rcombFin rs1 q stl)
  | 4 => .ok (.rgenOpen rd rs1 rs2 q stl)
  | 5 => need (d0 && b0) .reservedNonzero (.rgenRetire rs1 q stl)
  | 6 => need (!q) .reservedNonzero (.abound rd rs1 rs2 stl)
  | 7 => need (rs2 == 4 || rs2 == 7) .fieldRange (.agather rd rs1 rs2 q stl)
  | 8 => .ok (.kvalloc rd rs1 rs2 q stl)
  | 9 => need b0 .reservedNonzero (.kvfree rd rs1 q stl)
  | 10 => need b0 .reservedNonzero (.kvpin rd rs1 q stl)
  | 11 => need b0 .reservedNonzero (.kvunpin rd rs1 q stl)
  | 12 => .ok (.kvevict rd rs1 rs2 q stl)
  | 13 => .ok (.kvinv rd rs1 rs2 q stl)
  | 14 => need (d0 && b0 && !q) .reservedNonzero (.sctab rs1 stl)
  | 15 => need (d0 && rs1 == 0 && b0 && !q) .reservedNonzero (.scommit stl)
  | 16 => need (d0 && rs1 == 0 && b0 && !q) .reservedNonzero (.sabort stl)
  | _ => .error .subopUnassigned

/-- Major 0x3d (R315). -/
def decodeSpec (w : Word32) : Except Reason Instr :=
  let stl := fld w 0 3
  match (fld w 3 2).toNat with
  | 0 => .ok (.sop (fld w 5 6) (fld w 21 5) (fld w 16 5) (fld w 11 5) stl)
  | 1 => need (zeroAt w 21 5 && zeroAt w 11 5) .reservedNonzero (.sreg (fld w 5 6) (fld w 16 5) stl)
  | 2 => .ok (.sbegin (fld w 21 5) (fld w 5 16) stl)
  | _ => .error .subopUnassigned

/-- Major 0x3e: vector configuration (R316). -/
def decodeVconf (w : Word32) : Except Reason Instr :=
  let stl := fld w 0 3
  match (fld w 3 2).toNat with
  | 0 =>
    let f : VcfgF := { rd := fld w 21 5, rs1 := fld w 16 5, fmt := fld w 12 4, blk := fld w 9 3, grp := fld w 7 2,
                       ta := bit w 6, ma := bit w 5 }
    need (f.fmt != 0 && f.fmt != 14) .fieldRange (.vcfg f stl)
  | 1 => if zeroAt w 16 10 && zeroAt w 5 9 then need (fld w 14 2 != 3) .fieldRange (.vreshape (fld w 14 2) stl)
         else .error .reservedNonzero
  | 2 => need (zeroAt w 16 10 && zeroAt w 5 9) .reservedNonzero (.vquad (fld w 14 2) stl)
  | _ => .error .subopUnassigned

/-- A one-word scalar instruction by its major opcode (R306). Majors 0x31 to 0x34 and 0x3f, which take
more words, are no one-word instruction. -/
def decodeScalar (w : Word32) : Except Reason Instr :=
  let rd := fld w 21 5
  let rs1 := fld w 16 5
  let imm := fld w 3 13
  let stl := fld w 0 3
  let pd := fld w 21 3
  let mf : MemF := { r := rd, base := rs1, cls := fld w 12 4, width := fld w 10 2, sp := bit w 9, imm := fld w 3 6 }
  let cmpi (i : Instr) : Except Reason Instr :=
    if !zeroAt w 24 2 then .error .reservedNonzero else need (pd != 0) .predicateZero i
  match (fld w 26 6).toNat with
  | 0x00 => decodeAlu w
  | 0x01 => .ok (.addi rd rs1 imm stl)
  | 0x02 => .ok (.andi rd rs1 imm stl)
  | 0x03 => .ok (.ori rd rs1 imm stl)
  | 0x04 => .ok (.xori rd rs1 imm stl)
  | 0x05 => need (imm.toNat < 64) .fieldRange (.shli rd rs1 imm stl)
  | 0x06 => need (imm.toNat < 64) .fieldRange (.shri rd rs1 imm stl)
  | 0x07 => need (imm.toNat < 64) .fieldRange (.srai rd rs1 imm stl)
  | 0x08 => .ok (.li rd (fld w 3 18) stl)
  | 0x09 => .ok (.lih rd (fld w 19 2) (fld w 3 16) stl)
  | 0x0a => cmpi (.cmpiEq pd rs1 imm stl)
  | 0x0b => cmpi (.cmpiNe pd rs1 imm stl)
  | 0x0c => cmpi (.cmpiLt pd rs1 imm stl)
  | 0x0d => cmpi (.cmpiGe pd rs1 imm stl)
  | 0x0e => cmpi (.cmpiLtn pd rs1 imm stl)
  | 0x0f => cmpi (.cmpiGen pd rs1 imm stl)
  | 0x10 => .ok (.ld mf stl)
  | 0x11 => need (mf.width != 3) .fieldRange (.ldn mf stl)
  | 0x12 => .ok (.st mf stl)
  | 0x14 => decodeAmo w
  | 0x15 => decodeAmo w
  | 0x16 => decodeAmo w
  | 0x17 => decodeAmo w
  | 0x18 => .ok (.br (fld w 3 23) stl)
  | 0x19 => .ok (.call (fld w 3 23) stl)
  | 0x1a => need (zeroAt w 24 2) .reservedNonzero (.bp pd (fld w 3 18) stl)
  | 0x1b => need (zeroAt w 21 5 && zeroAt w 3 13) .reservedNonzero (.jr rs1 stl)
  | 0x1c => need (zeroAt w 3 23) .reservedNonzero (.ret stl)
  | 0x1d => .ok (.vstrip rd (fld w 3 18) stl)
  | 0x20 => decodeBar w
  | 0x21 => if !zeroAt w 19 4 then .error .reservedNonzero
            else need ((fld w 23 3).toNat ≤ 5 && fld w 3 16 != 0) .fieldRange (.fence (fld w 23 3) (fld w 3 16) stl)
  | 0x22 => .ok (.fork (fld w 24 2) (fld w 19 5) (fld w 3 16) stl)
  | 0x23 => need (zeroAt w 7 19) .reservedNonzero (.rendez (fld w 3 4) stl)
  | 0x24 => need (zeroAt w 3 13) .reservedNonzero (.launch rd rs1 stl)
  | 0x25 => if !zeroAt w 16 5 then .error .reservedNonzero else need (imm.toNat ≤ 8) .fieldRange (.ident rd imm stl)
  | 0x26 => need (zeroAt w 3 18) .reservedNonzero (.clk rd stl)
  | 0x28 => decodeCr w
  | 0x29 => need (zeroAt w 19 7) .reservedNonzero (.trap (fld w 3 16) stl)
  | 0x2a => if !zeroAt w 11 15 then .error .reservedNonzero
            else match (fld w 3 8).toNat with
              | 1 => .ok (.eret stl)
              | 2 => .ok (.ueret stl)
              | 3 => .ok (.halt stl)
              | _ => .error .subopUnassigned
  | 0x2b => if !(zeroAt w 21 5 && zeroAt w 4 12) then .error .reservedNonzero
            else if bit w 3 then need (rs1 == 0) .reservedNonzero (.tlbinvAll stl) else .ok (.tlbinv rs1 stl)
  | 0x2c => need (zeroAt w 3 23) .reservedNonzero (.nop stl)
  | 0x2d => need (zeroAt w 3 13) .reservedNonzero (.unfreeze rd rs1 stl)
  | 0x2e => need (zeroAt w 21 5 && zeroAt w 3 13) .reservedNonzero (.psample rs1 stl)
  | 0x30 => decodeMat w
  | 0x38 => need (zeroAt w 3 9) .reservedNonzero (.sstrm rd rs1 (fld w 13 3) (bit w 12) stl)
  | 0x39 => decodeStream w
  | 0x3c => decodeEngine w
  | 0x3d => decodeSpec w
  | 0x3e => decodeVconf w
  | _ => .error .majorUnassigned

/-- The command word and the operand word of a product (R311). -/
def decodeMma (w o : Word32) : Except Reason Instr :=
  let f : MmaF := { rb := fld w 21 5, fmt := fld w 7 4, q := bit w 6, aq := bit w 5, rl := bit w 4, z := fld o 26 6,
                    x := fld o 21 5, w := fld o 15 6, n1 := fld o 9 6, gang := fld o 7 2, arrive := bit o 6, bar := fld o 0 6 }
  let stl := fld w 0 3
  if !(zeroAt w 11 10 && zeroAt w 3 1) then .error .reservedNonzero
  else if !mmaFmtOk f.fmt then .error .fieldRange
  else match (fld w 26 6).toNat with
    | 0x31 => need (f.gang == 0 && f.n1 == 0 && (f.arrive || f.bar == 0)) .reservedNonzero (.mma f stl)
    | 0x32 => need (f.gang == 0 && (f.arrive || f.bar == 0)) .reservedNonzero (.mmar f stl)
    | _ => need (f.gang != 0 && f.n1 == 0 && f.arrive) .fieldRange (.mreel f stl)

/-- The two words of `mdrain`, its rounding code not yet judged (R312). -/
def decodeDrain (w o : Word32) : Except Reason Instr :=
  let f : DrainF := { rs1 := fld w 16 5, fmt := fld w 7 4, q := bit w 6, aq := bit w 5, rl := bit w 4, z := fld o 26 6,
                      rnd := fld o 23 3, sat := bit o 22, cls := fld o 18 4, arrive := bit o 17, bar := fld o 11 6 }
  if !(zeroAt w 21 5 && zeroAt w 11 5 && zeroAt w 3 1 && zeroAt o 0 11) then .error .reservedNonzero
  else if !drainFmtOk f.fmt then .error .fieldRange
  else need (f.arrive || f.bar == 0) .reservedNonzero (.mdrain f (fld w 0 3))

/-- The fields of a vector word (R318). -/
def slotFields (v : BitVec 64) : VF :=
  { vd := v.extractLsb' 51 5, vs1 := v.extractLsb' 46 5, vs2 := v.extractLsb' 41 5, vs3 := v.extractLsb' 36 5,
    mask := v.extractLsb' 33 3, neg := v.getLsbD 32, cls := v.extractLsb' 28 4, aq := v.getLsbD 27,
    rl := v.getLsbD 26, form := v.extractLsb' 24 2, mods := v.extractLsb' 0 24 }

/-- A vector word that stands in a slot with the given unit code, its rounding code not yet judged
(R289, R318, R319). -/
def decodeSlot (unit : Nat) (v : BitVec 64) : Except Reason VSlot :=
  let f := slotFields v
  match vopOf (v.extractLsb' 56 8).toNat (vbit16 f) with
  | none => .error .opcodeUnassigned
  | some op =>
    if vunit op != unit then .error .unitCode
    else if slotLegal op f then .ok { op := op, f := f } else .error .slotField

/-- The slots of a convoy in order: the first slot that fails is reported with its word; `lone` says that the convoy
has one slot, without which an instruction that stands alone is illegal (R320). -/
def decodeSlots (lone : Bool) : List (Nat × BitVec 64) → Except Reject (List VSlot)
  | [] => .ok []
  | (u, v) :: rest =>
    match decodeSlot u v with
    | .error why => .error (.illegal why v)
    | .ok s =>
      if !lone && slotAlone s.op then .error (.illegal .chained v)
      else
        match decodeSlots lone rest with
        | .error e => .error e
        | .ok ss => .ok (s :: ss)

/-- The unit code of slot `i` in a header (R317). -/
def hdrUnit (w : Word32) (i : Nat) : Nat := (fld w (20 - 4 * i) 4).toNat

/-- The count of a header, 1 to 4 (R317). -/
def hdrCount (w : Word32) : Nat := (fld w 24 2).toNat + 1

/-- The slot words of a header, each with its unit code (R317). -/
def hdrSlots (w : Word32) (vs : List (BitVec 64)) : List (Nat × BitVec 64) :=
  ((List.range (hdrCount w)).map (hdrUnit w)).zip vs

/-- A header is well formed: bits [7:3] zero, no reserved unit code, no code at or beyond the count (R317). -/
def hdrReason (w : Word32) : Option Reason :=
  if !zeroAt w 3 5 then some .reservedNonzero
  else if (List.range 4).any (fun i => hdrUnit w i > 10) then some .unitCode
  else if (List.range 4).any (fun i => hdrCount w ≤ i && hdrUnit w i != 0) then some .reservedNonzero
  else none

/-- The first slot word whose rounding code is reserved (R320, step 4). -/
def badRnd : List VSlot → List (BitVec 64) → Option Word
  | s :: ss, v :: vs => if slotRndOk s.op s.f then badRnd ss vs else some v
  | _, _ => none

/-- A convoy from its header and its slot words (R317, R320). -/
def decodeConvoy (w : Word32) (vs : List (BitVec 64)) : Except Reject Instr :=
  match hdrReason w with
  | some why => .error (.illegal why (w.zeroExtend 64))
  | none =>
    match decodeSlots (hdrCount w == 1) (hdrSlots w vs) with
    | .error e => .error e
    | .ok slots =>
      match badRnd slots vs with
      | some v => .error (.rounding (.convoy slots (fld w 0 3)) v)
      | none => .ok (.convoy slots (fld w 0 3))

/-- The bytes of an instruction, from its first word (R297). -/
def insnBytes (w : Word32) : Nat :=
  let major := (fld w 26 6).toNat
  if major == 0x3f then 4 + 8 * hdrCount w else if 0x31 ≤ major && major ≤ 0x34 then 8 else 4

/-- The little-endian number of a list of bytes (R1). -/
def leNat : List Byte → Nat
  | [] => 0
  | b :: bs => b.toNat + 256 * leNat bs

/-- The first word of a list of bytes. -/
def firstWord (bs : List Byte) : Word32 := BitVec.ofNat 32 (leNat (bs.take 4))

/-- The 64-bit words of a list of bytes, `n` of them. -/
def words64 : Nat → List Byte → List (BitVec 64)
  | 0, _ => []
  | n + 1, bs => BitVec.ofNat 64 (leNat (bs.take 8)) :: words64 n (bs.drop 8)

/-- The instruction at the head of the bytes, and the bytes left. `hdrOk` says that the address is one
where a header may stand, 4 modulo 8 (R299). -/
def decode (hdrOk : Bool) (bs : List Byte) : Except Reject (Instr × List Byte) :=
  if bs.length < 4 then .error .short
  else
    let w := firstWord bs
    let major := (fld w 26 6).toNat
    if major == 0x3f && !hdrOk then .error .headerAlign
    else if bs.length < insnBytes w then .error .short
    else
      let rest := bs.drop (insnBytes w)
      if major == 0x3f then
        match decodeConvoy w (words64 (hdrCount w) (bs.drop 4)) with
        | .ok i => .ok (i, rest)
        | .error e => .error e
      else if 0x31 ≤ major && major ≤ 0x34 then
        let o := firstWord (bs.drop 4)
        let both : Word := o ++ w
        match (if major == 0x34 then decodeDrain w o else decodeMma w o) with
        | .error why => .error (.illegal why both)
        | .ok i => if i.wf then .ok (i, rest) else .error (.rounding i both)
      else
        match decodeScalar w with
        | .error why => .error (.illegal why (w.zeroExtend 64))
        | .ok i => .ok (i, rest)

/-- The low `n` bytes of a number, least significant first (R1). -/
def leBytes : Nat → Nat → List Byte
  | 0, _ => []
  | n + 1, v => BitVec.ofNat 8 v :: leBytes n (v / 256)

/-- The longest instruction: a header and four slots (R297). -/
def maxInsnBytes : Nat := 36

/-- The instruction the decoder reads from a word of `nbits` bits, every bit above them zero. -/
def decodeTableWord (nbits w : Nat) : Option Instr :=
  match decode true (leBytes maxInsnBytes (w % 2 ^ nbits)) with
  | .ok (i, _) => some i
  | .error _ => none

/-! ### The encoder -/

/-- The R form (R301). -/
def encR (major : BitVec 6) (rd rs1 rs2 : BitVec 5) (func : BitVec 8) (stl : Stl) : Word32 :=
  major ++ rd ++ rs1 ++ rs2 ++ func ++ stl

/-- The I form (R301). -/
def encI (major : BitVec 6) (rd rs1 : BitVec 5) (imm : BitVec 13) (stl : Stl) : Word32 :=
  major ++ rd ++ rs1 ++ imm ++ stl

/-- A predicate number in a five-bit field, its high bits zero (R302). -/
def encP (p : PReg) : BitVec 5 := (0 : BitVec 2) ++ p

/-- The L form (R301). -/
def encL (major : BitVec 6) (off : BitVec 23) (stl : Stl) : Word32 := major ++ off ++ stl

/-- The P form (R301). -/
def encPf (major : BitVec 6) (r : BitVec 5) (off : BitVec 18) (stl : Stl) : Word32 := major ++ r ++ off ++ stl

/-- The M form (R301). -/
def encM (major : BitVec 6) (f : MemF) (stl : Stl) : Word32 :=
  major ++ f.r ++ f.base ++ f.cls ++ f.width ++ BitVec.ofBool f.sp ++ f.imm ++ stl

/-- The A form (R301, R303): `op` is the operation code of R303. -/
def encA (op : BitVec 3) (f : AmoF) (stl : Stl) : Word32 :=
  (5 : BitVec 4) ++ op ++ f.rd ++ f.base ++ f.rs2 ++ f.width ++ BitVec.ofBool f.sp ++ f.cls ++ f.ord ++ stl

/-- The barrier group (R306). -/
def encBar (rd rs1 : BitVec 5) (b : BitVec 6) (sub : BitVec 3) (scope mode : BitVec 2) (stl : Stl) : Word32 :=
  (0x20 : BitVec 6) ++ rd ++ rs1 ++ b ++ sub ++ scope ++ mode ++ stl

/-- Control register operations (R306). -/
def encCr (op : BitVec 2) (r : BitVec 5) (num : BitVec 12) (stl : Stl) : Word32 :=
  (0x28 : BitVec 6) ++ r ++ op ++ num ++ (0 : BitVec 4) ++ stl

/-- The single-word matrix commands (R310). -/
def encMat (sub : BitVec 5) (n : BitVec 6) (q : Bool) (stl : Stl) : Word32 :=
  (0x30 : BitVec 6) ++ sub ++ n ++ BitVec.ofBool q ++ (0 : BitVec 11) ++ stl

/-- The stream commands (R313). -/
def encStream (sub : BitVec 3) (rd rs1 : BitVec 5) (port : BitVec 3) (q : Bool) (stl : Stl) : Word32 :=
  (0x39 : BitVec 6) ++ rd ++ rs1 ++ port ++ BitVec.ofBool q ++ (0 : BitVec 6) ++ sub ++ stl

/-- Major 0x3c (R314). -/
def encEngine (sub : BitVec 7) (rd rs1 rs2 : BitVec 5) (q : Bool) (stl : Stl) : Word32 :=
  (0x3c : BitVec 6) ++ rd ++ rs1 ++ rs2 ++ sub ++ BitVec.ofBool q ++ stl

/-- The words of a product (R311). -/
def encMma (major : BitVec 6) (f : MmaF) (stl : Stl) : List Word32 :=
  [major ++ f.rb ++ (0 : BitVec 10) ++ f.fmt ++ BitVec.ofBool f.q ++ BitVec.ofBool f.aq ++ BitVec.ofBool f.rl ++
     (0 : BitVec 1) ++ stl,
   f.z ++ f.x ++ f.w ++ f.n1 ++ f.gang ++ BitVec.ofBool f.arrive ++ f.bar]

/-- The words of a drain (R312). -/
def encDrain (f : DrainF) (stl : Stl) : List Word32 :=
  [(0x34 : BitVec 6) ++ (0 : BitVec 5) ++ f.rs1 ++ (0 : BitVec 5) ++ f.fmt ++ BitVec.ofBool f.q ++ BitVec.ofBool f.aq ++
     BitVec.ofBool f.rl ++ (0 : BitVec 1) ++ stl,
   f.z ++ f.rnd ++ BitVec.ofBool f.sat ++ f.cls ++ BitVec.ofBool f.arrive ++ f.bar ++ (0 : BitVec 11)]

/-- The 64-bit word of a slot (R318). -/
def encSlot (v : VSlot) : BitVec 64 :=
  BitVec.ofNat 8 (vopcode v.op) ++ v.f.vd ++ v.f.vs1 ++ v.f.vs2 ++ v.f.vs3 ++ v.f.mask ++ BitVec.ofBool v.f.neg ++
    v.f.cls ++ BitVec.ofBool v.f.aq ++ BitVec.ofBool v.f.rl ++ v.f.form ++ v.f.mods

/-- The unit code of slot `i` of a convoy, 0 beyond its count (R317). -/
def slotUnit (slots : List VSlot) (i : Nat) : BitVec 4 :=
  match slots[i]? with
  | some v => BitVec.ofNat 4 (vunit v.op)
  | none => 0

/-- The header of a convoy (R317). -/
def encHeader (slots : List VSlot) (stl : Stl) : Word32 :=
  (0x3f : BitVec 6) ++ BitVec.ofNat 2 (slots.length - 1) ++ slotUnit slots 0 ++ slotUnit slots 1 ++ slotUnit slots 2 ++
    slotUnit slots 3 ++ (0 : BitVec 5) ++ stl

/-- The low and the high half of a 64-bit word, the low half first (R297). -/
def halves (v : BitVec 64) : List Word32 := [v.extractLsb' 0 32, v.extractLsb' 32 32]

/-- The words of a well-formed instruction. A vector row has no words of its own outside a convoy, and
an event row has none at all: both answer the empty list. -/
def encode : Instr → List Word32
  | .add rd rs1 rs2 stl => [encR 0 rd rs1 rs2 0x00 stl]
  | .sub rd rs1 rs2 stl => [encR 0 rd rs1 rs2 0x01 stl]
  | .mul rd rs1 rs2 stl => [encR 0 rd rs1 rs2 0x02 stl]
  | .mulh rd rs1 rs2 stl => [encR 0 rd rs1 rs2 0x03 stl]
  | .mulhn rd rs1 rs2 stl => [encR 0 rd rs1 rs2 0x04 stl]
  | .div rd rs1 rs2 stl => [encR 0 rd rs1 rs2 0x05 stl]
  | .divn rd rs1 rs2 stl => [encR 0 rd rs1 rs2 0x06 stl]
  | .rem rd rs1 rs2 stl => [encR 0 rd rs1 rs2 0x07 stl]
  | .remn rd rs1 rs2 stl => [encR 0 rd rs1 rs2 0x08 stl]
  | .and rd rs1 rs2 stl => [encR 0 rd rs1 rs2 0x09 stl]
  | .or rd rs1 rs2 stl => [encR 0 rd rs1 rs2 0x0a stl]
  | .xor rd rs1 rs2 stl => [encR 0 rd rs1 rs2 0x0b stl]
  | .shl rd rs1 rs2 stl => [encR 0 rd rs1 rs2 0x0c stl]
  | .shr rd rs1 rs2 stl => [encR 0 rd rs1 rs2 0x0d stl]
  | .sra rd rs1 rs2 stl => [encR 0 rd rs1 rs2 0x0e stl]
  | .min rd rs1 rs2 stl => [encR 0 rd rs1 rs2 0x0f stl]
  | .max rd rs1 rs2 stl => [encR 0 rd rs1 rs2 0x10 stl]
  | .minn rd rs1 rs2 stl => [encR 0 rd rs1 rs2 0x11 stl]
  | .maxn rd rs1 rs2 stl => [encR 0 rd rs1 rs2 0x12 stl]
  | .clz rd rs1 stl => [encR 0 rd rs1 0 0x13 stl]
  | .ctz rd rs1 stl => [encR 0 rd rs1 0 0x14 stl]
  | .popc rd rs1 stl => [encR 0 rd rs1 0 0x15 stl]
  | .mov rd rs1 stl => [encR 0 rd rs1 0 0x16 stl]
  | .sel rd p rs1 rs2 stl => [encR 0 rd rs1 rs2 ((6 : BitVec 5) ++ p) stl]
  | .cmpEq pd rs1 rs2 stl => [encR 0 (encP pd) rs1 rs2 0x20 stl]
  | .cmpNe pd rs1 rs2 stl => [encR 0 (encP pd) rs1 rs2 0x21 stl]
  | .cmpLt pd rs1 rs2 stl => [encR 0 (encP pd) rs1 rs2 0x22 stl]
  | .cmpGe pd rs1 rs2 stl => [encR 0 (encP pd) rs1 rs2 0x23 stl]
  | .cmpLtn pd rs1 rs2 stl => [encR 0 (encP pd) rs1 rs2 0x24 stl]
  | .cmpGen pd rs1 rs2 stl => [encR 0 (encP pd) rs1 rs2 0x25 stl]
  | .pand pd pa pb stl => [encR 0 (encP pd) (encP pa) (encP pb) 0x28 stl]
  | .por pd pa pb stl => [encR 0 (encP pd) (encP pa) (encP pb) 0x29 stl]
  | .pnot pd pa stl => [encR 0 (encP pd) (encP pa) 0 0x2a stl]
  | .addi rd rs1 imm stl => [encI 0x01 rd rs1 imm stl]
  | .andi rd rs1 imm stl => [encI 0x02 rd rs1 imm stl]
  | .ori rd rs1 imm stl => [encI 0x03 rd rs1 imm stl]
  | .xori rd rs1 imm stl => [encI 0x04 rd rs1 imm stl]
  | .shli rd rs1 imm stl => [encI 0x05 rd rs1 imm stl]
  | .shri rd rs1 imm stl => [encI 0x06 rd rs1 imm stl]
  | .srai rd rs1 imm stl => [encI 0x07 rd rs1 imm stl]
  | .li rd imm stl => [(0x08 : BitVec 6) ++ rd ++ imm ++ stl]
  | .lih rd q imm stl => [(0x09 : BitVec 6) ++ rd ++ q ++ imm ++ stl]
  | .cmpiEq pd rs1 imm stl => [encI 0x0a (encP pd) rs1 imm stl]
  | .cmpiNe pd rs1 imm stl => [encI 0x0b (encP pd) rs1 imm stl]
  | .cmpiLt pd rs1 imm stl => [encI 0x0c (encP pd) rs1 imm stl]
  | .cmpiGe pd rs1 imm stl => [encI 0x0d (encP pd) rs1 imm stl]
  | .cmpiLtn pd rs1 imm stl => [encI 0x0e (encP pd) rs1 imm stl]
  | .cmpiGen pd rs1 imm stl => [encI 0x0f (encP pd) rs1 imm stl]
  | .ld f stl => [encM 0x10 f stl]
  | .ldn f stl => [encM 0x11 f stl]
  | .st f stl => [encM 0x12 f stl]
  | .amoAdd f stl => [encA 0 f stl]
  | .amoMin f stl => [encA 1 f stl]
  | .amoMax f stl => [encA 2 f stl]
  | .amoSwap f stl => [encA 3 f stl]
  | .amoCas f stl => [encA 4 f stl]
  | .amoAnd f stl => [encA 5 f stl]
  | .amoOr f stl => [encA 6 f stl]
  | .br off stl => [encL 0x18 off stl]
  | .call off stl => [encL 0x19 off stl]
  | .bp p off stl => [encPf 0x1a (encP p) off stl]
  | .jr rs1 stl => [encR 0x1b 0 rs1 0 0 stl]
  | .ret stl => [encL 0x1c 0 stl]
  | .vstrip rs off stl => [encPf 0x1d rs off stl]
  | .barInit b rs1 scope stl => [encBar 0 rs1 b 0 scope 0 stl]
  | .barArrive b rs1 mode stl => [encBar 0 rs1 b 1 0 mode stl]
  | .barWait b stl => [encBar 0 0 b 2 0 0 stl]
  | .barTwait rd b rs1 stl => [encBar rd rs1 b 3 0 0 stl]
  | .barTest rd b stl => [encBar rd 0 b 4 0 0 stl]
  | .fence scope mask stl => [(0x21 : BitVec 6) ++ scope ++ (0 : BitVec 4) ++ mask ++ stl]
  | .fork t rs off stl => [(0x22 : BitVec 6) ++ t ++ rs ++ off ++ stl]
  | .rendez mask stl => [(0x23 : BitVec 6) ++ (0 : BitVec 19) ++ mask ++ stl]
  | .launch rd rs1 stl => [encR 0x24 rd rs1 0 0 stl]
  | .ident rd code stl => [encI 0x25 rd 0 code stl]
  | .clk rd stl => [encR 0x26 rd 0 0 0 stl]
  | .crRd r num stl => [encCr 0 r num stl]
  | .crWr r num stl => [encCr 1 r num stl]
  | .crSet r num stl => [encCr 2 r num stl]
  | .crClr r num stl => [encCr 3 r num stl]
  | .trap imm stl => [(0x29 : BitVec 6) ++ (0 : BitVec 7) ++ imm ++ stl]
  | .eret stl => [encR 0x2a 0 0 0 1 stl]
  | .ueret stl => [encR 0x2a 0 0 0 2 stl]
  | .halt stl => [encR 0x2a 0 0 0 3 stl]
  | .tlbinv rs1 stl => [encR 0x2b 0 rs1 0 0 stl]
  | .tlbinvAll stl => [encR 0x2b 0 0 0 1 stl]
  | .nop stl => [encL 0x2c 0 stl]
  | .unfreeze rd rs1 stl => [encR 0x2d rd rs1 0 0 stl]
  | .psample rs1 stl => [encR 0x2e 0 rs1 0 0 stl]
  | .mclaimX n stl => [encMat 0 n false stl]
  | .mclaimXScl n stl => [encMat 1 n false stl]
  | .mclaimW n stl => [encMat 2 n false stl]
  | .mreleaseX n stl => [encMat 3 n false stl]
  | .mreleaseW n stl => [encMat 4 n false stl]
  | .mzero n q stl => [encMat 5 n q stl]
  | .mqprio n stl => [encMat 6 n false stl]
  | .mmodeStd q stl => [encMat 7 0 q stl]
  | .mmodeRed q stl => [encMat 8 0 q stl]
  | .mma f stl => encMma 0x31 f stl
  | .mmar f stl => encMma 0x32 f stl
  | .mreel f stl => encMma 0x33 f stl
  | .mdrain f stl => encDrain f stl
  | .sstrm rd rs1 port q stl => [(0x38 : BitVec 6) ++ rd ++ rs1 ++ port ++ BitVec.ofBool q ++ (0 : BitVec 9) ++ stl]
  | .speek rd rs1 stl => [encStream 0 rd rs1 0 false stl]
  | .ssusp port q stl => [encStream 1 0 0 port q stl]
  | .sres port q stl => [encStream 2 0 0 port q stl]
  | .skill port q stl => [encStream 3 0 0 port q stl]
  | .snote port q stl => [encStream 4 0 0 port q stl]
  | .rtpush rs1 q stl => [encEngine 0 0 rs1 0 q stl]
  | .rdisp rs1 q stl => [encEngine 1 0 rs1 0 q stl]
  | .rcombPart rs1 q stl => [encEngine 2 0 rs1 0 q stl]
  | .rcombFin rs1 q stl => [encEngine 3 0 rs1 0 q stl]
  | .rgenOpen rn rs1 rs2 q stl => [encEngine 4 rn rs1 rs2 q stl]
  | .rgenRetire rs1 q stl => [encEngine 5 0 rs1 0 q stl]
  | .abound rd rs1 vd stl => [encEngine 6 rd rs1 vd false stl]
  | .agather rd rs1 port q stl => [encEngine 7 rd rs1 port q stl]
  | .kvalloc rd rs1 rs2 q stl => [encEngine 8 rd rs1 rs2 q stl]
  | .kvfree rd rs1 q stl => [encEngine 9 rd rs1 0 q stl]
  | .kvpin rd rs1 q stl => [encEngine 10 rd rs1 0 q stl]
  | .kvunpin rd rs1 q stl => [encEngine 11 rd rs1 0 q stl]
  | .kvevict rd rs1 rs2 q stl => [encEngine 12 rd rs1 rs2 q stl]
  | .kvinv rd rs1 rs2 q stl => [encEngine 13 rd rs1 rs2 q stl]
  | .sctab rs1 stl => [encEngine 14 0 rs1 0 false stl]
  | .scommit stl => [encEngine 15 0 0 0 false stl]
  | .sabort stl => [encEngine 16 0 0 0 false stl]
  | .sop k rh ra rb stl => [(0x3d : BitVec 6) ++ rh ++ ra ++ rb ++ k ++ (0 : BitVec 2) ++ stl]
  | .sreg k rs1 stl => [(0x3d : BitVec 6) ++ (0 : BitVec 5) ++ rs1 ++ (0 : BitVec 5) ++ k ++ (1 : BitVec 2) ++ stl]
  | .sbegin rd off stl => [(0x3d : BitVec 6) ++ rd ++ off ++ (2 : BitVec 2) ++ stl]
  | .vcfg f stl => [(0x3e : BitVec 6) ++ f.rd ++ f.rs1 ++ f.fmt ++ f.blk ++ f.grp ++ BitVec.ofBool f.ta ++ BitVec.ofBool f.ma ++
       (0 : BitVec 2) ++ stl]
  | .vreshape n stl => [(0x3e : BitVec 6) ++ (0 : BitVec 10) ++ n ++ (0 : BitVec 9) ++ (1 : BitVec 2) ++ stl]
  | .vquad p stl => [(0x3e : BitVec 6) ++ (0 : BitVec 10) ++ p ++ (0 : BitVec 9) ++ (2 : BitVec 2) ++ stl]
  | .convoy slots stl => encHeader slots stl :: (slots.map (fun v => halves (encSlot v))).flatten
  | .vadd _ => []
  | .vsub _ => []
  | .vadds _ => []
  | .vsubs _ => []
  | .vmul _ => []
  | .vmin _ => []
  | .vmax _ => []
  | .vabs _ => []
  | .vneg _ => []
  | .vnot _ => []
  | .vand _ => []
  | .vor _ => []
  | .vxor _ => []
  | .vshl _ => []
  | .vshr _ => []
  | .vsra _ => []
  | .vdiv _ => []
  | .vsqrt _ => []
  | .vrsqrt _ => []
  | .vrcp _ => []
  | .vclass _ => []
  | .vcmp _ => []
  | .vsel _ => []
  | .vmov _ => []
  | .vbcast _ => []
  | .vid _ => []
  | .vmand _ => []
  | .vmor _ => []
  | .vmnot _ => []
  | .vfma _ => []
  | .vfms _ => []
  | .vfnma _ => []
  | .vwmac _ => []
  | .vdotBlk _ => []
  | .vcvt _ => []
  | .vld _ => []
  | .vlds _ => []
  | .vldx _ => []
  | .vgl _ => []
  | .vldIpb _ => []
  | .vldZ _ => []
  | .vst _ => []
  | .vsts _ => []
  | .vstx _ => []
  | .vstX _ => []
  | .vsc _ => []
  | .vamo _ => []
  | .vwait _ => []
  | .vsortr _ => []
  | .vchk _ => []
  | .vmerge _ => []
  | .vinter _ => []
  | .vuniq _ => []
  | .vrank _ => []
  | .vpart _ => []
  | .vmrgs _ => []
  | .vred _ => []
  | .vscan _ => []
  | .vsegred _ => []
  | .vsegscan _ => []
  | .vsegld _ => []
  | .vperm _ => []
  | .vcompress _ => []
  | .vexpand _ => []
  | .vslide _ => []
  | .vrev _ => []
  | .vsin _ => []
  | .vcos _ => []
  | .vexp2 _ => []
  | .vlog2 _ => []
  | .vtanh _ => []
  | .vsigm _ => []
  | .vmmCopy _ => []
  | .vmmFill _ => []
  | .elementPerform _ => []
  | .barrierPhaseComplete _ _ => []
  | .barTwaitExpiry _ _ => []
  | .vwaitExpiry _ _ => []
  | .feedLimitExpiry _ _ => []
  | .shareWindow _ => []
  | .matrixGrant _ => []
  | .reelComplete _ => []
  | .streamStart _ _ => []
  | .streamEnd _ _ => []
  | .userInterrupt _ => []
  | .trapEntry _ _ => []
  | .factorGateEntry _ => []
  | .rowArrival _ => []
  | .combineRowArrival _ => []
  | .drainMarkerArrival _ _ => []
  | .speculationAbort _ _ => []
  | .sopWaitComplete _ _ => []
  | .kvPoolEnable _ _ => []
  | .kvPoolDisable _ => []
  | .kvPoolDisableComplete _ => []
  | .preEmption _ => []
  | .instanceStart _ => []
  | .instanceResume _ => []
  | .instanceEnd _ => []
  | .launchEnd _ => []
  | .launchPortSubmit _ _ => []
  | .submissionTake => []
  | .placementRound => []
  | .mailboxPoll => []
  | .submitLaunch => []
  | .cancelLaunch => []
  | .attest _ => []
  | .configurationRecord _ => []
  | .runtimeImage _ => []
  | .responseRelease => []
  | .birotteRequest _ => []
  | .retireCore _ => []
  | .retireLaneGroup _ => []
  | .retireChannel _ => []
  | .retirePort _ => []
  | .resetPartition _ => []
  | .reImagePartition _ => []
  | .repairBadOperation _ _ => []
  | .pendingCoreRetirement _ => []
  | .healthWord _ => []
  | .firmwareUpdate _ => []
  | .healthTimeout => []
  | .notificationPop => []
  | .unfreezeRegister _ => []
  | .splitApply _ => []
  | .trcWrite _ _ => []
  | .registerWrite _ _ _ => []
  | .bootSequence => []
  | .enrolmentReport => []
  | .bootRequestRetry => []
  | .bootFetchRetry => []
  | .imageData _ => []
  | .recordOffer _ => []
  | .portComeUp _ => []
  | .dataFrameReceive _ _ => []
  | .acknowledgement _ _ => []
  | .creditGrant _ _ => []
  | .dataFrameSend _ _ => []
  | .resendTimeout _ _ => []
  | .keepAlive _ => []
  | .peerDown _ => []
  | .ucieRetrain _ _ => []
  | .ucieRetrainingFailure _ _ => []
  | .cxlSurpriseRemoval _ => []
  | .powerEstimate _ => []
  | .thermalThrottleEnter _ _ => []
  | .thermalThrottleLeave _ _ => []
  | .thermalHalt _ _ => []
  | .debugHalt => []
  | .debugResume => []
  | .elementGroupIssue _ _ => []
  | .engineCommandCompletion _ => []
  | .partitionResetComplete _ => []
  | .ucieRetrainingEnd _ _ => []
  | .powerFail _ => []
  | .keepAliveReceipt _ => []

/-- The bytes of a list of words (R297). -/
def wordBytes (ws : List Word32) : List Byte := (ws.map (fun w => leBytes 4 w.toNat)).flatten

end Sys2Proof
end

