-- ==== Sys2Proof/Config.lean ====
section
/-! DEFINITION. What an implementation fixes and the manual does not state: each constant here has no body
that a proof can see, so a claim holds whatever its value is. The assumption log names each one. -/

namespace Sys2Proof.Config

/-- One free yes or no, for each count of `State.freeCtr` (log 4): agnostic elements (R360), old or new
translation (R155), the order of unordered moves. -/
opaque choice : Nat → Bool

/-- A free number, for each count of `State.freeCtr` (log 4). -/
opaque number : Nat → Nat

/-- The candidate result of a special function, before the bound of R424 is applied to it: the function's
number, the format, the rounding mode and the operand's bits (log 5). -/
opaque sfu : Nat → Nat → Nat → Nat → Nat

/-- A byte of the scalar image of R108, whose layout the manual leaves to the hardware: which image, and the
offset in the park area (R113, log 6). -/
opaque imageByte : Nat → Nat → Byte

/-- The counters `start`, `chain` and `mport` of R286: which counter, lane group and sample (log 7). -/
opaque sample : Nat → Nat → Nat → Nat

/-- The hash of the root public key in mask ROM, 32 bytes (R43, log 8). -/
opaque rootKeyHash : List Byte

/-- The seed that the SRAM region of R44 and the helper data give at one reset, or none when it cannot be
reconstructed: the helper bytes and the count of resets (log 8). -/
opaque pufSeed : List Byte → Nat → Option (List Byte)

/-- The seed that a blank device forms from the SRAM region (R54, log 8). -/
opaque enrolSeed : Nat → List Byte

/-- The helper data that a blank device computes from the region and its seed, 512 bytes (R54, log 8). -/
opaque enrolHelper : Nat → List Byte

/-- The per-signature number of ECDSA, which FIPS 186-5 leaves to the signer (R43, log 8). -/
opaque nonce : Nat → Nat

/-- The destination and source addresses that a port's Ethernet frames carry, 12 bytes (R29, log 26). -/
opaque etherAddrs : Nat → List Byte

/-- The silicon stepping number less 1 (R13, log 9). -/
opaque stepping : Nat

/-- The low part of the address of the replay sequencer, which lr holds in an inverse handler (R260, log 20). -/
opaque replayLow : BitVec 50

/-- A byte of LPDDR or CXL memory that nothing has written reads as zero (log 1). -/
def blankByte : Byte := 0

end Sys2Proof.Config
end

