-- ==== Sys2Proof/Machine/State.lean ====
section
/-! DEFINITION. The state of the whole package: the cores with their engines and buffers, the dies, the hub,
main memory, the launches, the partitions and the links, and the list of moves that says who acts next. -/

namespace Sys2Proof.Machine

open Sys2Proof

/-- Memory as address and byte pairs: addresses rising strictly, no entry equal to `Config.blankByte`. -/
abbrev Memory := List Host.Cell

/-- A core buffer (R121): its bytes, the fresh bit of each block (R88: bit k for block k) and the offsets of its
uncorrectable 8-byte words, ascending (R276). -/
structure Buf where
  mem : Memory
  fresh : Nat
  poison : List Nat
  deriving DecidableEq, Repr

/-- Where an access goes (R123, R381): G, the S window of a core, the park area of the issuing core, or none. -/
inductive Space where
  | g
  | s
  deriving DecidableEq, Repr

/-- A resolved place of an element: a physical address of G, or a core's buffer and physical offset. -/
inductive Loc where
  | g (addr : Nat)
  | s (core : CoreId) (off : Nat)
  | park (core : CoreId) (off : Nat)
  | x (core : CoreId) (off : Nat)
  deriving DecidableEq, Repr

/-- What a waiting access does when it performs. -/
inductive AccKind where
  /-- a scalar load into `rd`, sign-extended or not (R329) -/
  | load (rd : SReg) (sext : Bool)
  /-- a store of `data` (R329, R383) -/
  | store
  /-- a scalar atomic: operation code of R303, destination (R331) -/
  | amo (op : Nat) (rd : SReg)
  /-- a release arrival on a barrier of a core (R172): no access, it only waits -/
  | arrive (core : CoreId) (bar : BitVec 6)
  /-- an element of `vst.x`, an X offset of the instance's window (R389) -/
  | storeX
  /-- a read of a vector load, by its key (`Fly`), which sets a link or not (R384, R392) -/
  | vload (key : Nat) (link : Bool)
  /-- an element of `vamo`, by its key: the operation, the format and the epoch of its tag (R394, R395) -/
  | vamo (key : Nat) (op fmt ep : Nat)
  /-- an element of `vsc`, by its key (R393) -/
  | vsc (key : Nat)
  deriving DecidableEq, Repr

/-- One waiting element of an engine's access (R157, R163). `seq` is its place in program order; `loc` is set
when it was translated and checked before it entered the queue, or when its channel has been retired since (R62); `vec` says
that it belongs to a vector access, `skip` names the watchpoints that do not fire on it again (R269), `faulted` says that it has
faulted and stands aside until `eret` issues it again (R267), and `gone` that its CXL device has been removed (R27). `elem` is the
element of its instruction that it accesses, of `of_` that a scalar one has (R96, R285). -/
structure Acc where
  seq : Nat
  kind : AccKind
  cls : Nat
  aq : Bool
  rl : Bool
  sp : Space
  addr : Nat
  bytes : Nat
  data : Nat
  cmp : Nat
  pc : Word
  sup : Bool
  loc : Option Loc
  vec : Bool
  skip : Nat
  faulted : Bool
  gone : Bool
  elem : Nat
  of_ : Nat
  deriving DecidableEq, Repr

/-- A trap that an engine has met and not yet entered (R267). `src` is ESTAT.SRC, `conv` says that a convoy is the cause, `seq`
is the cause's place in program order, `acc` the place of the access that faulted when it performed, `fired` the comparators
that have fired there, as bits: 0 to 3 for breakpoints, 4 and 5 for watchpoints (R269). `elem` is the element to which VSTART is set
by a write that a freed slot refuses (R131). -/
structure Trap where
  code : Nat
  info : Word
  epc : Word
  src : Nat
  conv : Bool
  seq : Nat
  acc : Option Nat
  fired : Nat
  elem : Option Nat
  deriving DecidableEq, Repr

/-- What an engine that has issued an instruction waits for (R119). -/
inductive Wait where
  | none
  /-- `bar.wait` on a barrier (R335) -/
  | bar (b : BitVec 6)
  /-- `bar.twait` on a barrier: status register and the ck in which the limit expires (R173) -/
  | twait (b : BitVec 6) (rd : SReg) (expiry : Nat)
  /-- the Caller's `halt` (R93) -/
  | halting
  /-- the awaited event has happened while a user-level handler ran (R147) -/
  | woken
  deriving DecidableEq, Repr

/-- One result of fixed latency: the register (scalar 0 to 31, predicate 32 + p), the first ck in which it may be read, and the
issue ck and stall count of its writer (R304). -/
structure Lat where
  reg : Nat
  ready : Nat
  at_ : Nat
  stl : Nat
  deriving DecidableEq, Repr

/-- A scalar register that holds a status word of `sstrm` or `agather`, an ordinary one or a shadow: the port and whether an
instruction has read it (R141, R143, R148). -/
structure StatReg where
  reg : SReg
  shadow : Bool
  port : Fin 8
  read : Bool
  deriving DecidableEq, Repr

/-- What a slot of a queued convoy keeps from its first element group on: the formats of its sources and result,
its epoch, whether its tags have been written, and the registers it writes (R115, R362, R391, R475). -/
structure Plan where
  fa : Nat
  fb : Nat
  fc : Nat
  fr : Nat
  ep : Nat
  tagged : Bool
  regs : List Nat
  deriving DecidableEq, Repr

/-- An element group that a lane group executes and that has not committed: its elements `lo` to `hi` - 1, the lane
group, and the reads that have performed (R95, R96, R104). The key of a read is 8 i + 4 t + j for element i of slot j,
with t = 1 for a read of a table. A group with a `vsc` or `vamo` that has committed below element `cut` scatters (R395, R397): `locs` holds
the places, by 8 i + j, at which its elements write, as they were found before it committed, and `stage` the number of slots whose
stores have been handed to the order machine. -/
structure Fly where
  lo : Nat
  hi : Nat
  lg : Nat
  got : List (Nat × Nat)
  cut : Option Nat
  stage : Nat
  locs : List (Nat × Loc)
  deriving DecidableEq, Repr

/-- The Assayer command a vector thread has queued (R448): its word, its operands, and the address of its block. -/
structure Abound where
  word : Word
  rd : SReg
  vd : VReg
  blk : Word
  deriving DecidableEq, Repr

/-- A convoy in a vector queue: its header's address, its place in program order, its slots, the scalar operands
read at entry (vs1, vs2, vs3 and vd of each slot), and the VL, VTYPE, TWAIT and SEG captured (R94, R344, R398, R418).
`prog` is the first element that has not committed: VSTART as the convoy entered, and its own from then on. `plans` and `start` are
empty until it begins; `grp` is then the number of elements in an element group (R95) and `tot` the number of its elements; `start` is
the element at which it began or began again (R285), `blk` the parameter blocks it read then, 64 bytes a slot (R386, R410), `skip` the watchpoints that do not fire there (R269), `fly` its element
groups in flight, `seen` the reads of `vwait`, of segment tables and of `vmrgs` (R398, R411, R421) or the
references of `abound` (R242), `bad` the keys of reads that found uncorrectable data (R276), `went` the addresses of the elements that have performed since it began, by 8 i + j, kept
while memory records are on (R285), `expired` the end of its limit, `stopped` that it has met a fault at element `prog`, which it raises
once its stores below have performed (R384). -/
structure QConvoy where
  pc : Word
  seq : Nat
  slots : List VSlot
  scal : List (List Word)
  vl : Nat
  vtype : Word
  twait : Nat
  abound : Option Abound
  seg : List Word
  prog : Nat
  plans : List Plan
  grp : Nat
  tot : Nat
  start : Option Nat
  blk : List Byte
  skip : Nat
  fly : List Fly
  seen : List (Nat × Nat)
  bad : List Nat
  went : List (Nat × Nat)
  expiry : Option Nat
  expired : Bool
  stopped : Bool
  deriving DecidableEq, Repr

/-- What a trap sets aside (R267): the vector queue, the scalar resume address, the place of a faulted scalar access, and the
stopped tile queue. `seq` is the place in program order at which the handler begins, `fired` the comparators that fired at the cause and
`skip` those that do not fire at the scalar resume address (R269).
`firstUse` marks the first-use trap (R116); VSTART is set aside with it (R115), and, as `late` says, with a write that a freed slot
refuses (R131). -/
structure Aside where
  vq : List QConvoy
  resume : Word
  acc : Option Nat
  seq : Nat
  fired : Nat
  skip : Nat
  tq : Option (Fin 2)
  firstUse : Bool
  late : Bool
  vstart : Nat
  deriving DecidableEq, Repr

/-- Where an abort stands (R260). -/
inductive AbortAt where
  /-- aimed at the task; taken at the next instruction boundary -/
  | aimed
  /-- a handler runs -/
  | inHandler
  /-- the sequencer pops the next record -/
  | popping
  deriving DecidableEq, Repr

/-- An abort under way: its cause, the recorded kind and hash, its place, the pc, the place in program order and lr at step 1
(R260, R261). -/
structure Abort where
  cause : Nat
  kind : Nat
  hash : Nat
  at_ : AbortAt
  pc : Word
  seq : Nat
  lr : Word
  deriving DecidableEq, Repr

/-- An open task (R253, R254): sequence number, status register, abort path. -/
structure Task where
  seq : Nat
  excl : Bool
  sd : SReg
  path : Word
  committing : Bool
  abort : Option Abort
  deriving DecidableEq, Repr

/-- A `sop` that waits for the aborts of younger tasks: the engines whose entries have not been released yet (R259). -/
structure SopWait where
  kind : Nat
  hash : Nat
  on : List (CoreId × EngId)
  deriving DecidableEq, Repr

/-- The vector part of a thread (R87, R98 to R100, R333, R351, R361, R204). `vtype` holds bits 19:0 of R351;
`masks` holds m1 to m7 as numbers, bit i for element i; `lost` says that R117 made the registers unavailable. -/
structure VSt where
  vl : Nat
  vstart : Nat
  vtype : Word
  vlcap : Nat
  vregs : Nat
  len : Nat
  lslip : Nat
  stripd : Word
  stripn : Nat
  seg : Vector Word 64
  masks : Vector Nat 8
  tags : Vector (BitVec 32) 32
  homes : List Nat
  vq : List QConvoy
  lost : Bool
  inval : Bool
  loopPc : Word
  quota : Nat
  used : Nat
  waitSince : Option Nat
  deriving DecidableEq, Repr

/-- The trap registers and the fields of ESTAT (R265). -/
structure TrapRegs where
  ecode : Nat
  einfo : Word
  epc : Word
  src : Nat
  raw : Bool
  epcw : Bool
  uirq : Bool
  ppriv : Bool
  trap : Bool
  priv : Bool
  deriving DecidableEq, Repr

/-- One engine of an instance: a Caller or a vector thread (R86). `preds` bit p is predicate p; bit 0 is unused.
`pend` bit r says that scalar register r is held by the load scoreboard (R304, R141). `cyc` is the first ck in which the next
instruction may issue. While a user-level handler runs, `uiseq` is the place in program order at which it began; `uispans` are the
places of the handlers that have ended, and `uipend` holds the bits of `pend` for the six registers s24 to s29 that are not in
place: the ordinary ones in a handler, their shadows outside (R148). `skip` holds the comparators that do not fire at the next
instruction, as bits 0 to 5 (R269), `thaw` says that a frozen engine goes on at resume (R274), and `sopSeq` is the place of a `sop`
that waits for its record's stores (R449). -/
structure Eng where
  regs : Vector Word 32
  shadow : Vector Word 6
  preds : BitVec 8
  pc : Word
  running : Bool
  frozen : Bool
  wait : Wait
  uiWait : Wait
  pend : BitVec 32
  lat : List Lat
  cyc : Nat
  seq : Nat
  accs : List Acc
  fences : List (Nat × BitVec 16)
  vflags : Word
  sbchk : Bool
  uivec : Word
  ubase : Nat
  ulimit : Nat
  udepth : Nat
  uiseq : Nat
  uispans : List (Nat × Nat)
  uipend : BitVec 6
  twait : Nat
  epoch : BitVec 16
  stats : List StatReg
  tr : TrapRegs
  traps : List Trap
  aside : Option Aside
  skip : Nat
  thaw : Bool
  task : Option Task
  nextExcl : Bool
  keepSeq : Option Nat
  sopWait : Option SopWait
  sopSeq : Option Nat
  v : VSt
  deriving DecidableEq, Repr

/-- A barrier object (R334): subgroup width and height are 0 outside `.grp` scope. `arr` counts the arrivals of the ck that runs,
which the end of that ck counts in; `shut` is the last ck whose end has been dealt with, and `doneAt` the last in which a phase
completed (R336). -/
structure Barrier where
  init : Bool
  phase : Bool
  exp : Nat
  cnt : Nat
  scope : Nat
  gw : Nat
  gh : Nat
  arr : Nat
  shut : Option Nat
  doneAt : Option Nat
  deriving DecidableEq, Repr

/-- An entry of a tile queue (R426): the command, its address and place in program order, the scalar operands read
at issue, its progress (rows done, or a stage) and what its gang has reported (R441, R442). `held` says that it froze the
Caller and waits for its release (R273), `back` that it is a KV command that has come back from an allocator with a fault (R248). -/
structure TqEnt where
  cmd : Instr
  pc : Word
  seq : Nat
  a : Word
  b : Word
  c : Word
  begun : Bool
  prog : Nat
  done : Nat
  reports : List (Nat × Nat × Word)
  flags : Nat
  held : Bool
  back : Bool
  deriving DecidableEq, Repr

/-- A tile queue: its entries, whether a fault has stopped it (R268), its mode (R431). -/
structure TileQ where
  ents : List TqEnt
  stopped : Bool
  red : Bool
  deriving DecidableEq, Repr

/-- An X slot (R130, R132). `wrote` has a bit for each byte written since the claim: bits 0 to 16,383 the data
bytes, bits 16,384 to 20,479 the scale bytes. -/
structure XSlot where
  claimed : Bool
  scaled : Bool
  wrote : Nat
  deriving DecidableEq, Repr

/-- What a Z tile records for R278 to R280: the slots of its last pass, the mismatch mark of its pair with the
first differing row, and whether ERRINJ flipped a bit of it. -/
structure ZTile where
  x : Nat
  w : Nat
  bad : Bool
  row : Nat
  inj : Bool
  deriving DecidableEq, Repr

/-- The kind of a bound stream (R138, R139, R245). -/
inductive StrmKind where
  | affine
  | indirect
  | agather
  deriving DecidableEq, Repr

/-- A unit that a stream has issued and not yet written: its element, its source and destination, its length, what the source
held once it has been read (R139, R171), and the channels that have been retired since it issued (R62). -/
structure Piece where
  elem : Nat
  src : Word
  dst : Word
  len : Nat
  got : Option Nat
  keep : BitVec 384
  deriving DecidableEq, Repr

/-- A reference that an `agather` element holds: the element, the frame's address, the physical address of its entry (R242). -/
structure Grip where
  elem : Nat
  frame : Nat
  entry : Nat
  deriving DecidableEq, Repr

/-- A stream bound to a port: its parameter block as read (none while it could not be read), its status register, and its
progress. `landed` is the number of leading elements written; `next` the element that issues next, of which `beat` units have
issued; `snap` the index of the row, or the frame's address of the `agather` element, that issues; `flight` the units issued and not
yet written, oldest first; `grips` the references held (R139, R141, R171, R242). `susp`
marks a suspended stream, and a running one that `ssusp` stops from ck `suspAt` on, `past` that a unit of it has landed in a later ck
(R144); `noted` one whose end `snote` asks for (R147). -/
structure Strm where
  kind : StrmKind
  blk : List Byte
  off : Nat
  rd : SReg
  seq : Nat
  exp : Nat
  cvl : Nat
  landed : Nat
  next : Nat
  beat : Nat
  snap : Option Nat
  flight : List Piece
  grips : List Grip
  err : Nat
  susp : Bool
  suspAt : Nat
  past : Bool
  noted : Bool
  deriving DecidableEq, Repr

/-- A stream port: the running stream, its list in order (R137), the status word of the last one that ended and the pending
interrupt's (R147); `thaw` says that a frozen port goes on at resume (R274). -/
structure Port where
  run : Option Strm
  list : List Strm
  last : Option Word
  irq : Option Word
  frozen : Bool
  thaw : Bool
  deriving DecidableEq, Repr

/-- A core instance (R86): live from its start to its end. `lx` and `ly` are its logical coordinates; `held` bit k
says that block k of the vector image holds valid data of the instance (R115); `prio`, `lastQ`, `streak` are the
array's arbiter (R430). `stopped` marks a parked instance, and `lines` holds the code lines that its fetches have read, by
physical address (R179). -/
structure Inst where
  live : Bool
  launch : Nat
  lx : Nat
  ly : Nat
  ending : Bool
  resumed : Bool
  quad : Nat
  ven : Vector Nat 4
  engs : Vector Eng 5
  bars : Vector Barrier 64
  tqs : Vector TileQ 2
  prio : Nat
  lastQ : Nat
  streak : Nat
  xslots : Vector XSlot 32
  wslots : BitVec 64
  ztiles : Vector ZTile 64
  ports : Vector Port 8
  feeds : Vector (List Byte) 4
  handlers : Vector Word 64
  held : BitVec 32
  busy : Vector Nat 4
  elems : Vector Nat 4
  stopped : Bool
  lines : List (Nat × List Byte)
  parkedAt : Nat
  deriving DecidableEq, Repr

/-- The owner of the vector register file (R114). -/
inductive Owner where
  | nobody
  | running
  | parked
  deriving DecidableEq, Repr

/-- A TLB entry (R153): whose it is, the virtual page, log2 of its size, the physical page, the permission bits
X, WR, RD, and the level of the leaf. -/
structure TlbEnt where
  parked : Bool
  vpage : Nat
  bits : Nat
  ppage : Nat
  perm : Nat
  lvl : Nat
  deriving DecidableEq, Repr

/-- A link tag at a line home (R391): the line (a physical line number of G or of a core's S), the engine and its
epoch; the oldest tag of a line stands first. -/
structure Link where
  line : Loc
  core : CoreId
  parkedInst : Bool
  eng : EngId
  epoch : BitVec 16
  deriving DecidableEq, Repr

/-- A lock entry of a home (R258): the launch, the core and engine of the task, the hash and kind. -/
structure Lock where
  launch : Nat
  core : CoreId
  eng : EngId
  hash : Nat
  kind : Nat
  deriving DecidableEq, Repr

/-- A Reel pass that a remote leader asks of this core, as member `m` of the gang, under the words `word` of its command: `landed` holds
a bit for each 8-byte element of B that has come, and `bad` the first that was uncorrectable (R25, R441). -/
structure ReelJob where
  launch : Nat
  leader : CoreId
  m : Nat
  q : Fin 2
  f : MmaF
  scales : Word
  red : Bool
  word : Word
  landed : Nat
  bad : Option Word
  deriving DecidableEq, Repr

/-- What the array of a core runs (R429): the elements of Z that are still to be written, each at its offset, and the flags of a pass.
A pass of a Reel names its leader and the member's relative index; another command stands at the head of queue `q` (R437, R441). -/
structure ZRun where
  launch : Nat
  q : Fin 2
  leader : Option (CoreId × Nat)
  z : Nat
  red : Bool
  flags : Nat
  puts : List (Nat × List Byte)
  deriving DecidableEq, Repr

/-- A compute core (R121, R89, R266, R281, R283, R284). `splitNew` is a written SPLIT that waits (R89); `imgCrc`
is the CRC kept of the scalar image (R113); `turn` is the thread that each shared unit served last
(R103), `share` the share window that has begun last (R101), and of the lane groups those below `slotLg` have chosen in ck `slotCk`
(R102); `next`, `preReq` and `resumeReq` are what the dispatcher has asked of the core (R81, R82); `early` lists the barriers at which
arrivals have come for an instance that has not started (R82, R335);
`zrun` is what the array runs (R429), `gangArr` the arrivals that the Reels of its Caller still owe other members, by launch, core and
barrier (R441, R466);
`halted` says that a die's temperature has stopped it (R40). -/
structure Core where
  inst : Inst
  parked : Inst
  sfg : Nat
  xfg : Nat
  wfg : Nat
  zfg : Nat
  splitNew : Option Word
  tbase : Word
  errinj : Word
  bp : Vector Word 4
  wp : Vector Word 2
  ssa : Word
  ssn : Word
  trc : Word
  trp : Word
  trcFull : Bool
  bufS : Buf
  bufX : Buf
  bufW : Buf
  bufZ : Buf
  park : Buf
  vrf : Memory
  owner : Owner
  imgCrc : Option (BitVec 32)
  tlb : List TlbEnt
  locks : List Lock
  reels : List ReelJob
  zrun : Option ZRun
  gangArr : List (Nat × CoreId × BitVec 6)
  turn : Vector Nat 4
  share : Nat
  slotCk : Nat
  slotLg : Nat
  retired : Bool
  retirePend : Bool
  lanesOut : BitVec 4
  laneErr : Option Nat
  next : Option Nat
  early : List (BitVec 6)
  preReq : Bool
  resumeReq : Bool
  halted : Bool
  deriving DecidableEq, Repr

/-- A unit that an engine of a die has still to write to G: its virtual and physical address, and its bytes (R158, R161). `whole` says that
the units of its protected word are written one after another and cover it (R247, R276). -/
structure Put where
  va : Nat
  pa : Nat
  bytes : List Byte
  whole : Bool
  deriving DecidableEq, Repr

/-- An entry of a Factor's gate queue (R219), with the launch and core that pushed it; while it is served, the units that the Factor has
read, by address, and those it has still to write once it has served it (R157, R220). -/
structure GateEnt where
  bytes : List Byte
  launch : Nat
  core : CoreId
  got : List (Nat × List Byte)
  puts : List Put
  served : Bool
  deriving DecidableEq, Repr

/-- A landed entry that `rcomb.part` has read: source package, token, k-slot, expert, gate weight, and the output row
(R231). -/
structure Landed where
  spkg : Nat
  token : Nat
  kslot : Nat
  expert : Nat
  weight : Nat
  row : List Byte
  deriving DecidableEq, Repr

/-- A command that a routing engine holds (R225, R427): which (0 `rdisp`, 1 `rcomb.part`, 2 `rcomb.fin`), its block, where
it stands in S and its issuer; its stage (0 not begun, 1 working, 2 ended with `code`, 3 its counts are written) and its
progress: the records, experts or tokens processed, the placement entries or leads, n[e] of R223, the dropped entries, the
landed entries read; the units read for the record under way, by address, with 2^66 added for those of S and 2^67 for those under the root of the launch
that opened the generation, and the units still to be written (R161, R171, R226). -/
structure RouteCmd where
  kind : Nat
  blk : List Byte
  off : Nat
  core : CoreId
  launch : Nat
  stage : Nat
  r : Nat
  table : List Nat
  counts : List Nat
  ndrop : Nat
  ents : List Landed
  code : Nat
  faddr : Nat
  got : List (Nat × List Byte)
  puts : List Put
  deriving DecidableEq, Repr

/-- A token row or a piece of a combine row on its way to a routing engine of this package (R224, R231): the die that sent
it (8 for another package, with the port and the beats of receive space that the row still holds there, R34), the record, the
destination and the data; for a combine row its number `drow`, the offset of the piece and the bytes of the whole. A row that a
routing engine takes keeps the units of its landing entry as they are read, and then, as `landing`, the units of G and of X, by offset,
that are still to be written. -/
structure Row where
  die : Nat
  port : Option (Fin 32)
  beats : Nat
  combine : Bool
  gen : Nat
  launch : Nat
  core : Nat
  xbase : Nat
  drow : Nat
  spkg : Nat
  word0 : Word
  chunks : Nat
  off : Nat
  total : Nat
  data : List Byte
  scales : List Byte
  landing : Bool
  got : List (Nat × List Byte)
  puts : List Put
  xputs : List (Nat × List Byte)
  deriving DecidableEq, Repr

/-- A compute die's Factor and routing engine (R218, R226), and its frozen units. -/
structure Die where
  gate : List GateEnt
  route : List RouteCmd
  stale : Nat
  refused : Nat
  dup : Nat
  conflict : Nat
  ferr : Nat
  factorFrozen : Bool
  routeFrozen : Bool
  assayerFrozen : Bool
  deriving DecidableEq, Repr

/-- The state of a generation number (R228). -/
inductive GenSt where
  | free
  | opened
  | retiring
  deriving DecidableEq, Repr

/-- What the package keeps of a generation number that has been opened (R226, R228, R229, R233): the base and nrow of its
last opening, the launch whose root addresses the base, the order in which it became free, the combine landing
bitmap (bit j for row j) if it has not been reclaimed, the ports whose drain marker has arrived, and those that it has sent
one on. -/
structure Gen where
  num : Nat
  st : GenSt
  base : Nat
  nrow : Nat
  launch : Nat
  freed : Nat
  bitmap : Option Nat
  drained : BitVec 32
  marked : BitVec 32
  deriving DecidableEq, Repr

/-- An allocated frame of a KV pool (R249). `wrote` has a bit for each byte of the frame written through the pool's
virtual range since allocation (R238, R240). -/
structure Frame where
  slot : Nat
  num : Nat
  pins : Nat
  evicting : Bool
  wrote : Nat
  deriving DecidableEq, Repr

/-- Who holds a reference on a frame (R242): the core, its thread (0 to 3) or stream port (8 to 15), the launch, the place
of the convoy or stream in program order, and the block or element. -/
structure Holder where
  core : CoreId
  unit : Nat
  launch : Nat
  seq : Nat
  elem : Nat
  deriving DecidableEq, Repr

/-- A KV command that an allocator has accepted (R248): what `kvalloc` has allocated (`got`), the holders that it still
waits for, the frame that it will free, the ranges of an eviction's copy as (virtual, physical, length) with the words copied, the units
of headers and entries still to be written, and its result; `ent` and `tq` are the entry that it was and its queue. `copied` counts
units of 8 bytes. -/
structure KvCmd where
  cmd : Instr
  a : Word
  b : Word
  core : CoreId
  launch : Nat
  seq : Nat
  list : List Byte
  got : Nat
  waiting : Bool
  hold : List Holder
  frame : Option (Nat × Nat)
  src : List (Nat × Nat × Nat)
  dst : List (Nat × Nat × Nat)
  copied : Nat
  puts : List Put
  res : Word
  ent : TqEnt
  tq : Fin 2
  deriving DecidableEq, Repr

/-- A partition's KV pool (R234, R236) and its allocators. -/
structure Pool where
  addr : Word
  busy : Bool
  err : Bool
  en : Bool
  base : Nat
  nch : Nat
  fshift : Nat
  fmt : Nat
  dh : Nat
  nh : Nat
  hstride : Nat
  vofs : Nat
  nfr : Nat
  chans : List Nat
  frames : List Frame
  cmds : List KvCmd
  frozen : List Nat
  deriving DecidableEq, Repr

/-- A partition as the runtime defines it (R57): rectangle, channels, ports. -/
structure PartDef where
  x0 : Nat
  y0 : Nat
  w : Nat
  h : Nat
  chans : BitVec 384
  ports : BitVec 32
  deriving DecidableEq, Repr

/-- A partition: its definition if it has one, the reset it undergoes (R58), its pool. -/
structure Part where
  pdef : Option PartDef
  resetting : Option Bool
  pool : Pool
  deriving DecidableEq, Repr

/-- A launch record (R72). -/
structure LRec where
  entry : Word
  param : Word
  cmpl : Word
  ptroot : Word
  w : Nat
  h : Nat
  queue : Nat
  part : Nat
  det : Bool
  boost : Bool
  sbchk : Bool
  vlcap : Nat
  lslip : Nat
  quad : Nat
  weight : Nat
  tag : BitVec 32
  deriving DecidableEq, Repr

/-- Who asked for something, so that tags of different submitters never meet (R71): the host, a package over
Birotte, or a compute core's `launch`. -/
inductive Submitter where
  | host
  | pkg (port : Fin 32) (spkg : Nat)
  | core (c : CoreId)
  | runtime (port : Fin 16)
  deriving DecidableEq, Repr

/-- Where a launch stands (R83). -/
inductive LaunchSt where
  | queued
  | running
  | parked
  | ended
  deriving DecidableEq, Repr

/-- A launch that the dispatcher has accepted (R74, R80, R83): the tag of its request, its place, the fatal end that it
reports with the ck in which it met it (R271), and its commutativity table (R257). `preAt` orders parked launches by their pre-emption. -/
structure Launch where
  id : Nat
  rec_ : LRec
  by_ : Submitter
  reqTag : BitVec 32
  st : LaunchSt
  ox : Nat
  oy : Nat
  status : Nat
  ecode : Nat
  core : Nat
  eng : Nat
  fatalAt : Nat
  stopping : Bool
  preAt : Nat
  comm : Vector Word 64
  loaded : Word
  deriving DecidableEq, Repr

/-- A submission presented to the dispatcher and not yet taken (R78): its launch port, or the core and parent launch of a
`launch`; `tag` names the request of a submitter that the runtime passes on. -/
structure Submission where
  port : Option (Fin 16)
  core : Option CoreId
  parent : Nat
  addr : Nat
  recBytes : Option (List Byte)
  rd : SReg
  seq : Nat
  tag : Option (Submitter × BitVec 32)
  at_ : Nat
  deriving DecidableEq, Repr

/-- A request that the runtime has taken and not yet answered (R69). -/
structure Request where
  by_ : Submitter
  bytes : List Byte
  deriving DecidableEq, Repr

/-- The mailbox of R67: the four indices, STATE, and the bytes of its two rings (offsets 0x1000 to 0xafff). -/
structure Mailbox where
  reqpi : Word
  reqci : Word
  rsppi : Word
  rspci : Word
  st : Nat
  rings : Memory
  reqs : List Request
  waiting : List (List Byte)
  msix : Nat
  deriving DecidableEq, Repr

/-- A data frame that a Birotte sender keeps until it is acknowledged (R32); `die` is the routing engine whose command
waits for that (R225), 8 for none. -/
structure TxFrame where
  die : Nat
  seq : BitVec 32
  dpkg : BitVec 16
  payload : List Byte
  sentAt : Nat
  sent : Bool
  deriving DecidableEq, Repr

/-- One traffic class of a Birotte port (R32 to R34): the next sequence number to send and to expect, the credit,
the unacknowledged and waiting frames, the numbers and beats of those acknowledged since the ack field of the last grant that arrived,
the last grant sent with its ack field, the free receive space in beats. -/
structure TClass where
  tx : BitVec 32
  rx : BitVec 32
  got : Bool
  credit : Nat
  frames : List TxFrame
  past : List (BitVec 32 × Nat)
  grant : Nat
  grantAck : Nat
  space : Nat
  deriving DecidableEq, Repr

/-- A Birotte port (R29 to R36). `reqs` holds the requests that have arrived, with the package they come from, and `boots`
the boot messages, none yet taken (R53, R71). -/
structure BPort where
  up : Bool
  peerDown : Bool
  retired : Bool
  frozen : Bool
  malformed : Nat
  misdirected : Nat
  lastRx : Nat
  lastKa : Nat
  cls : Vector TClass 8
  reqs : List (Nat × List Byte)
  boots : List (List Byte)
  deriving DecidableEq, Repr

/-- A notification record (R272): kind, ecode, partition, master word, address word. -/
structure Notif where
  kind : Nat
  ecode : Nat
  part : Nat
  master : BitVec 32
  addr : Word
  deriving DecidableEq, Repr

/-- Where the boot stands (R51, R54). -/
inductive BootSt where
  /-- at a step of R51, about to run it -/
  | step (n : Nat)
  /-- stopped in recovery at a step: only an offer of kind 4 is taken (R51) -/
  | recovery (step : Nat)
  /-- a blank device enrols (R54) -/
  | enrol
  /-- fetching an image over Birotte: its type and the bytes received (R53) -/
  | fetch (itype : Nat) (data : List Byte) (port : Fin 32)
  /-- the runtime runs -/
  | running
  deriving DecidableEq, Repr

/-- Hub die 0 (R15): flash (record, the record being written, slots, selector), the runtime's images, keys, measurements,
the registers of R60, R66, R64, R349 and R75, power, the dies' temperatures and throttles (dies 8 and 9 are the hubs), debug,
and the EtherType of each hub (R29). `validA` and `validB` are the marks of the slots (R63). `pcie` says that the PCIe link has
trained, `ran` that a runtime has started since the reset, and `mboxOn` that it has enabled the port (R28); `progressAt` is
when the boot last made progress (R53), `fetchAt` when it last began to fetch from the lowest port (R51), `trained` the port
after the last that this pass of training has reached (R51), and `corrected` counts corrected errors (R25). -/
structure Hub where
  boot : BootSt
  resets : Nat
  record : Option (List Byte)
  recNew : Option (List Byte)
  slotA : Option (List Byte)
  slotB : Option (List Byte)
  selB : Bool
  prevSel : Bool
  rtImage : Option (List Byte)
  rtNext : Option (List Byte)
  devPriv : Nat
  devPub : List Byte
  ident : List Byte
  helper : List Byte
  blank : Bool
  meas : Vector (List Byte) 4
  repBusy : Bool
  repStatus : Nat
  repOp : BitVec 4
  repTarget : BitVec 11
  health : Word
  switchAt : Option Nat
  notifs : List Notif
  dropped : Nat
  popped : Word
  unfreezeRes : Nat
  lres : Vector Nat 16
  lbusy : Vector Bool 16
  pkg : BitVec 16
  limit : Nat
  estimate : Nat
  temps : Vector (BitVec 8) 10
  hots : Vector Bool 10
  halted : Bool
  etypes : Vector (BitVec 16) 2
  pcie : Bool
  mboxOn : Bool
  progressAt : Nat
  fetchAt : Nat
  trained : Nat
  ran : Bool
  validA : Bool
  validB : Bool
  corrected : Nat
  deriving DecidableEq, Repr

/-- One agent's move. The agenda lists moves in the order in which they happen (log 2). -/
inductive Move where
  /-- an engine issues its next instruction -/
  | issue (core : CoreId) (e : EngId)
  /-- a step of another agent, an event row of the table -/
  | ev (i : Instr)
  /-- the PCIe host writes bytes of the mailbox (R67) -/
  | hostWrite (off : Nat) (bytes : List Byte)
  /-- the PCIe host reads bytes of the mailbox (R67) -/
  | hostRead (off len : Nat)
  /-- the PCIe host changes its own memory -/
  | hostMem (addr : Nat) (bytes : List Byte)
  /-- the runtime defines a partition, or undefines it (R57) -/
  | definePart (p : Fin 16) (d : Option PartDef)
  /-- the runtime assigns the package number (R37) -/
  | setPkg (n : BitVec 16)
  /-- the runtime sets the current limit in amperes (R39) -/
  | setLimit (amps : Nat)
  /-- the runtime sets the EtherType of a hub's ports (R29) -/
  | setEtype (hub : Fin 2) (v : BitVec 16)
  /-- the PCIe link trains (R28) -/
  | pcieTrain
  /-- the runtime extends meas3 (R55) -/
  | extend (d : List Byte)
  /-- a CXL device is present on a port, with its size in bytes (R26) -/
  | cxl (port : Fin 8) (size : Nat)
  /-- an uncorrectable word arises at a physical address (R25) -/
  | poisonG (addr : Nat)
  /-- an error of one bit is corrected (R25) -/
  | corrected
  /-- an uncorrectable word arises in a core's S or park area, X, W or Z (codes 1, 3, 4, 6) -/
  | poisonBuf (core : CoreId) (sp : Nat) (off : Nat)
  /-- a lane's check will fail in its next element group (R277) -/
  | laneError (core : CoreId) (lane : Nat)
  /-- hub die 0 is reset (R51) -/
  | reset
  /-- ck pass with nothing else -/
  | pass (n : Nat)
  deriving DecidableEq, Repr

/-- The state of the package. `core` and `eng` name the engine on which `exec` runs an instruction; `agenda` lists the moves
to come, `turn` counts those that the machine has picked itself; `freeCtr` counts the free values taken (log 4); `round` counts the placement rounds that are due (R81), `takenAt` is the ck in which the
dispatcher last took a submission (R78), and `hostSeen` what the host's last read of the mailbox returned (R67). -/
structure State where
  core : CoreId
  eng : EngId
  agenda : List Move
  turn : Nat
  freeCtr : Nat
  clk : Nat
  mem : Memory
  poison : List Nat
  chanOut : BitVec 384
  cxl : Vector (Option Nat) 8
  cores : Vector Core 320
  dies : Vector Die 8
  parts : Vector Part 16
  ports : Vector BPort 32
  launches : List Launch
  nextId : Nat
  preCtr : Nat
  subs : List Submission
  takenAt : Option Nat
  round : Nat
  rows : List Row
  gens : List Gen
  genCtr : Nat
  links : List Link
  edges : List (Fin 10 × Fin 10)
  mbox : Mailbox
  hostMem : Memory
  hostSeen : List Byte
  wire : List (Fin 32 × List Byte)
  hub : Hub
  deriving DecidableEq, Repr

/-- Why the machine stops. -/
inductive Fault where
  /-- raised by `Move.hostWrite` and `Move.hostRead`: the offset lies outside the 64 KiB that BAR0 exposes (R67), an address that does
  not exist. Safe: the model stops where nothing can happen. -/
  | outsideMailbox
  deriving DecidableEq, Repr

/-- Why an instruction has no meaning here. -/
inductive Refusal where
  /-- raised by `exec` for an instruction whose meaning has not been written. Safe: the model stops. -/
  | notModelled (mnemonic : String)
  deriving DecidableEq, Repr

/-- A thread's vector part at reset (log 10: the values of R87 with the cap of R72's vlcap 0 where a record would
give one). -/
def VSt.reset : VSt :=
  { vl := 0, vstart := 0, vtype := 0, vlcap := 262144, vregs := 32, len := 0, lslip := 0, stripd := 0, stripn := 0,
    seg := Vector.replicate 64 0, masks := Vector.replicate 8 0, tags := Vector.replicate 32 0, homes := [], vq := [],
    lost := false, inval := false, loopPc := 0, quota := 1, used := 0, waitSince := none }

/-- The trap registers at reset (R265). -/
def TrapRegs.reset : TrapRegs :=
  { ecode := 0, einfo := 0, epc := 0, src := 0, raw := false, epcw := false, uirq := false, ppriv := false,
    trap := false, priv := false }

/-- An engine at reset: not running (R87). -/
def Eng.reset : Eng :=
  { regs := Vector.replicate 32 0, shadow := Vector.replicate 6 0, preds := 0, pc := 0, running := false,
    frozen := false, wait := .none, uiWait := .none, pend := 0, lat := [], cyc := 0, seq := 0, accs := [], fences := [],
    vflags := 0, sbchk := false, uivec := 0, ubase := 0, ulimit := 0, udepth := 0, uiseq := 0, uispans := [], uipend := 0, twait := 0, epoch := 0, stats := [],
    tr := TrapRegs.reset, traps := [], aside := none, skip := 0, thaw := false, task := none, nextExcl := false,
    keepSeq := none, sopWait := none, sopSeq := none, v := VSt.reset }

/-- A barrier at instance start (R334). -/
def Barrier.reset : Barrier :=
  { init := false, phase := false, exp := 0, cnt := 0, scope := 0, gw := 0, gh := 0, arr := 0, shut := none, doneAt := none }

/-- A stream port with no stream (R137). -/
def Port.reset : Port := { run := none, list := [], last := none, irq := none, frozen := false, thaw := false }

/-- No instance: the values that R87 gives one at its start, nothing live. -/
def Inst.reset : Inst :=
  { live := false, launch := 0, lx := 0, ly := 0, ending := false, resumed := false, quad := 0,
    ven := Vector.replicate 4 1, engs := Vector.replicate 5 Eng.reset, bars := Vector.replicate 64 Barrier.reset,
    tqs := Vector.replicate 2 { ents := [], stopped := false, red := false }, prio := 0, lastQ := 1, streak := 0,
    xslots := Vector.replicate 32 { claimed := false, scaled := false, wrote := 0 }, wslots := 0,
    ztiles := Vector.replicate 64 { x := 0, w := 0, bad := false, row := 0, inj := false },
    ports := Vector.replicate 8 Port.reset, feeds := Vector.replicate 4 [], handlers := Vector.replicate 64 0,
    held := 0, busy := Vector.replicate 4 0, elems := Vector.replicate 4 0, stopped := false, lines := [], parkedAt := 0 }

/-- An empty buffer. -/
def Buf.reset : Buf := { mem := [], fresh := 0, poison := [] }

/-- A core at reset (R89, R266, R281, R283, R284). -/
def Core.reset : Core :=
  { inst := Inst.reset, parked := Inst.reset, sfg := 8, xfg := 8, wfg := 16, zfg := 16, splitNew := none, tbase := 0,
    errinj := 0, bp := Vector.replicate 4 0, wp := Vector.replicate 2 0, ssa := 0, ssn := 0, trc := 0, trp := 0,
    trcFull := false, bufS := Buf.reset, bufX := Buf.reset, bufW := Buf.reset, bufZ := Buf.reset, park := Buf.reset,
    vrf := [], owner := .nobody, imgCrc := none, tlb := [], locks := [], reels := [], zrun := none,
    gangArr := [],
    turn := Vector.replicate 4 3, share := 0, slotCk := 0, slotLg := 0,
    retired := false, retirePend := false, lanesOut := 0, laneErr := none, next := none, early := [],
    preReq := false, resumeReq := false, halted := false }

/-- A die at reset (R218, R226). -/
def Die.reset : Die :=
  { gate := [], route := [], stale := 0, refused := 0, dup := 0, conflict := 0, ferr := 0, factorFrozen := false,
    routeFrozen := false, assayerFrozen := false }

/-- A disabled pool (R234). -/
def Pool.reset : Pool :=
  { addr := 0, busy := false, err := false, en := false, base := 0, nch := 0, fshift := 0, fmt := 0, dh := 0, nh := 0,
    hstride := 0, vofs := 0, nfr := 0, chans := [], frames := [], cmds := [], frozen := [] }

/-- A traffic class before its port comes up (R34). -/
def TClass.reset : TClass :=
  { tx := 0, rx := 0, got := false, credit := 0, frames := [], past := [], grant := 0, grantAck := 0xffffffff, space := 1024 }

/-- A port that has not trained (R34). -/
def BPort.reset : BPort :=
  { up := false, peerDown := false, retired := false, frozen := false, malformed := 0, misdirected := 0, lastRx := 0,
    lastKa := 0, cls := Vector.replicate 8 TClass.reset, reqs := [], boots := [] }

/-- Hub die 0 right after its reset: the boot ROM is at step 1 with a blank flash (R51, R54; log 11), the
measurements are zero (R55), the registers hold their reset values (R60, R66, R75), the package number is 0xffff
(R52) and the current limit 9,000 A (R39). -/
def Hub.reset : Hub :=
  { boot := .step 1, resets := 0, record := none, recNew := none, slotA := none, slotB := none, selB := false,
    prevSel := false, rtImage := none, rtNext := none, devPriv := 0, devPub := List.replicate 64 0,
    ident := List.replicate 32 0, helper := [], blank := false, meas := Vector.replicate 4 (List.replicate 32 0),
    repBusy := false, repStatus := 0, repOp := 0, repTarget := 0, health := 0, switchAt := none,
    notifs := [], dropped := 0, popped := 0, unfreezeRes := 0, lres := Vector.replicate 16 0,
    lbusy := Vector.replicate 16 false, pkg := 0xffff, limit := 9000, estimate := 0,
    temps := Vector.replicate 10 0, hots := Vector.replicate 10 false, halted := false, etypes := Vector.replicate 2 0x88b5,
    pcie := false, mboxOn := false, progressAt := 0, fetchAt := 0, trained := 0, ran := false,
    validA := false, validB := false, corrected := 0 }

/-- The package right after a reset of hub die 0: no launch, no partition, memory with nothing listed. -/
def State.reset : State :=
  { core := 0, eng := callerId, agenda := [], turn := 0, freeCtr := 0, clk := 0, mem := [], poison := [], chanOut := 0,
    cxl := Vector.replicate 8 none, cores := Vector.replicate 320 Core.reset, dies := Vector.replicate 8 Die.reset,
    parts := Vector.replicate 16 { pdef := none, resetting := none, pool := Pool.reset },
    ports := Vector.replicate 32 BPort.reset, launches := [], nextId := 1, preCtr := 0, subs := [], takenAt := none, round := 0, rows := [],
    gens := [], genCtr := 0, links := [], edges := [],
    mbox := { reqpi := 0, reqci := 0, rsppi := 0, rspci := 0, st := 0, rings := [], reqs := [], waiting := [],
              msix := 0 },
    hostMem := [], hostSeen := [], wire := [], hub := Hub.reset }

end Sys2Proof.Machine
end

