-- ==== Sys2Proof/Machine/Bits.lean ====
section
/-! DEFINITION. Bytes, bit fields and sparse memory: what every access is built from (R1, R2, R158). -/

namespace Sys2Proof.Machine

open Sys2Proof

/-- The next outcome. -/
abbrev Res := Host.Outcome State Fault Refusal

/-- A bit of a number (R2). -/
def bitN (n i : Nat) : Bool := n / 2 ^ i % 2 == 1

/-- Bits [hi:lo] of a register (R2). -/
def fieldW (w : Word) (hi lo : Nat) : Nat := bitsOf w.toNat hi lo

/-- A 64-bit word from a number. -/
def wordN (n : Nat) : Word := BitVec.ofNat 64 n

/-- The low `bits` bits of `n` read as a signed integer. -/
def signedOf (bits n : Nat) : Int :=
  let m := n % 2 ^ bits
  if bits != 0 && 2 ^ (bits - 1) ≤ m then (m : Int) - (2 : Int) ^ bits else (m : Int)

/-- An integer as `bits` bits of two's complement. -/
def unsignedOf (bits : Nat) (v : Int) : Nat := (v % ((2 : Int) ^ bits)).toNat

/-- The low `bytes` bytes of `n` sign-extended to a register (R329). -/
def sextW (bytes n : Nat) : Word := BitVec.ofInt 64 (signedOf (8 * bytes) n)

/-- The little-endian bytes of a number (R1). -/
def bytesLE : Nat → Nat → List Byte
  | 0, _ => []
  | k + 1, n => BitVec.ofNat 8 n :: bytesLE k (n / 256)

/-- The number that bytes hold, little-endian (R1). -/
def numLE : List Byte → Nat
  | [] => 0
  | b :: bs => b.toNat + 256 * numLE bs

/-- `len` bytes of a list from `off`, zero beyond its end. -/
def slice (bs : List Byte) (off len : Nat) : List Byte :=
  let t := (bs.drop off).take len
  t ++ List.replicate (len - t.length) 0

/-- A little-endian field of a record (R1). -/
def fieldLE (bs : List Byte) (off len : Nat) : Nat := numLE ((bs.drop off).take len)

/-- Every byte of a range of a record is zero. -/
def zeroBytes (bs : List Byte) (off len : Nat) : Bool := ((bs.drop off).take len).all (· == 0)

/-- The byte at an address: what is listed there, or the blank byte. -/
def Memory.read (m : Memory) (a : Nat) : Byte :=
  match m with
  | [] => Config.blankByte
  | (b, v) :: rest => if b = a then v else Memory.read rest a

/-- List a byte, keeping the addresses rising. -/
def Memory.insert (m : Memory) (a : Nat) (v : Byte) : Memory :=
  match m with
  | [] => [(a, v)]
  | (b, u) :: rest =>
    if a < b then (a, v) :: (b, u) :: rest
    else if a = b then (a, v) :: rest
    else (b, u) :: Memory.insert rest a v

/-- Write a byte, keeping the addresses rising and no blank byte listed. -/
def Memory.write (m : Memory) (a : Nat) (v : Byte) : Memory :=
  if v = Config.blankByte then m.filter (fun c => c.1 != a) else m.insert a v

/-- Addresses rise strictly from a bound, and no entry is blank. -/
def Memory.wfFrom (lo : Nat) : Memory → Bool
  | [] => true
  | (a, v) :: rest => lo ≤ a && v != Config.blankByte && Memory.wfFrom (a + 1) rest

/-- The canonical form of memory. -/
def Memory.wf (m : Memory) : Bool := Memory.wfFrom 0 m

/-- `len` bytes from an address. -/
def Memory.readBytes (m : Memory) (a : Nat) : Nat → List Byte
  | 0 => []
  | k + 1 => Memory.read m a :: Memory.readBytes m (a + 1) k

/-- Write bytes from an address upward. -/
def Memory.writeBytes (m : Memory) (a : Nat) : List Byte → Memory
  | [] => m
  | b :: bs => Memory.writeBytes (Memory.write m a b) (a + 1) bs

/-- Drop every listed byte of a range. -/
def Memory.clear (m : Memory) (lo len : Nat) : Memory := m.filter (fun c => !(lo ≤ c.1 && c.1 < lo + len))

/-- Add an element to an ascending list of numbers, once. -/
def insertNat (x : Nat) : List Nat → List Nat
  | [] => [x]
  | y :: ys => if x < y then x :: y :: ys else if x = y then y :: ys else y :: insertNat x ys

/-- Two byte ranges meet. -/
def overlaps (a la b lb : Nat) : Bool := a < b + lb && b < a + la

/-- The blocks of `blk` bytes that a range touches. -/
def blocksOf (blk off len : Nat) : List Nat :=
  if len = 0 then [] else (List.range ((off + len - 1) / blk - off / blk + 1)).map (fun k => off / blk + k)

/-- A byte of a buffer: zero in a fresh block (R88). -/
def Buf.read (b : Buf) (blk off : Nat) : Byte :=
  if b.fresh.testBit (off / blk) then 0 else b.mem.read off

/-- `len` bytes of a buffer. -/
def Buf.readBytes (b : Buf) (blk off : Nat) : Nat → List Byte
  | 0 => []
  | k + 1 => Buf.read b blk off :: Buf.readBytes b blk (off + 1) k

/-- The first write to a fresh block zeroes the bytes it does not cover, so that none is uncorrectable, and clears the bit
(R88, R276). -/
def Buf.unfresh (b : Buf) (blk : Nat) (blocks : List Nat) : Buf :=
  blocks.foldl (fun b k =>
    if b.fresh.testBit k then
      { b with mem := b.mem.clear (k * blk) blk, fresh := b.fresh ^^^ (1 <<< k), poison := b.poison.filter (fun p => p / blk != k) }
    else b) b

/-- The uncorrectable words of a buffer that an access can meet: a fresh block reads as zeros, whatever it holds (R88, R276). -/
def Buf.bad (b : Buf) (blk : Nat) : List Nat := b.poison.filter (fun p => !b.fresh.testBit (p / blk))

/-- The protected words of `word` bytes that a write covers whole become correctable again (R276). -/
def unpoison (ps : List Nat) (word off len : Nat) : List Nat :=
  ps.filter (fun p => !(off ≤ p && p + word ≤ off + len))

/-- A read touches an uncorrectable word. -/
def poisoned (ps : List Nat) (word off len : Nat) : Bool := ps.any (fun p => overlaps p word off len)

/-- A write touches an uncorrectable word that it does not cover whole (R276). -/
def poisonedWrite (ps : List Nat) (word off len : Nat) : Bool := poisoned (unpoison ps word off len) word off len

/-- Write bytes into a buffer: fresh blocks first become zero, covered words become correctable. -/
def Buf.writeBytes (b : Buf) (blk off : Nat) (bs : List Byte) : Buf :=
  let b := b.unfresh blk (blocksOf blk off bs.length)
  { b with mem := b.mem.writeBytes off bs, poison := unpoison b.poison 8 off bs.length }

/-- Mark a range of blocks fresh (R88, R130). -/
def Buf.markFresh (b : Buf) (lo n : Nat) : Buf := { b with fresh := b.fresh ||| ((2 ^ n - 1) <<< lo) }

/-- The blocks of S, X and W are of 512 bytes (R88). -/
def blkS : Nat := 512

/-- A Z tile is one block of 16,384 bytes (R88, R121). -/
def blkZ : Nat := 16384

/-- A number from a list of 0s and 1s of a mask: the indices below `n` whose bit is set. -/
def bitsIn (m n : Nat) : List Nat := (List.range n).filter (fun i => m.testBit i)

/-- Set or clear one bit of a number. -/
def setBitN (m i : Nat) (v : Bool) : Nat :=
  if v then m ||| (1 <<< i) else if m.testBit i then m ^^^ (1 <<< i) else m

/-- How many bits of a number are set, below `n`. -/
def countBits : Nat → Nat → Nat
  | 0, _ => 0
  | n + 1, m => m % 2 + countBits n (m / 2)

/-- ⌊log2 n⌋; 0 for 0. -/
def lg (n : Nat) : Nat := Nat.log2 n

/-- The largest power of two not above n; 0 for 0. -/
def floorPow2 (n : Nat) : Nat := if n = 0 then 0 else 2 ^ lg n

/-- ⌈a / b⌉. -/
def ceilDiv (a b : Nat) : Nat := if b = 0 then 0 else (a + b - 1) / b

/-- Replace the element at an index of a list. -/
def setAt {α : Type} (l : List α) (n : Nat) (x : α) : List α := l.set n x

/-- Remove the element at an index. -/
def removeAt {α : Type} (l : List α) (n : Nat) : List α := l.eraseIdx n

end Sys2Proof.Machine
end

