-- ==== Sys2Proof/Machine/Ops.lean ====
section
/-! DEFINITION. The named operations over the state: cores, engines and registers, windows, notifications and
freezes, taking an exception and returning from one, translation, and reading and writing a place. -/

namespace Sys2Proof.Machine

open Sys2Proof

/-- The record of no launch. -/
def blankRec : LRec :=
  { entry := 0, param := 0, cmpl := 0, ptroot := 0, w := 1, h := 1, queue := 0, part := 0, det := false,
    boost := false, sbchk := false, vlcap := 0, lslip := 0, quad := 0, weight := 1, tag := 0 }

/-- No launch. -/
def blankLaunch : Launch :=
  { id := 0, rec_ := blankRec, by_ := .host, reqTag := 0, st := .ended, ox := 0, oy := 0, status := 0, ecode := 0, core := 0,
    eng := 0, fatalAt := 0, stopping := false, preAt := 0, comm := Vector.replicate 64 0, loaded := 0 }

/-- The core with a physical number, taken modulo 320 (R18). -/
def coreN (n : Nat) : CoreId := Fin.ofNat 320 n

/-- A core of the package. -/
def State.coreAt (s : State) (c : CoreId) : Core := s.cores[c]

/-- Change one core. -/
def State.updCore (s : State) (c : CoreId) (f : Core → Core) : State :=
  { s with cores := s.cores.set c.val (f s.cores[c]) c.isLt }

/-- The instance that runs on a core. -/
def State.instAt (s : State) (c : CoreId) : Inst := (s.coreAt c).inst

/-- Change the running instance of a core. -/
def State.updInst (s : State) (c : CoreId) (f : Inst → Inst) : State :=
  s.updCore c (fun k => { k with inst := f k.inst })

/-- An engine of the running instance of a core. -/
def State.engAt (s : State) (c : CoreId) (e : EngId) : Eng := (s.instAt c).engs[e]

/-- Change one engine of an instance. -/
def Inst.updEng (n : Inst) (e : EngId) (f : Eng → Eng) : Inst :=
  { n with engs := n.engs.set e.val (f n.engs[e]) e.isLt }

/-- Change one engine of the running instance of a core. -/
def State.updEng (s : State) (c : CoreId) (e : EngId) (f : Eng → Eng) : State :=
  s.updInst c (fun n => n.updEng e f)

/-- The engine that executes. -/
def State.me (s : State) : Eng := s.engAt s.core s.eng

/-- Change the engine that executes. -/
def State.updMe (s : State) (f : Eng → Eng) : State := s.updEng s.core s.eng f

/-- Change the vector part of an engine. -/
def State.updV (s : State) (c : CoreId) (e : EngId) (f : VSt → VSt) : State :=
  s.updEng c e (fun g => { g with v := f g.v })

/-- Take one free number: its index and the state that has taken it (log 4). -/
def State.free (s : State) : Nat × State := (s.freeCtr, { s with freeCtr := s.freeCtr + 1 })

/-- Any member of a list: a free number says which of several (log 4). -/
def State.anyOf {α : Type} (s : State) (l : List α) : Option α × State :=
  match l with
  | [] => (none, s)
  | [a] => (some a, s)
  | a :: b :: rest => let (n, s) := s.free; ((a :: b :: rest)[Config.number n % (rest.length + 2)]?, s)

/-- The launch with an identifier. -/
def State.launchAt (s : State) (id : Nat) : Launch := (s.launches.find? (fun l => l.id == id)).getD blankLaunch

/-- Change the launch with an identifier. -/
def State.updLaunch (s : State) (id : Nat) (f : Launch → Launch) : State :=
  { s with launches := s.launches.map (fun l => if l.id == id then f l else l) }

/-- The launch that runs on a core. -/
def State.launchOf (s : State) (c : CoreId) : Launch := s.launchAt (s.instAt c).launch

/-- The record of the launch that runs on a core. -/
def State.recOf (s : State) (c : CoreId) : LRec := (s.launchOf c).rec_

/-- A record names a foreground queue (R79). -/
def LRec.fg (r : LRec) : Bool := r.queue < 8

/-- The cores of a launch's rectangle, by logical index: the physical core (R80, R90). -/
def Launch.coreOf (l : Launch) (idx : Nat) : CoreId :=
  coreN (20 * (l.oy + idx / l.rec_.w) + l.ox + idx % l.rec_.w)

/-- The cores of a launch in logical order. -/
def Launch.coreList (l : Launch) : List CoreId := (List.range (l.rec_.w * l.rec_.h)).map l.coreOf

/-- The logical core index of the instance on a core (R90). -/
def State.lidx (s : State) (c : CoreId) : Nat := (s.instAt c).lx + (s.recOf c).w * (s.instAt c).ly

/-- The compute die of a core (R18). -/
def dieOf (c : CoreId) : Fin 8 := Fin.ofNat 8 (c.val % 20 / 5 + 4 * (c.val / 20 / 8))

/-- A window of a buffer: first unit and count, for a foreground or a batch instance (R89). -/
def window (total part : Nat) (fg : Bool) : Nat × Nat :=
  let k := if part ≤ total then part else total
  if fg then (total - k, k) else (0, total - k)

/-- The S window in bytes. -/
def Core.winS (k : Core) (fg : Bool) : Nat × Nat :=
  let w := window 32 k.sfg fg
  (w.1 * 65536, w.2 * 65536)

/-- The X slots of a class. -/
def Core.winX (k : Core) (fg : Bool) : Nat × Nat := window 32 k.xfg fg

/-- The W slots of a class. -/
def Core.winW (k : Core) (fg : Bool) : Nat × Nat := window 64 k.wfg fg

/-- The Z tiles of a class. -/
def Core.winZ (k : Core) (fg : Bool) : Nat × Nat := window 64 k.zfg fg

/-- The launch on a core is a foreground launch. -/
def State.fgAt (s : State) (c : CoreId) : Bool := (s.recOf c).fg

/-- The executing engine is the Caller. -/
def State.isCaller (s : State) : Bool := s.eng == callerId

/-! ### Scalar registers and predicates (R322) -/

/-- Read a scalar register of an engine: s0 reads as zero. -/
def Eng.rd (g : Eng) (r : SReg) : Word :=
  if r == 0 then 0 else if g.tr.uirq && 24 ≤ r.toNat && r.toNat ≤ 29 then
    g.shadow[(r.toNat - 24) % 6]'(Nat.mod_lt _ (by decide))
  else g.regs[r.toNat]'(r.isLt)

/-- A register number that names a shadow while a user-level handler runs (R148). -/
def Eng.shadowed (g : Eng) (r : Nat) : Bool := g.tr.uirq && 24 ≤ r && r ≤ 29

/-- Write a scalar register of an engine: a write to s0 is discarded; the register holds no status word and no result of fixed
latency any more. -/
def Eng.wr (g : Eng) (r : SReg) (v : Word) : Eng :=
  if r == 0 then g
  else
    let g : Eng := { g with
      stats := g.stats.filter (fun t => !(t.reg == r && t.shadow == g.shadowed r.toNat)),
      lat := g.lat.filter (fun l => l.reg != r.toNat) }
    if g.tr.uirq && 24 ≤ r.toNat && r.toNat ≤ 29 then
      { g with shadow := g.shadow.set ((r.toNat - 24) % 6) v (Nat.mod_lt _ (by decide)) }
    else { g with regs := g.regs.set r.toNat v r.isLt }

/-- Read a predicate: p0 reads as true (R322). -/
def Eng.rdP (g : Eng) (p : PReg) : Bool := p == 0 || g.preds.getLsbD p.toNat

/-- Write a predicate other than p0. -/
def Eng.wrP (g : Eng) (p : PReg) (v : Bool) : Eng :=
  if p == 0 then g
  else { g with preds := BitVec.ofNat 8 (setBitN g.preds.toNat p.toNat v), lat := g.lat.filter (fun l => l.reg != 32 + p.toNat) }

/-- The load scoreboard holds a register (R304). -/
def Eng.held (g : Eng) (r : SReg) : Bool := r != 0 && g.pend.getLsbD r.toNat

/-- Put a register under the load scoreboard, or take it off. -/
def Eng.setPend (g : Eng) (r : SReg) (v : Bool) : Eng :=
  if r == 0 then g
  else { g with pend := BitVec.ofNat 32 (setBitN g.pend.toNat r.toNat v),
                lat := g.lat.filter (fun l => l.reg != r.toNat) }

/-- A result lands: the register is written and no longer held. -/
def Eng.land (g : Eng) (r : SReg) (v : Word) : Eng := (g.wr r v).setPend r false

/-- Raise flags in VFLAGS (R200). -/
def Eng.raise (g : Eng) (fl : Nat) : Eng := { g with vflags := g.vflags ||| (wordN fl &&& 0x7f) }

/-- Advance past an instruction of `bytes` bytes. -/
def Eng.advance (g : Eng) (bytes : Nat) : Eng := { g with pc := g.pc + wordN bytes }

/-- The executing engine runs at supervisor privilege (R323). -/
def State.sup (s : State) : Bool := s.me.tr.priv

/-! ### Notifications and freezes (R64, R272, R273) -/

/-- The capacity of the notification queue (R64). -/
def notifCap : Nat := 1024

/-- Post a notification: counted and dropped when the queue is full (R64). -/
def State.notify (s : State) (n : Notif) : State :=
  if s.hub.notifs.length < notifCap then { s with hub := { s.hub with notifs := s.hub.notifs ++ [n] } }
  else { s with hub := { s.hub with dropped := s.hub.dropped + 1 } }

/-- The master word of R272. -/
def masterWord (ty phys num : Nat) : BitVec 32 :=
  BitVec.ofNat 32 (ty * 2 ^ 28 + phys % 4096 * 2 ^ 16 + num % 65536)

/-- The master word of an engine of a core. -/
def engMaster (c : CoreId) (e : EngId) : BitVec 32 :=
  if e == callerId then masterWord 1 c.val 0 else masterWord 0 c.val e.val

/-- Post the freeze of a master (R272). -/
def State.notifyFreeze (s : State) (code part : Nat) (m : BitVec 32) (addr : Nat) : State :=
  s.notify { kind := 1, ecode := code, part := part, master := m, addr := wordN addr }

/-- Freeze an engine: it issues nothing more; nothing is delivered to its handler (R11, R273). -/
def State.freezeEng (s : State) (c : CoreId) (e : EngId) (code addr : Nat) : State :=
  (s.updEng c e (fun g => { g with frozen := true })).notifyFreeze code (s.recOf c).part (engMaster c e) addr

/-- Freeze a stream port (R142). -/
def State.freezePort (s : State) (c : CoreId) (p : Fin 8) (code addr : Nat) : State :=
  (s.updInst c (fun n => { n with ports := n.ports.set p.val { n.ports[p] with frozen := true } p.isLt })).notifyFreeze
    code (s.recOf c).part (masterWord 2 c.val p.val) addr

/-! ### Taking an exception and returning from one (R265 to R271) -/

/-- The address of the handler of a code (R267). -/
def trapVector (tbase : Word) (code : Nat) : Word := wordN (fieldW tbase 51 12 * 4096 + 0x40 * code)

/-- The trap registers after entry (R267). -/
def TrapRegs.enter (t : TrapRegs) (x : Trap) (raw : Bool) : TrapRegs :=
  { t with ecode := x.code, einfo := x.info, epc := x.epc &&& 0xffffffffffffc, ppriv := t.priv, priv := true,
           trap := true, epcw := false, src := x.src, raw := raw }

/-- A trap is the first-use trap (R114). -/
def Trap.firstUse (x : Trap) : Bool := x.code == 0x0a && x.info == 1

/-- The tile queue that a trap's source names (R265). -/
def Trap.tq (x : Trap) : Option (Fin 2) := if x.src == 2 then some 0 else if x.src == 3 then some 1 else none

/-- A barrier wait is in progress: the engine is inside its instruction (R119). -/
def Eng.atBar (g : Eng) : Bool :=
  match g.wait with
  | .bar _ => true
  | .twait _ _ _ => true
  | _ => false

/-- The comparators that do not fire again where issue resumes after a trap: the one that it reports and those that had fired there
before it, as bits; none after any other trap (R265, R269). -/
def firedOf (skip code : Nat) (info : Word) : Nat :=
  if code = 0x15 then skip ||| 2 ^ (info.toNat % 4) else if code = 0x16 then skip ||| 2 ^ (4 + info.toNat % 2) else 0

/-- Instructions that write their destination only at their end: they take part in every element group, and act with the last
(R107, R412, R414, R419). -/
def slotAtEnd (op : VOp) : Bool :=
  op == .vsortr || op == .vchk || op == .vinter || op == .vuniq || op == .vrank || op == .vpart || op == .vred || op == .vsegred

/-- The convoy writes only at its end. -/
def QConvoy.atEnd (q : QConvoy) : Bool := q.slots.any (fun v => slotAtEnd v.op)

/-- A group of `vsc` or `vamo` at the front of a convoy has committed and scatters (R395, R397). -/
def QConvoy.scattering (q : QConvoy) : Bool := match q.fly with | f :: _ => f.cut.isSome | [] => false

/-- A trap that has been met may be entered now: no other is open, convoys ahead of its cause have retired, unless it is a
convoy's own, and a cause that is taken at an instruction boundary finds one (R267, R268). -/
def Eng.mayTrap (g : Eng) (x : Trap) : Bool :=
  !g.tr.trap && (x.conv || (!g.atBar && g.v.vq.all (fun q => x.seq ≤ q.seq && !q.scattering)))

/-- The address of the notification of a double fault (R272). -/
def Trap.addr (x : Trap) : Nat := if x.code == 4 || x.code == 5 || x.code == 12 then x.info.toNat / 4096 else 0

/-- The element at which a convoy that stops goes on: its first uncommitted one, the first behind a group that scatters, 0 for
what writes only at its end (R107, R397). -/
def QConvoy.front (q : QConvoy) : Nat :=
  match q.fly with
  | f :: _ => f.cut.getD (if q.atEnd then 0 else q.prog)
  | [] => if q.start.isSome && q.atEnd then 0 else q.prog

/-- A convoy that has stopped begins again at its first uncommitted element: its groups in flight are discarded and its blocks and
elements read afresh (R107, R386, R398). The watchpoints that have fired there still do not fire if it has not gone past the element (R269). -/
def QConvoy.restart (q : QConvoy) : QConvoy :=
  { q with start := none, blk := [], skip := if q.start.isNone || q.start == some q.front then q.skip else 0, fly := [], seen := [], bad := [], went := [], stopped := false }

/-- An access belongs to a convoy. -/
def QConvoy.has (q : QConvoy) (a : Acc) : Bool := q.seq ≤ a.seq && a.seq < q.seq + 8

/-- An element of a vector access whose result a group in flight waits for. -/
def Acc.isV (a : Acc) : Bool :=
  match a.kind with
  | .vload _ _ => true
  | .vamo _ _ _ _ => true
  | .vsc _ => true
  | _ => false

/-- What an access reads and writes. -/
def AccKind.reads : AccKind → Bool
  | .load _ _ => true
  | .amo _ _ => true
  | .vload _ _ => true
  | .vamo _ _ _ _ => true
  | _ => false

/-- An access writes. -/
def AccKind.writes : AccKind → Bool
  | .store => true
  | .amo _ _ => true
  | .vamo _ _ _ _ => true
  | .vsc _ => true
  | _ => false

/-- The key of an element of a vector access. -/
def AccKind.key : AccKind → Nat
  | .vload key _ => key
  | .vamo key _ _ _ => key
  | .vsc key => key
  | _ => 0

/-- The head of a vector queue stops: it begins again where it goes on, and what its groups in flight asked for is dropped; VSTART is
its first uncommitted element (R96, R107). -/
def Eng.stopHead (g : Eng) : Eng :=
  match g.v.vq with
  | [] => g
  | q :: rest =>
    { g with accs := g.accs.filter (fun a => !(a.isV && q.has a)),
             v := { g.v with vq := { q.restart with prog := q.front } :: rest, vstart := q.front } }

/-- A convoy as a stop at the points of R107 leaves it: its uncommitted groups are discarded, but a group that scatters goes on (R397).
No record is written, so what its elements have done stays noted (R285). -/
def QConvoy.halt (q : QConvoy) : QConvoy :=
  if q.scattering then { q with fly := q.fly.take 1 } else { q.restart with prog := q.front, went := q.went }

/-- An engine stands at the points of R107: its head convoy stops, VSTART is where it goes on, and EPC its header's address. -/
def Eng.atStop (g : Eng) : Eng :=
  match g.v.vq with
  | [] => g
  | q :: rest =>
    if q.start.isNone then g
    else
      let keep (a : Acc) : Bool := !(a.isV && q.has a) || (q.scattering && a.kind.key < 8 * q.front)
      { g with
        accs := g.accs.filter keep, tr := { g.tr with epc := q.pc },
        v := { g.v with vq := q.halt :: rest, vstart := q.front, waitSince := none } }

/-- An engine as a trap enters it: the vector queue and the scalar resume address are set aside, the trap registers are
written, and the handler is next (R267). Of the other causes that wait, a scalar one at issue is met again after the return; that
of a late access is dropped for a convoy's fault, and its access issues again at `eret`; a tile queue's waits. EPC of a gang
report is the scalar resume address (R268). A barrier wait that a convoy's fault interrupts goes on (log 16). VSTART is the element of a
write that a freed slot refuses (R131). -/
def Eng.enter (g : Eng) (x : Trap) (tbase : Word) : Eng :=
  let g := g.stopHead
  let x : Trap := if x.src = 4 then { x with epc := g.pc } else x
  { g with
    aside := some { vq := g.v.vq, resume := g.pc, acc := x.acc, seq := g.seq, fired := x.fired,
                    skip := if x.conv || x.acc.isSome || x.tq.isSome || x.src = 4 then g.skip else x.fired, tq := x.tq, firstUse := x.firstUse,
                    late := x.elem.isSome, vstart := g.v.vstart },
    tr := g.tr.enter x x.firstUse, pc := trapVector tbase x.code, wait := .none, sopWait := none,
    uiWait := if g.atBar then g.wait else g.uiWait, v := { g.v with vq := [], vstart := if x.firstUse then 0 else x.elem.getD g.v.vstart },
    traps := g.traps.filter (fun y => (2 ≤ y.src && y.src ≤ 4) || (y.acc.isSome && !x.conv)) }

/-- Enter a trap (R267). -/
def State.enterTrap (s : State) (c : CoreId) (e : EngId) (x : Trap) : State :=
  s.updEng c e (fun g => g.enter x (s.coreAt c).tbase)

/-- A fault of an inverse handler's own instruction stops the replay with ECODE 0x10, also one that an access or a convoy of it meets
after it has returned (R260). -/
def Eng.wrapTrap (g : Eng) (x : Trap) : Trap :=
  match g.task with
  | some t =>
    match t.abort with
    | some a =>
      if a.at_ != .aimed && x.src ≤ 1 && a.seq ≤ x.seq then { x with code := 0x10, info := wordN x.code, src := 5 } else x
    | none => x
  | none => x

/-- Raise a trap. One that is open already makes it a double fault, which freezes the engine with the new code (R267, R270).
Otherwise it is entered at once where it may be, and kept until then where not, as in a parked instance. -/
def State.raiseTrap (s : State) (c : CoreId) (e : EngId) (x : Trap) : State :=
  let g := s.engAt c e
  if g.tr.trap then s.freezeEng c e x.code x.addr
  else
    let x := g.wrapTrap x
    if g.mayTrap x && !(s.instAt c).stopped then s.enterTrap c e x else s.updEng c e (fun g => { g with traps := g.traps ++ [x] })

/-- The trap of a scalar instruction of the executing engine: EPC and the resume address are its own (R267). -/
def State.scalarTrap (s : State) (code : Nat) (info : Word) : Trap :=
  { code := code, info := info, epc := s.me.pc, src := 0, conv := false, seq := s.me.seq, acc := none,
    fired := firedOf s.me.skip code info, elem := none }

/-- Raise a scalar instruction's trap on the executing engine. -/
def State.trapMe (s : State) (code : Nat) (info : Word) : State :=
  s.raiseTrap s.core s.eng (s.scalarTrap code info)

/-- The faulting word of an instruction, as EINFO reports it: its word, or command and operand word (R265). -/
def faultWord (i : Instr) : Word :=
  match encode i with
  | [w] => w.zeroExtend 64
  | [w, o] => w.zeroExtend 64 ||| (o.zeroExtend 64 <<< 32)
  | w :: _ => w.zeroExtend 64
  | [] => 0

/-- The instruction raises ECODE 0x01 on the executing engine. -/
def State.illegal (s : State) (i : Instr) : Res := .next (s.trapMe 0x01 (faultWord i))

/-- The instruction raises ECODE 0x03 on the executing engine (R323). -/
def State.privileged (s : State) (i : Instr) : Res := .next (s.trapMe 0x03 (faultWord i))

/-- EINFO of a misaligned address (R265). -/
def misInfo (addr align : Nat) : Word := wordN (addr % 2 ^ 52 * 4096 + align)

/-- Restore the privilege and close the trap (R269). -/
def TrapRegs.leave (t : TrapRegs) : TrapRegs := { t with priv := t.ppriv, trap := false, raw := false }

/-! ### Ends of a launch (R83, R271) -/

/-- A fatal end comes before the one that a launch already reports: of one ck, at a lower core or at a lower engine of the
same core (R271). -/
def Launch.before (l : Launch) (clk core eng : Nat) : Bool :=
  l.status == 1 && l.fatalAt == clk && (core < l.core || (core == l.core && eng < l.eng))

/-- A launch meets a fatal end: its engines stop. The completion word reports the first one, and of those of one ck the one
of the lowest core and engine (R83, R271). -/
def State.fatal (s : State) (id status code core eng : Nat) : State :=
  s.updLaunch id (fun l =>
    if l.stopping && !(status == 1 && l.before s.clk core eng) then l
    else { l with stopping := true, status := status, ecode := code, core := core, eng := eng, fatalAt := s.clk })

/-! ### Main memory and translation (R22 to R25, R149 to R155) -/

/-- What an access meets when it may not perform: a trap, or a freeze of its master (R265). -/
inductive AFault where
  | trap (code : Nat) (info : Word)
  | freeze (code addr : Nat)
  deriving DecidableEq, Repr

/-- What an access meets is a trap. -/
def AFault.traps : AFault → Bool
  | .trap _ _ => true
  | .freeze _ _ => false

/-- The first address of the device registers (R22). -/
def devBase : Nat := 0xf000000000000

/-- The definition of a partition. -/
def State.partDef (s : State) (p : Nat) : Option PartDef := (s.parts[p % 16]'(Nat.mod_lt _ (by decide))).pdef

/-- A core lies in a partition's rectangle. -/
def PartDef.hasCore (d : PartDef) (c : CoreId) : Bool :=
  let x := c.val % 20
  let y := c.val / 20
  d.x0 ≤ x && x < d.x0 + d.w && d.y0 ≤ y && y < d.y0 + d.h

/-- Where an access comes from that belongs to no partition: the system cores, the dispatcher. -/
def noPart : Nat := 16

/-- The partition in which a core lies, `noPart` for none. -/
def State.partOf (s : State) (c : CoreId) : Nat :=
  ((List.range 16).find? (fun p => match s.partDef p with | some d => d.hasCore c | none => false)).getD noPart

/-- A channel belongs to a partition that is being re-imaged, and the access comes from another place (R59). -/
def State.reimaging (s : State) (org ch : Nat) : Bool :=
  (List.range 16).any (fun p =>
    p != org && (s.parts[p % 16]'(Nat.mod_lt _ (by decide))).resetting == some true &&
      (match s.partDef p with | some d => d.chans.getLsbD ch | none => false))

/-- Physical addresses that hold memory for an access from a partition: LPDDR of a live channel that is not being re-imaged by
another, or a CXL window with a device (R22, R24, R59). -/
def State.populated (s : State) (org pa len : Nat) : Bool :=
  if pa + len ≤ 0x30000000000 then
    let ch := pa / 0x200000000
    !s.chanOut.getLsbD ch && !s.reimaging org ch
  else if 0x100000000000 ≤ pa && pa + len ≤ 0x200000000000 then
    match s.cxl[(pa - 0x100000000000) / 0x20000000000 % 8]'(Nat.mod_lt _ (by decide)) with
    | some size => (pa - 0x100000000000) % 0x20000000000 + len ≤ size
    | none => false
  else false

/-- EINFO of uncorrectable data (R265). -/
def poisonInfo (addr space : Nat) : Word := wordN (addr % 2 ^ 52 * 4096 + space * 256)

/-- Read physical memory as hardware does: populated, and correctable in whole 32-byte words (R24, R276). `va` is
the address to report. -/
def State.readPhys (s : State) (org pa len va : Nat) : Except AFault (List Byte) :=
  if !s.populated org pa len then .error (.freeze 6 pa)
  else if poisoned s.poison 32 pa len then .error (.trap 0x0c (poisonInfo va 0))
  else .ok (s.mem.readBytes pa len)

/-- The levels of the table walk: low bit and width of the index, log2 of what a leaf maps, alignment of the next
table (R149). -/
def levels : List (Nat × Nat × Nat × Nat) :=
  [(39, 13, 39, 4096), (30, 9, 30, 4096), (21, 9, 21, 256), (16, 5, 16, 1)]

/-- Permission bits of an entry: X 16, WR 8, RD 4 (R150). -/
def permX : Nat := 16
/-- Write permission. -/
def permW : Nat := 8
/-- Read permission. -/
def permR : Nat := 4

/-- EINFO of a translation fault (R152). -/
def xlateInfo (va lvl cause : Nat) : Word := wordN (va % 2 ^ 52 * 4096 + lvl * 256 + cause)

/-- An entry breaks R150: a reserved bit, a leaf at level 0, a table below level 3, an unaligned address. -/
def entryBad (e lvl : Nat) (size next : Nat) : Bool :=
  let leaf := bitN e 1
  bitsOf e 63 52 != 0 || bitsOf e 7 5 != 0 || (leaf && lvl == 0) || (!leaf && lvl == 3) ||
    (e - e % 256) % 2 ^ 52 % (if leaf then 2 ^ size else next) != 0

/-- Walk the tables from one level on: the page and what every entry of the walk permits (R149 to R151). -/
def walk (s : State) (org va : Nat) : List (Nat × Nat × Nat × Nat) → Nat → Nat → Nat → Except AFault TlbEnt
  | [], _, _, lvl => .error (.trap 5 (xlateInfo va lvl 5))
  | (lo, width, size, next) :: rest, table, perm, lvl =>
    match s.readPhys org (table + 8 * (va / 2 ^ lo % 2 ^ width)) 8 va with
    | .error f => .error f
    | .ok bs =>
      let e := numLE bs
      if !bitN e 0 then .error (.trap 5 (xlateInfo va lvl 1))
      else if entryBad e lvl size next then .error (.trap 5 (xlateInfo va lvl 5))
      else
        let addr := (e - e % 256) % 2 ^ 52
        let perm := perm &&& e
        if bitN e 1 then
          .ok { parked := false, vpage := va / 2 ^ size, bits := size, ppage := addr, perm := perm, lvl := lvl }
        else walk s org va rest addr perm (lvl + 1)

/-- Judge an access to a page by its permissions (R151, R152), and give the physical address. -/
def judgePage (t : TlbEnt) (va need : Nat) : Except AFault Nat :=
  if need &&& permX != 0 && t.perm &&& permX == 0 then .error (.trap 5 (xlateInfo va t.lvl 4))
  else if need &&& permR != 0 && t.perm &&& permR == 0 then .error (.trap 5 (xlateInfo va t.lvl 2))
  else if need &&& permW != 0 && t.perm &&& permW == 0 then .error (.trap 5 (xlateInfo va t.lvl 3))
  else .ok (t.ppage + va % 2 ^ t.bits)

/-- A core's TLB entry for an address of the running instance (R153). -/
def Core.tlbHit (k : Core) (va : Nat) : Option TlbEnt :=
  k.tlb.find? (fun t => !t.parked && t.vpage == va / 2 ^ t.bits)

/-- Translate an address under a root for an access from a partition, without a TLB: a page or a fault. -/
def State.walkRoot (s : State) (org root va : Nat) : Except AFault TlbEnt :=
  if 2 ^ 52 ≤ va then .error (.trap 5 (xlateInfo va 0 6)) else walk s org va levels root 0x1c 0

/-- Walk the tables of the launch that runs on a core. -/
def State.walkCore (s : State) (c : CoreId) (va : Nat) : Except AFault TlbEnt :=
  s.walkRoot (s.partOf c) (s.recOf c).ptroot.toNat va

/-- The page of an address for the running instance of a core: an old TLB entry or a new walk, either of which R155
allows where they differ. -/
def State.pageOf (s : State) (c : CoreId) (va : Nat) : Except AFault TlbEnt :=
  if 2 ^ 52 ≤ va then .error (.trap 5 (xlateInfo va 0 6))
  else
    match (s.coreAt c).tlbHit va with
    | some t => if Config.choice (s.freeCtr * 2 ^ 64 + va) then .ok t else s.walkCore c va
    | none => s.walkCore c va

/-- The physical address of a user access, checked (R24, R151, R323). -/
def State.xlateUser (s : State) (c : CoreId) (va len need : Nat) : Except AFault Nat :=
  match s.pageOf c va with
  | .error f => .error f
  | .ok t =>
    match judgePage t va need with
    | .error f => .error f
    | .ok pa =>
      if devBase ≤ pa then .error (.freeze 6 pa)
      else if s.populated (s.partOf c) pa len then .ok pa else .error (.freeze 6 pa)

/-- The physical address of an access of an engine: untranslated at supervisor privilege, where device registers
are reachable (R266, R474). -/
def State.xlate (s : State) (c : CoreId) (sup : Bool) (va len need : Nat) : Except AFault Nat :=
  if sup then
    if 2 ^ 52 ≤ va then .error (.freeze 6 va)
    else if devBase ≤ va || s.populated (s.partOf c) va len then .ok va else .error (.freeze 6 va)
  else s.xlateUser c va len need

/-- Keep the page of an address in the TLB, newest first, 1,024 entries in all (R153). -/
def State.tlbFill (s : State) (c : CoreId) (sup : Bool) (va : Nat) : State :=
  if sup then s
  else
    match s.walkCore c va with
    | .error _ => s
    | .ok t =>
      match (s.coreAt c).tlbHit va with
      | some _ => s
      | none => s.updCore c (fun k => { k with tlb := (t :: k.tlb).take 1024 })

/-- The physical place of an S offset for an engine: its window, or all of S and the park area at supervisor
privilege (R89, R111). -/
def State.sLoc (s : State) (c : CoreId) (sup : Bool) (off len : Nat) : Except AFault Loc :=
  if sup then
    if off + len ≤ 0x200000 then .ok (.s c off)
    else if 0x200000 ≤ off && off + len ≤ 0x248000 then .ok (.park c (off - 0x200000))
    else .error (.freeze 7 off)
  else
    let w := (s.coreAt c).winS (s.fgAt c)
    if off + len ≤ w.2 then .ok (.s c (w.1 + off)) else .error (.freeze 7 off)

/-! ### Reading and writing a place (R88, R276, R391) -/

/-- The line of a place (R391). -/
def Loc.line : Loc → Loc
  | .g a => .g (a / 64 * 64)
  | .s c o => .s c (o / 64 * 64)
  | .park c o => .park c (o / 64 * 64)
  | .x c o => .x c (o / 64 * 64)

/-- The bytes at a place, main memory and S. -/
def State.readLoc (s : State) (l : Loc) (len : Nat) : List Byte :=
  match l with
  | .g a => s.mem.readBytes a len
  | .s c o => (s.coreAt c).bufS.readBytes blkS o len
  | .park c o => (s.coreAt c).park.readBytes blkS o len
  | .x c o => (s.coreAt c).bufX.readBytes blkS o len

/-- The place holds an uncorrectable word that a read of it meets (R276). -/
def State.badRead (s : State) (l : Loc) (len : Nat) : Bool :=
  match l with
  | .g a => poisoned s.poison 32 a len
  | .s c o => poisoned ((s.coreAt c).bufS.bad blkS) 8 o len
  | .park c o => poisoned ((s.coreAt c).park.bad blkS) 8 o len
  | .x c o => poisoned ((s.coreAt c).bufX.bad blkS) 8 o len

/-- The place holds an uncorrectable word that a write does not cover whole (R276). -/
def State.badWrite (s : State) (l : Loc) (len : Nat) : Bool :=
  match l with
  | .g a => poisonedWrite s.poison 32 a len
  | .s c o => poisonedWrite ((s.coreAt c).bufS.bad blkS) 8 o len
  | .park c o => poisonedWrite ((s.coreAt c).park.bad blkS) 8 o len
  | .x c o => poisonedWrite ((s.coreAt c).bufX.bad blkS) 8 o len

/-- Break the links of the lines that a write touches (R391). -/
def State.breakLinks (s : State) (l : Loc) : State :=
  { s with links := s.links.filter (fun k => k.line != l.line) }

/-- Write bytes at a place of main memory or S; every link on the line breaks. -/
def State.writeLoc (s : State) (l : Loc) (bs : List Byte) : State :=
  let s := s.breakLinks l
  match l with
  | .g a => { s with mem := s.mem.writeBytes a bs, poison := unpoison s.poison 32 a bs.length }
  | .s c o => s.updCore c (fun k => { k with bufS := k.bufS.writeBytes blkS o bs })
  | .park c o => s.updCore c (fun k => { k with park := k.park.writeBytes blkS o bs })
  | .x c o => s.updCore c (fun k => { k with bufX := k.bufX.writeBytes blkS o bs })

/-- Write a long range of main memory, line by line for the links. -/
def State.writePhys (s : State) (pa : Nat) (bs : List Byte) : State :=
  { s with
    mem := s.mem.writeBytes pa bs, poison := unpoison s.poison 32 pa bs.length,
    links := s.links.filter (fun k =>
      match k.line with | .g a => !overlaps a 64 pa bs.length | _ => true) }

/-- Write a long range of S of a core. -/
def State.writeS (s : State) (c : CoreId) (off : Nat) (bs : List Byte) : State :=
  let s := { s with links := s.links.filter (fun k =>
      match k.line with | .s d a => d != c || !overlaps a 64 off bs.length | _ => true) }
  s.updCore c (fun k => { k with bufS := k.bufS.writeBytes blkS off bs })

/-- Read a range of the S window of an instance, for a parameter block. -/
def State.readBlock (s : State) (c : CoreId) (sup : Bool) (off len : Nat) : Except AFault (List Byte) :=
  match s.sLoc c sup off len with
  | .error f => .error f
  | .ok l => if s.badRead l len then .error (.trap 0x0c (poisonInfo off 1)) else .ok (s.readLoc l len)

/-- Deliver what an access met to an engine: the trap at an address, or the freeze. -/
def State.deliver (s : State) (c : CoreId) (e : EngId) (f : AFault) : State :=
  match f with
  | .trap code info =>
    s.raiseTrap c e { code := code, info := info, epc := (s.engAt c e).pc, src := 0, conv := false,
                      seq := (s.engAt c e).seq, acc := none, fired := firedOf (s.engAt c e).skip code info, elem := none }
  | .freeze code addr => s.freezeEng c e code addr

/-! ### The parked instance (R177) -/

/-- The running and the parked instance of a core change places, with their translations, links and the register file's owner. -/
def State.swapInst (s : State) (c : CoreId) : State :=
  { s.updCore c (fun k =>
      { k with
        inst := k.parked, parked := k.inst, tlb := k.tlb.map (fun t => { t with parked := !t.parked }),
        owner := match k.owner with | .running => .parked | .parked => .running | .nobody => .nobody }) with
    links := s.links.map (fun x => if x.core == c then { x with parkedInst := !x.parkedInst } else x) }

/-- What an access of a core's parked instance does, as it does for a running one (R177). -/
def State.asParked (s : State) (c : CoreId) (f : State → State) : State :=
  if (s.coreAt c).parked.live then (f (s.swapInst c)).swapInst c else s

/-! ### Finishing an instruction (R304) -/

/-- The next instruction of the executing engine issues no earlier than the stall count says (R304). Issue takes no time by
itself: the ck pass between steps (log 3). -/
def State.count (s : State) (stl : Stl) : State := s.updMe (fun g => { g with cyc := s.clk + 1 + stl.toNat })

/-- The executing engine completes an instruction of `bytes` bytes: its program order advances, its stall count and its results
of fixed latency (register, latency) are noted, and the pc moves past it (R304). -/
def State.finish (s : State) (bytes : Nat) (stl : Stl) (outs : List (Nat × Nat)) : State :=
  s.updMe (fun g =>
    { g with
      pc := g.pc + wordN bytes, seq := g.seq + 8, cyc := s.clk + 1 + stl.toNat, skip := 0,
      lat := (outs.map (fun o => ({ reg := o.1, ready := s.clk + 1 + o.2, at_ := s.clk, stl := stl.toNat } : Lat)))
        ++ g.lat.filter (fun l => s.clk + 1 < l.ready && !outs.any (fun o => o.1 == l.reg)) })

/-- As `finish`, and the pc goes to a target. -/
def State.finishAt (s : State) (target : Word) (stl : Stl) : State :=
  ((s.finish 4 stl []).updMe (fun g => { g with pc := target }))

/-- Complete a one-word instruction that writes a scalar register with a latency of `lam` (R304). -/
def State.writeReg (s : State) (rd : SReg) (v : Word) (lam : Nat) (stl : Stl) : Res :=
  .next ((s.updMe (fun g => g.wr rd v)).finish 4 stl (if rd == 0 then [] else [(rd.toNat, lam)]))

/-- Complete a one-word instruction that writes a predicate (latency 1, R304). -/
def State.writePred (s : State) (pd : PReg) (v : Bool) (stl : Stl) : Res :=
  .next ((s.updMe (fun g => g.wrP pd v)).finish 4 stl [(32 + pd.toNat, 1)])

/-- The executing engine waits: nothing changes, and the instruction issues again later. -/
def State.stall (s : State) : Res := .next s

end Sys2Proof.Machine
end

