-- ==== Sys2Proof/Machine/Operands.lean ====
section
/-! DEFINITION. The scalar operand forms: immediates, addresses, targets, the orderings of an atomic, and control
register fields (R302, R303). The vector forms stand in VOperands.lean. -/

namespace Sys2Proof.Machine

open Sys2Proof

/-- imm13 sign-extended to 64 bits (R302). -/
def imm13 (i : BitVec 13) : Word := i.signExtend 64

/-- imm18 sign-extended (R327). -/
def imm18 (i : BitVec 18) : Word := i.signExtend 64

/-- A signed count of words, relative to the address of the instruction that holds it (R302). -/
def branchTarget {n : Nat} (pc : Word) (off : BitVec n) : Word := pc + off.signExtend 64 * 4

/-- The bytes of a width code (R302). -/
def widthBytes (w : BitVec 2) : Nat := 2 ^ w.toNat

/-- The address of the M form: the base and imm6 times the width (R302, R329). -/
def memAddr (base : Word) (f : MemF) : Word := base + f.imm.signExtend 64 * wordN (widthBytes f.width)

/-- The space of an access: S with sp, else G (R329). -/
def spaceOf (sp : Bool) : Space := if sp then .s else .g

/-- The ord field of an atomic carries aq (R303). -/
def ordAq (o : BitVec 4) : Bool := (1 ≤ o.toNat && o.toNat ≤ 5) || 11 ≤ o.toNat

/-- The ord field of an atomic carries rl (R303). -/
def ordRl (o : BitVec 4) : Bool := 6 ≤ o.toNat

/-- The shift amount of a register or immediate: its low six bits (R324). -/
def shamt (b : Word) : Nat := b.toNat % 64

/-- Bit-field replacement: bits [hi:lo] of `w` become the low bits of `v`. -/
def putField (w : Word) (hi lo v : Nat) : Word :=
  let m := (2 ^ (hi + 1 - lo) - 1) <<< lo
  (w &&& ~~~ wordN m) ||| wordN ((v <<< lo) &&& m)

end Sys2Proof.Machine
end

