-- ==== Sys2Proof/Machine/Flags.lean ====
section
/-! DEFINITION. Conditions, predicate results and sticky flags (R200, R328, R369, R398). -/

namespace Sys2Proof.Machine

open Sys2Proof

/-- VFLAGS bits (R200). -/
def flNV : Nat := 1
/-- Division by zero. -/
def flDZ : Nat := 2
/-- Overflow. -/
def flOF : Nat := 4
/-- Underflow. -/
def flUF : Nat := 8
/-- Inexact. -/
def flNX : Nat := 16
/-- Saturation. -/
def flSAT : Nat := 32
/-- A reduced sine or cosine operand. -/
def flRANGE : Nat := 64

/-- The scalar conditions, in the order eq, ne, lt, ge, ltn, gen (R328). -/
inductive Cond where
  | eq
  | ne
  | lt
  | ge
  | ltn
  | gen
  deriving DecidableEq, Repr

/-- A condition on two registers: `lt` and `ge` signed, `ltn` and `gen` unsigned (R328). -/
def Cond.holds (c : Cond) (a b : Word) : Bool :=
  match c with
  | .eq => a == b
  | .ne => a != b
  | .lt => a.slt b
  | .ge => !a.slt b
  | .ltn => a.ult b
  | .gen => !a.ult b

/-- The condition of a code 0 to 5 (R398). -/
def condOf (n : Nat) : Cond :=
  match n with
  | 0 => .eq
  | 1 => .ne
  | 2 => .lt
  | 3 => .ge
  | 4 => .ltn
  | _ => .gen

/-- A condition on two values of `w` bits (R398). -/
def condBits (w : Nat) (c : Cond) (a b : Nat) : Bool :=
  match c with
  | .eq => a % 2 ^ w == b % 2 ^ w
  | .ne => a % 2 ^ w != b % 2 ^ w
  | .lt => signedOf w a < signedOf w b
  | .ge => signedOf w b ≤ signedOf w a
  | .ltn => a % 2 ^ w < b % 2 ^ w
  | .gen => b % 2 ^ w ≤ a % 2 ^ w

end Sys2Proof.Machine
end

