-- ==== Sys2Proof/Machine/Scalar.lean ====
section
/-! DEFINITION. The integer, compare, predicate, select and branch instructions (R324 to R328, R332, R347). -/

namespace Sys2Proof.Machine

open Sys2Proof

/-- Read a scalar register of the executing engine. -/
def State.rg (s : State) (r : SReg) : Word := s.me.rd r

/-- An R-form result of latency 0 (R324). -/
def State.alu (s : State) (f : Word → Word → Word) (rd rs1 rs2 : SReg) (stl : Stl) : Res :=
  s.writeReg rd (f (s.rg rs1) (s.rg rs2)) 0 stl

/-- Divide, signed, towards zero; by zero all ones (R324, R325). -/
def divS (a b : Word) : Word :=
  if b == 0 then BitVec.allOnes 64 else BitVec.ofInt 64 (a.toInt.tdiv b.toInt)

/-- Divide, unsigned (R324, R325). -/
def divU (a b : Word) : Word := if b == 0 then BitVec.allOnes 64 else a / b

/-- Remainder, signed: the sign of the dividend; by zero the dividend (R324, R325). -/
def remS (a b : Word) : Word := if b == 0 then a else BitVec.ofInt 64 (a.toInt.tmod b.toInt)

/-- Remainder, unsigned (R324, R325). -/
def remU (a b : Word) : Word := if b == 0 then a else a % b

/-- The high half of the signed product (R324). -/
def mulHi (a b : Word) : Word := BitVec.ofInt 64 ((a.toInt * b.toInt) / 2 ^ 64)

/-- The high half of the unsigned product (R324). -/
def mulHiU (a b : Word) : Word := wordN (a.toNat * b.toNat / 2 ^ 64)

/-- Leading zero bits; 64 of zero (R324). -/
def clz64 (a : Word) : Nat := if a == 0 then 64 else 63 - lg a.toNat

/-- Trailing zero bits, counted up to `k`. -/
def ctzN : Nat → Nat → Nat
  | 0, _ => 0
  | k + 1, n => if n % 2 = 1 then 0 else 1 + ctzN k (n / 2)

/-- Trailing zero bits; 64 of zero (R324). -/
def ctz64 (a : Word) : Nat := ctzN 64 a.toNat

/-- ADD: (a + b) mod 2^64 (R324). -/
def execAdd (rd rs1 rs2 : SReg) (stl : Stl) (s : State) : Res := s.alu (· + ·) rd rs1 rs2 stl
/-- SUB (R324). -/
def execSub (rd rs1 rs2 : SReg) (stl : Stl) (s : State) : Res := s.alu (· - ·) rd rs1 rs2 stl
/-- MUL: latency 3 (R304, R324). -/
def execMul (rd rs1 rs2 : SReg) (stl : Stl) (s : State) : Res := s.writeReg rd (s.rg rs1 * s.rg rs2) 3 stl
/-- MULH (R324). -/
def execMulh (rd rs1 rs2 : SReg) (stl : Stl) (s : State) : Res := s.writeReg rd (mulHi (s.rg rs1) (s.rg rs2)) 3 stl
/-- MULHN (R324). -/
def execMulhn (rd rs1 rs2 : SReg) (stl : Stl) (s : State) : Res := s.writeReg rd (mulHiU (s.rg rs1) (s.rg rs2)) 3 stl
/-- DIV (R324, R325). -/
def execDiv (rd rs1 rs2 : SReg) (stl : Stl) (s : State) : Res := s.alu divS rd rs1 rs2 stl
/-- DIVN (R324, R325). -/
def execDivn (rd rs1 rs2 : SReg) (stl : Stl) (s : State) : Res := s.alu divU rd rs1 rs2 stl
/-- REM (R324, R325). -/
def execRem (rd rs1 rs2 : SReg) (stl : Stl) (s : State) : Res := s.alu remS rd rs1 rs2 stl
/-- REMN (R324, R325). -/
def execRemn (rd rs1 rs2 : SReg) (stl : Stl) (s : State) : Res := s.alu remU rd rs1 rs2 stl
/-- AND (R324). -/
def execAnd (rd rs1 rs2 : SReg) (stl : Stl) (s : State) : Res := s.alu (· &&& ·) rd rs1 rs2 stl
/-- OR (R324). -/
def execOr (rd rs1 rs2 : SReg) (stl : Stl) (s : State) : Res := s.alu (· ||| ·) rd rs1 rs2 stl
/-- XOR (R324). -/
def execXor (rd rs1 rs2 : SReg) (stl : Stl) (s : State) : Res := s.alu (· ^^^ ·) rd rs1 rs2 stl
/-- SHL: by b[5:0] (R324). -/
def execShl (rd rs1 rs2 : SReg) (stl : Stl) (s : State) : Res := s.alu (fun a b => a <<< shamt b) rd rs1 rs2 stl
/-- SHR: logical, by b[5:0] (R324). -/
def execShr (rd rs1 rs2 : SReg) (stl : Stl) (s : State) : Res := s.alu (fun a b => a >>> shamt b) rd rs1 rs2 stl
/-- SRA: arithmetic, by b[5:0] (R324). -/
def execSra (rd rs1 rs2 : SReg) (stl : Stl) (s : State) : Res := s.alu (fun a b => a.sshiftRight (shamt b)) rd rs1 rs2 stl
/-- MIN: signed (R324). -/
def execMin (rd rs1 rs2 : SReg) (stl : Stl) (s : State) : Res := s.alu (fun a b => if a.slt b then a else b) rd rs1 rs2 stl
/-- MAX: signed (R324). -/
def execMax (rd rs1 rs2 : SReg) (stl : Stl) (s : State) : Res := s.alu (fun a b => if a.slt b then b else a) rd rs1 rs2 stl
/-- MINN: unsigned (R324). -/
def execMinn (rd rs1 rs2 : SReg) (stl : Stl) (s : State) : Res := s.alu (fun a b => if a.ult b then a else b) rd rs1 rs2 stl
/-- MAXN: unsigned (R324). -/
def execMaxn (rd rs1 rs2 : SReg) (stl : Stl) (s : State) : Res := s.alu (fun a b => if a.ult b then b else a) rd rs1 rs2 stl
/-- CLZ (R324). -/
def execClz (rd rs1 : SReg) (stl : Stl) (s : State) : Res := s.writeReg rd (wordN (clz64 (s.rg rs1))) 0 stl
/-- CTZ (R324). -/
def execCtz (rd rs1 : SReg) (stl : Stl) (s : State) : Res := s.writeReg rd (wordN (ctz64 (s.rg rs1))) 0 stl
/-- POPC (R324). -/
def execPopc (rd rs1 : SReg) (stl : Stl) (s : State) : Res := s.writeReg rd (wordN (countBits 64 (s.rg rs1).toNat)) 0 stl
/-- MOV (R324). -/
def execMov (rd rs1 : SReg) (stl : Stl) (s : State) : Res := s.writeReg rd (s.rg rs1) 0 stl
/-- SEL: rs1 if the predicate is true, otherwise rs2 (R324). -/
def execSel (rd : SReg) (p : PReg) (rs1 rs2 : SReg) (stl : Stl) (s : State) : Res :=
  s.writeReg rd (if s.me.rdP p then s.rg rs1 else s.rg rs2) 0 stl

/-- A compare of two registers (R328). -/
def State.cmp (s : State) (c : Cond) (pd : PReg) (rs1 rs2 : SReg) (stl : Stl) : Res :=
  s.writePred pd (c.holds (s.rg rs1) (s.rg rs2)) stl

/-- A compare with an immediate (R328). -/
def State.cmpImm (s : State) (c : Cond) (pd : PReg) (rs1 : SReg) (imm : BitVec 13) (stl : Stl) : Res :=
  s.writePred pd (c.holds (s.rg rs1) (imm13 imm)) stl

/-- CMP_EQ (R328). -/
def execCmpEq (pd : PReg) (rs1 rs2 : SReg) (stl : Stl) (s : State) : Res := s.cmp .eq pd rs1 rs2 stl
/-- CMP_NE (R328). -/
def execCmpNe (pd : PReg) (rs1 rs2 : SReg) (stl : Stl) (s : State) : Res := s.cmp .ne pd rs1 rs2 stl
/-- CMP_LT (R328). -/
def execCmpLt (pd : PReg) (rs1 rs2 : SReg) (stl : Stl) (s : State) : Res := s.cmp .lt pd rs1 rs2 stl
/-- CMP_GE (R328). -/
def execCmpGe (pd : PReg) (rs1 rs2 : SReg) (stl : Stl) (s : State) : Res := s.cmp .ge pd rs1 rs2 stl
/-- CMP_LTN (R328). -/
def execCmpLtn (pd : PReg) (rs1 rs2 : SReg) (stl : Stl) (s : State) : Res := s.cmp .ltn pd rs1 rs2 stl
/-- CMP_GEN (R328). -/
def execCmpGen (pd : PReg) (rs1 rs2 : SReg) (stl : Stl) (s : State) : Res := s.cmp .gen pd rs1 rs2 stl
/-- PAND (R328). -/
def execPand (pd pa pb : PReg) (stl : Stl) (s : State) : Res := s.writePred pd (s.me.rdP pa && s.me.rdP pb) stl
/-- POR (R328). -/
def execPor (pd pa pb : PReg) (stl : Stl) (s : State) : Res := s.writePred pd (s.me.rdP pa || s.me.rdP pb) stl
/-- PNOT (R328). -/
def execPnot (pd pa : PReg) (stl : Stl) (s : State) : Res := s.writePred pd (!s.me.rdP pa) stl

/-- ADDI (R326). -/
def execAddi (rd rs1 : SReg) (imm : BitVec 13) (stl : Stl) (s : State) : Res := s.writeReg rd (s.rg rs1 + imm13 imm) 0 stl
/-- ANDI (R326). -/
def execAndi (rd rs1 : SReg) (imm : BitVec 13) (stl : Stl) (s : State) : Res := s.writeReg rd (s.rg rs1 &&& imm13 imm) 0 stl
/-- ORI (R326). -/
def execOri (rd rs1 : SReg) (imm : BitVec 13) (stl : Stl) (s : State) : Res := s.writeReg rd (s.rg rs1 ||| imm13 imm) 0 stl
/-- XORI (R326). -/
def execXori (rd rs1 : SReg) (imm : BitVec 13) (stl : Stl) (s : State) : Res := s.writeReg rd (s.rg rs1 ^^^ imm13 imm) 0 stl
/-- SHLI (R326). -/
def execShli (rd rs1 : SReg) (imm : BitVec 13) (stl : Stl) (s : State) : Res := s.writeReg rd (s.rg rs1 <<< shamt (imm13 imm)) 0 stl
/-- SHRI (R326). -/
def execShri (rd rs1 : SReg) (imm : BitVec 13) (stl : Stl) (s : State) : Res := s.writeReg rd (s.rg rs1 >>> shamt (imm13 imm)) 0 stl
/-- SRAI (R326). -/
def execSrai (rd rs1 : SReg) (imm : BitVec 13) (stl : Stl) (s : State) : Res := s.writeReg rd ((s.rg rs1).sshiftRight (shamt (imm13 imm))) 0 stl
/-- LI (R327). -/
def execLi (rd : SReg) (imm : BitVec 18) (stl : Stl) (s : State) : Res := s.writeReg rd (imm18 imm) 0 stl
/-- LIH: bits 16q + 15 to 16q become imm16 (R327). -/
def execLih (rd : SReg) (q : BitVec 2) (imm : BitVec 16) (stl : Stl) (s : State) : Res :=
  s.writeReg rd (putField (s.rg rd) (16 * q.toNat + 15) (16 * q.toNat) imm.toNat) 0 stl
/-- CMPI_EQ (R328). -/
def execCmpiEq (pd : PReg) (rs1 : SReg) (imm : BitVec 13) (stl : Stl) (s : State) : Res := s.cmpImm .eq pd rs1 imm stl
/-- CMPI_NE (R328). -/
def execCmpiNe (pd : PReg) (rs1 : SReg) (imm : BitVec 13) (stl : Stl) (s : State) : Res := s.cmpImm .ne pd rs1 imm stl
/-- CMPI_LT (R328). -/
def execCmpiLt (pd : PReg) (rs1 : SReg) (imm : BitVec 13) (stl : Stl) (s : State) : Res := s.cmpImm .lt pd rs1 imm stl
/-- CMPI_GE (R328). -/
def execCmpiGe (pd : PReg) (rs1 : SReg) (imm : BitVec 13) (stl : Stl) (s : State) : Res := s.cmpImm .ge pd rs1 imm stl
/-- CMPI_LTN (R328). -/
def execCmpiLtn (pd : PReg) (rs1 : SReg) (imm : BitVec 13) (stl : Stl) (s : State) : Res := s.cmpImm .ltn pd rs1 imm stl
/-- CMPI_GEN (R328). -/
def execCmpiGen (pd : PReg) (rs1 : SReg) (imm : BitVec 13) (stl : Stl) (s : State) : Res := s.cmpImm .gen pd rs1 imm stl

/-- The link register lr is s31 (R288). -/
def lrReg : SReg := 31

/-- Jump to a register's value: a target that is no multiple of 4 raises ECODE 0x04 and does not branch (R332). -/
def State.jumpReg (s : State) (t : Word) (stl : Stl) : Res :=
  if t.toNat % 4 != 0 then .next (s.trapMe 0x04 (misInfo t.toNat 4)) else .next (s.finishAt t stl)

/-- BR (R332). -/
def execBr (off : BitVec 23) (stl : Stl) (s : State) : Res := .next (s.finishAt (branchTarget s.me.pc off) stl)
/-- CALL: lr := pc + 4 (R332). -/
def execCall (off : BitVec 23) (stl : Stl) (s : State) : Res :=
  .next ((s.updMe (fun g => g.wr lrReg (g.pc + 4))).finishAt (branchTarget s.me.pc off) stl)
/-- BP: branch when the predicate is true (R332). -/
def execBp (p : PReg) (off : BitVec 18) (stl : Stl) (s : State) : Res :=
  if s.me.rdP p then .next (s.finishAt (branchTarget s.me.pc off) stl) else .next (s.finish 4 stl [])
/-- JR (R332). -/
def execJr (rs1 : SReg) (stl : Stl) (s : State) : Res := s.jumpReg (s.rg rs1) stl
/-- RET: pc := lr (R332). -/
def execRet (stl : Stl) (s : State) : Res := s.jumpReg (s.rg lrReg) stl
/-- NOP: no effect but its stall count (R347). -/
def execNop (stl : Stl) (s : State) : Res := .next (s.finish 4 stl [])

end Sys2Proof.Machine
end

