-- ==== Sys2Proof/Machine/ScalarMem.lean ====
section
/-! DEFINITION. Scalar loads, stores and atomics: the issue of an access, which then waits in its class queue until
the order machine performs it (R157, R329 to R331). -/

namespace Sys2Proof.Machine

open Sys2Proof

/-- An access enters the class queues of the executing engine. -/
def State.pendAcc (s : State) (a : Acc) : State := s.updMe (fun g => { g with accs := g.accs ++ [a] })

/-- An access of the executing engine at an address. -/
def State.mkAcc (s : State) (k : AccKind) (cls : BitVec 4) (sp : Bool) (addr : Word) (bytes : Nat) (data : Nat) : Acc :=
  { seq := s.me.seq, kind := k, cls := cls.toNat, aq := false, rl := false, sp := spaceOf sp, addr := addr.toNat,
    bytes := bytes, data := data, cmp := 0, pc := s.me.pc, sup := s.sup, loc := none, vec := false, skip := s.me.skip, faulted := false,
    gone := false, elem := 0, of_ := 1 }

/-- A misaligned scalar access raises ECODE 0x04 at issue (R124, R330); otherwise the access waits, its destination
is held, and the instruction completes. -/
def State.issueAcc (s : State) (a : Acc) (rd : SReg) (holds : Bool) (stl : Stl) : Res :=
  if a.addr % a.bytes != 0 then .next (s.trapMe 0x04 (misInfo a.addr a.bytes))
  else .next (((s.pendAcc a).updMe (fun g => if holds then g.setPend rd true else g)).finish 4 stl [])

/-- LD (R329). -/
def execLd (f : MemF) (stl : Stl) (s : State) : Res :=
  s.issueAcc (s.mkAcc (.load f.r true) f.cls f.sp (memAddr (s.rg f.base) f) (widthBytes f.width) 0) f.r true stl
/-- LDN (R329). -/
def execLdn (f : MemF) (stl : Stl) (s : State) : Res :=
  s.issueAcc (s.mkAcc (.load f.r false) f.cls f.sp (memAddr (s.rg f.base) f) (widthBytes f.width) 0) f.r true stl
/-- ST: the low width bytes of the data register (R329). -/
def execSt (f : MemF) (stl : Stl) (s : State) : Res :=
  s.issueAcc (s.mkAcc .store f.cls f.sp (memAddr (s.rg f.base) f) (widthBytes f.width)
    ((s.rg f.r).toNat % 2 ^ (8 * widthBytes f.width))) 0 false stl

/-- A scalar atomic (R331): rd and rs2 name s0 to s7, rd holds the comparand on entry (R303). -/
def State.amo (s : State) (op : Nat) (f : AmoF) (stl : Stl) : Res :=
  let rd : SReg := f.rd.zeroExtend 5
  let a := s.mkAcc (.amo op rd) f.cls f.sp (s.rg f.base) (widthBytes f.width) (s.rg (f.rs2.zeroExtend 5)).toNat
  s.issueAcc { a with aq := ordAq f.ord, rl := ordRl f.ord, cmp := (s.rg rd).toNat } rd true stl

/-- AMO_ADD (R331). -/
def execAmoAdd (f : AmoF) (stl : Stl) (s : State) : Res := s.amo 0 f stl
/-- AMO_MIN (R331). -/
def execAmoMin (f : AmoF) (stl : Stl) (s : State) : Res := s.amo 1 f stl
/-- AMO_MAX (R331). -/
def execAmoMax (f : AmoF) (stl : Stl) (s : State) : Res := s.amo 2 f stl
/-- AMO_SWAP (R331). -/
def execAmoSwap (f : AmoF) (stl : Stl) (s : State) : Res := s.amo 3 f stl
/-- AMO_CAS (R331). -/
def execAmoCas (f : AmoF) (stl : Stl) (s : State) : Res := s.amo 4 f stl
/-- AMO_AND (R331). -/
def execAmoAnd (f : AmoF) (stl : Stl) (s : State) : Res := s.amo 5 f stl
/-- AMO_OR (R331). -/
def execAmoOr (f : AmoF) (stl : Stl) (s : State) : Res := s.amo 6 f stl

/-- What an integer atomic writes, from the old value, the operand and the comparand, in `bytes` bytes (R331). -/
def amoNew (op bytes old n cmp : Nat) : Nat :=
  let m := 2 ^ (8 * bytes)
  let n := n % m
  match op with
  | 0 => (old + n) % m
  | 1 => if signedOf (8 * bytes) old ≤ signedOf (8 * bytes) n then old else n
  | 2 => if signedOf (8 * bytes) old ≤ signedOf (8 * bytes) n then n else old
  | 3 => n
  | 4 => if old == cmp % m then n else old
  | 5 => old &&& n
  | _ => old ||| n

end Sys2Proof.Machine
end

