-- ==== Sys2Proof/Machine/Sync.lean ====
section
/-! DEFINITION. Barriers, fences, threads and identity (R90 to R93, R165, R172, R173, R334 to R341, R346). -/

namespace Sys2Proof.Machine

open Sys2Proof

/-- A task is open on an engine (R253). -/
def Eng.taskOpen (g : Eng) : Bool := g.task.isSome

/-- An inverse handler runs on an engine (R256, R260). -/
def Eng.inHandler (g : Eng) : Bool :=
  match g.task with
  | some t => (match t.abort with | some a => a.at_ == .inHandler | none => false)
  | none => false

/-- The engine executes inside an open task; a handler runs outside it (R255, R260). -/
def Eng.inTask (g : Eng) : Bool := g.taskOpen && !g.inHandler

/-- An engine that waited goes on past its instruction, and issues its next in a later ck than `clk` (R173). -/
def Eng.wake (g : Eng) (clk : Nat) : Eng :=
  { g with wait := .none, pc := g.pc + 4, seq := g.seq + 8, cyc := Nat.max g.cyc (clk + 1) }

/-- The status that `bar.twait` returns when its phase completes in ck c, of a limit that expires in ck e (R173). -/
def twaitStatus (c e : Nat) : Nat := if c < e then 0 else if c = e then 2 else 1

/-- Write an ordinary register while a user-level handler has its shadows in place. -/
def Eng.wrPlain (g : Eng) (r : SReg) (v : Word) : Eng :=
  let u := g.tr.uirq
  let g := ({ g with tr := { g.tr with uirq := false } }).wr r v
  { g with tr := { g.tr with uirq := u } }

/-- The instruction at a place in program order was issued in a user-level handler (R148). -/
def Eng.inUi (g : Eng) (seq : Nat) : Bool :=
  (g.tr.uirq && decide (g.uiseq ≤ seq)) || g.uispans.any (fun x => x.1 ≤ seq && seq < x.2)

/-- The register that an instruction at a place in program order names is not the one in place now: it is an ordinary one while a
handler runs, or a shadow outside. -/
def Eng.below (g : Eng) (seq : Nat) (r : SReg) : Bool := 24 ≤ r.toNat && r.toNat ≤ 29 && g.inUi seq != g.tr.uirq

/-- Write a register that is not in place: the ordinary one under a shadow, or the shadow. -/
def Eng.wrOther (g : Eng) (r : SReg) (v : Word) : Eng :=
  let u := g.tr.uirq
  let g := ({ g with tr := { g.tr with uirq := !u } }).wr r v
  { g with tr := { g.tr with uirq := u } }

/-- A register is held no longer for the instruction at a place in program order. -/
def Eng.unhold (g : Eng) (seq : Nat) (r : SReg) : Eng :=
  if g.below seq r then { g with uipend := g.uipend &&& ~~~ BitVec.ofNat 6 (2 ^ (r.toNat - 24)) } else g.setPend r false

/-- A register is held again for the instruction at a place in program order. -/
def Eng.rehold (g : Eng) (seq : Nat) (r : SReg) : Eng :=
  if g.below seq r then { g with uipend := g.uipend ||| BitVec.ofNat 6 (2 ^ (r.toNat - 24)) } else g.setPend r true

/-- The result of an instruction at a place in program order lands in the register that the instruction named (R148). -/
def Eng.landAt (g : Eng) (seq : Nat) (r : SReg) (v : Word) : Eng :=
  (if g.below seq r then g.wrOther r v else g.wr r v).unhold seq r

/-- Barrier `b`'s phase completes for one engine: a wait on it ends (R173, R335), also one that a user-level handler
interrupted (R147). `parked`: the event happened while the instance was parked, which counts as before e (R110). -/
def Eng.phaseDone (g : Eng) (b : BitVec 6) (clk : Nat) (parked : Bool) : Eng :=
  let st (e : Nat) : Word := wordN (if parked then 0 else twaitStatus clk e)
  let g := match g.wait with
    | .bar x => if x == b then g.wake clk else g
    | .twait x rd e => if x == b then (g.wr rd (st e)).wake clk else g
    | _ => g
  match g.uiWait with
  | .bar x => if x == b then { g with uiWait := .woken } else g
  | .twait x rd e => if x == b then { (g.wrPlain rd (st e)) with uiWait := .woken } else g
  | _ => g

/-- The end of a ck at a barrier (R334, R336): the ck's arrivals are counted, up to 65,535 where the barrier is uninitialised, and
a phase completes if the count of an initialised one has then reached the expected count, at most one in a ck: the phase bit
inverts and the count falls. -/
def Barrier.close (x : Barrier) (clk : Nat) : Barrier :=
  let n := x.cnt + x.arr
  let x : Barrier := { x with cnt := if x.init then n else Nat.min n 65535, arr := 0, shut := some clk }
  if x.init && x.exp ≤ x.cnt && x.doneAt != some clk then { x with phase := !x.phase, cnt := x.cnt - x.exp, doneAt := some clk } else x

/-- The ck cannot end yet at a barrier: arrivals of it are to be counted, or a phase is to complete (R336). -/
def Barrier.due (x : Barrier) (clk : Nat) : Bool := 0 < x.arr || (x.init && x.exp ≤ x.cnt && x.doneAt != some clk)

/-- The end of a ck at barrier `b` of an instance; if a phase completes, waiters wake (R335, R336). -/
def Inst.settle (n : Inst) (b : BitVec 6) (clk : Nat) (parked : Bool) : Inst :=
  let x := n.bars[b.toNat]'(b.isLt)
  if !x.due clk then n
  else
    let y := x.close clk
    { n with
      bars := n.bars.set b.toNat y b.isLt,
      engs := if y.phase != x.phase then n.engs.map (fun g => g.phaseDone b clk parked) else n.engs }

/-- One arrival at a barrier, in the ck that runs (R336). -/
def Inst.arrive (n : Inst) (b : BitVec 6) : Inst :=
  let x := n.bars[b.toNat]'(b.isLt)
  { n with bars := n.bars.set b.toNat { x with arr := x.arr + 1 } b.isLt }

/-- One arrival at a barrier of the instance of a launch on a core: running, parked, or placed and not yet started (R82, R107,
R335). -/
def State.arriveAt (s : State) (launch : Nat) (c : CoreId) (b : BitVec 6) : State :=
  let k := s.coreAt c
  if k.inst.live && k.inst.launch == launch then s.updCore c (fun k => { k with inst := k.inst.arrive b })
  else if k.parked.live && k.parked.launch == launch then s.updCore c (fun k => { k with parked := k.parked.arrive b })
  else if k.next == some launch then s.updCore c (fun k => { k with early := b :: k.early })
  else s

/-- What `bar.init` refuses at issue (R335). -/
def barInitBad (x : Barrier) (v : Word) (scope : BitVec 2) (lx ly w h : Nat) : Bool :=
  let gw := fieldW v 23 16
  let gh := fieldW v 31 24
  fieldW v 15 0 == 0 || fieldW v 63 32 != 0 ||
    (if scope == 2 then
      gw == 0 || gh == 0 || w < lx / gw * gw + gw || h < ly / gh * gh + gh
    else fieldW v 31 16 != 0) || (x.init && x.cnt != 0)

/-- BAR_INIT (R335, R336): it acts before the arrivals of its ck are counted, so it issues no later than that. -/
def execBarInit (b : BitVec 6) (rs1 : SReg) (scope : BitVec 2) (stl : Stl) (s : State) : Res :=
  let v := s.rg rs1
  let n := s.instAt s.core
  let r := s.recOf s.core
  let x := n.bars[b.toNat]'(b.isLt)
  if x.shut == some s.clk then s.stall
  else if barInitBad x v scope n.lx n.ly r.w r.h then s.illegal (.barInit b rs1 scope stl)
  else
    let y : Barrier :=
      { x with init := true, exp := fieldW v 15 0, scope := scope.toNat,
               gw := if scope == 2 then fieldW v 23 16 else 0, gh := if scope == 2 then fieldW v 31 24 else 0 }
    .next ((s.updInst s.core (fun n => { n with bars := n.bars.set b.toNat y b.isLt })).finish 4 stl [])

/-- BAR_ARRIVE: at once when relaxed; a release waits behind every earlier access (R172, R335). -/
def execBarArrive (b : BitVec 6) (rs1 : SReg) (mode : BitVec 2) (stl : Stl) (s : State) : Res :=
  let v := (s.rg rs1).toNat
  let l := s.launchOf s.core
  if l.rec_.w * l.rec_.h ≤ v then s.illegal (.barArrive b rs1 mode stl)
  else
    let c := l.coreOf v
    let release := if c == s.core then mode != 2 else mode == 1
    if release && !(s.me.accs.isEmpty && s.me.v.vq.isEmpty) then
      let a := { s.mkAcc (.arrive c b) 0 false 0 1 0 with rl := true }
      .next ((s.pendAcc a).finish 4 stl [])
    else .next ((s.arriveAt l.id c b).finish 4 stl [])

/-- A phase of a barrier of the executing engine's core has completed in the ck that runs: a wait for the phase that stood at its
start is over (R335, R337). -/
def State.phaseOver (s : State) (b : BitVec 6) : Bool := ((s.instAt s.core).bars[b.toNat]'(b.isLt)).doneAt == some s.clk

/-- BAR_WAIT: the engine waits until the phase that stood at the start of this ck completes (R335, R337); not inside a task
(R255). -/
def execBarWait (b : BitVec 6) (stl : Stl) (s : State) : Res :=
  if s.me.inTask then s.illegal (.barWait b stl)
  else if s.phaseOver b then .next (s.finish 4 stl [])
  else .next ((s.updMe (fun g => { g with wait := .bar b })).count stl)

/-- BAR_TWAIT: as `bar.wait`, with a limit of rs1[31:0] ck from issue (R335). -/
def execBarTwait (rd : SReg) (b : BitVec 6) (rs1 : SReg) (stl : Stl) (s : State) : Res :=
  let e := s.clk + fieldW (s.rg rs1) 31 0
  if s.me.inTask then s.illegal (.barTwait rd b rs1 stl)
  else if s.phaseOver b then .next ((s.updMe (fun g => g.wr rd (wordN (twaitStatus s.clk e)))).finish 4 stl [])
  else .next ((s.updMe (fun g => { g with wait := .twait b rd e })).count stl)

/-- The word that `bar.test` writes (R335). -/
def barWord (x : Barrier) : Word :=
  wordN ((if x.init then 2 ^ 63 else 0) + x.exp % 65536 * 2 ^ 32 + x.cnt % 65536 * 2 ^ 16 + (if x.phase then 1 else 0))

/-- BAR_TEST (R335). -/
def execBarTest (rd : SReg) (b : BitVec 6) (stl : Stl) (s : State) : Res :=
  s.writeReg rd (barWord ((s.instAt s.core).bars[b.toNat]'(b.isLt))) 0 stl

/-- FENCE: completes at issue; later accesses of masked classes wait for earlier ones (R165, R338). -/
def execFence (scope : BitVec 3) (mask : BitVec 16) (stl : Stl) (s : State) : Res :=
  let _ := scope
  .next ((s.updMe (fun g => { g with fences := g.fences ++ [(g.seq, mask)] })).finish 4 stl [])

/-- A thread as `fork` starts it: registers zero, predicates false, s1 to s3 set; vector and control registers keep
their values (R91). -/
def Eng.start (g : Eng) (pc param lidx arg : Word) : Eng :=
  { g with
    regs := (((Vector.replicate 32 (0 : Word)).set 1 param).set 2 lidx).set 3 arg, preds := 0, pc := pc, running := true,
    frozen := false, wait := .none, pend := 0, lat := [], cyc := 0, stats := [], skip := 0 }

/-- FORK: Caller only; not of a running thread, nor of threads 1 to 3 in a DET launch (R91, R309). -/
def execFork (t : BitVec 2) (rs : SReg) (off : BitVec 16) (stl : Stl) (s : State) : Res :=
  let e : EngId := Fin.ofNat 5 t.toNat
  let r := s.recOf s.core
  if !s.isCaller || (s.engAt s.core e).running || (t != 0 && r.det) then s.illegal (.fork t rs off stl)
  else
    .next ((s.updEng s.core e (fun g =>
      g.start (branchTarget s.me.pc off) r.param (wordN (s.lidx s.core)) (s.rg rs))).finish 4 stl [])

/-- The threads of a mask that run. -/
def Inst.runningIn (n : Inst) (mask : BitVec 4) : Bool :=
  (List.range 4).any (fun t => mask.getLsbD t && (n.engs[t % 5]'(Nat.mod_lt _ (by decide))).running)

/-- RENDEZ: completes when no thread of the mask runs (R92, R339); not inside a task (R255). -/
def execRendez (mask : BitVec 4) (stl : Stl) (s : State) : Res :=
  if !s.isCaller || s.me.inTask then s.illegal (.rendez mask stl)
  else if (s.instAt s.core).runningIn mask then s.stall
  else .next (s.finish 4 stl [])

/-- HALT: ends a thread once its queue has retired and its accesses have performed (R92); makes the Caller wait for
the end of its instance (R93); in a handler ends the launch (R271). -/
def execHalt (stl : Stl) (s : State) : Res :=
  let g := s.me
  if g.tr.priv && g.tr.trap then
    .next (s.fatal (s.instAt s.core).launch 1 g.tr.ecode (s.lidx s.core) s.eng.val)
  else if g.inTask || g.tr.uirq then s.illegal (.halt stl)
  else if s.isCaller then .next ((s.updMe (fun g => { g with wait := .halting })).count stl)
  else if !(g.v.vq.isEmpty && g.accs.isEmpty) then s.stall
  else .next ((s.updMe (fun g => { g with running := false, fences := [] })).count stl)

/-- The value of an `ident` selector (R90). -/
def identValue (s : State) (sel : Nat) : Nat :=
  let n := s.instAt s.core
  let r := s.recOf s.core
  match sel with
  | 0 => s.lidx s.core
  | 1 => n.lx
  | 2 => n.ly
  | 3 => r.w
  | 4 => r.h
  | 5 => s.eng.val
  | 6 => if s.isCaller then 0 else s.me.v.homes.length
  | 7 => s.core.val
  | _ => 1

/-- IDENT: selector 7 only at supervisor privilege (R90, R341). -/
def execIdent (rd : SReg) (sel : BitVec 13) (stl : Stl) (s : State) : Res :=
  if 8 < sel.toNat then s.illegal (.ident rd sel stl)
  else if sel == 7 && !s.sup then s.privileged (.ident rd sel stl)
  else s.writeReg rd (wordN (identValue s sel.toNat)) 0 stl

/-- CLK: the package cycle count (R341). -/
def execClk (rd : SReg) (stl : Stl) (s : State) : Res := s.writeReg rd (wordN s.clk) 0 stl

end Sys2Proof.Machine
end

