-- ==== Sys2Proof/Machine/VOperands.lean ====
section
/-! DEFINITION. The vector operand forms: VTYPE, formats and group sizes, the lane partition and register length, where
an element lies in the physical register file, masks, and tag words (R97, R98, R112, R181, R204 to R213, R351, R358 to
R361). -/

namespace Sys2Proof.Machine

open Sys2Proof

/-! ### VTYPE (R351) -/

/-- FMT. -/
def vtFmt (t : Word) : Nat := fieldW t 3 0
/-- log2 of the block length B. -/
def vtBlk (t : Word) : Nat := fieldW t 6 4
/-- log2 of the group size G. -/
def vtGrp (t : Word) : Nat := fieldW t 8 7
/-- Tail-agnostic. -/
def vtTa (t : Word) : Bool := t.getLsbD 9
/-- Mask-agnostic. -/
def vtMa (t : Word) : Bool := t.getLsbD 10
/-- For format `b`, log2 of the element bytes. -/
def vtBw (t : Word) : Nat := fieldW t 12 11
/-- Padded elements at the end of the granted VL. -/
def vtPad (t : Word) : Nat := fieldW t 19 13

/-- VTYPE from its fields. -/
def mkVtype (pad bw : Nat) (ma ta : Bool) (grp blk fmt : Nat) : Word :=
  wordN (pad % 128 * 2 ^ 13 + bw % 4 * 2 ^ 11 + (if ma then 2 ^ 10 else 0) + (if ta then 2 ^ 9 else 0) +
    grp % 4 * 2 ^ 7 + blk % 8 * 2 ^ 4 + fmt % 16)

/-! ### Formats (R181) -/

/-- The format `b` of raw bits. -/
def fmtB : Nat := 15

/-- An integer format. -/
def isInt (f : Nat) : Bool := 1 ≤ f && f ≤ 7
/-- A float format. -/
def isFloat (f : Nat) : Bool := 8 ≤ f && f ≤ 13
/-- A signed integer format. -/
def isSigned (f : Nat) : Bool := f == 1 || f == 3 || f == 5 || f == 7

/-- The width in bits of a format; `bw` is the BW of format `b`. -/
def fmtBits (f bw : Nat) : Nat :=
  match f with
  | 1 => 8
  | 2 => 8
  | 3 => 16
  | 4 => 16
  | 5 => 32
  | 6 => 32
  | 7 => 64
  | 8 => 4
  | 9 => 8
  | 10 => 8
  | 11 => 16
  | 12 => 16
  | 13 => 32
  | _ => 8 * 2 ^ bw

/-- The working width of a VTYPE (R351). -/
def vtBits (t : Word) : Nat := fmtBits (vtFmt t) (vtBw t)

/-- The group size G of a VTYPE. -/
def vtG (t : Word) : Nat := 2 ^ vtGrp t

/-- The block length B of a VTYPE. -/
def vtB (t : Word) : Nat := 2 ^ vtBlk t

/-- The registers of an operand of width `w`: g(w) = max(1, G·w / w_v) (R358). -/
def groupSize (t : Word) (w : Nat) : Nat := Nat.max 1 (vtG t * w / vtBits t)

/-- `vcfg` could have produced this VTYPE at register length `len` (R351, R353). -/
def vtypeOk (t : Word) (len : Nat) : Bool :=
  let f := vtFmt t
  f != 0 && f != 14 && (f == fmtB || vtBw t == 0) && vtB t ≤ len * vtG t / vtBits t &&
    !(f == 8 && vtB t < 8) && !((f == 9 || f == 10) && vtB t < 4) && vtPad t < vtB t

/-! ### Lane partition and register length (R97, R98) -/

/-- The counts of a partition for threads 0 to 3 (R97). -/
def quadCounts (quad : Nat) : List Nat :=
  match quad with
  | 0 => [4, 0, 0, 0]
  | 1 => [2, 2, 0, 0]
  | 2 => [2, 1, 1, 0]
  | _ => [1, 1, 1, 1]

/-- The live lane groups of a core, ascending (R97). -/
def liveGroups (out : BitVec 4) : List Nat := (List.range 4).filter (fun g => !out.getLsbD g)

/-- Hand live groups out by counts (R97). -/
def handOut : List Nat → List Nat → List (List Nat)
  | [], _ => []
  | n :: ns, gs => gs.take n :: handOut ns (gs.drop n)

/-- The home groups of a thread (R97). -/
def homesOf (quad : Nat) (out : BitVec 4) (t : Nat) : List Nat :=
  (handOut (quadCounts quad) (liveGroups out)).getD t []

/-- The register length L from n home groups, N registers and the cap (R98). -/
def regLen (n regs cap : Nat) : Nat := if n = 0 then 0 else Nat.min cap (floorPow2 (524288 * n / regs))

/-! ### The physical register file (R112, R115) -/

/-- What places a thread's registers: its home groups, its register length, and whether the raw view is in force. -/
structure VMap where
  homes : List Nat
  len : Nat
  raw : Bool
  deriving DecidableEq, Repr

/-- The placement of an engine's registers. -/
def Eng.vmap (g : Eng) : VMap := { homes := g.v.homes, len := if g.tr.raw then 65536 else g.v.len, raw := g.tr.raw }

/-- The vector registers of a thread; raw view has 32 (R115). -/
def Eng.vregsNow (g : Eng) : Nat := if g.tr.raw then 32 else g.v.vregs

/-- The byte of the physical register file that holds byte `o` of register `k` (R112, R115). -/
def VMap.byte (m : VMap) (k o : Nat) : Nat :=
  if m.raw then 8192 * k + o
  else
    let n := m.homes.length
    let j := o / 128
    65536 * m.homes.getD (if n = 0 then 0 else j % n) 0 + 128 * ceilDiv m.len (1024 * n) * k +
      128 * (if n = 0 then 0 else j / n) + o % 128

/-- Element `i` of width `w` of the group that begins at register `r` (R183, R358). -/
def Core.vget (k : Core) (m : VMap) (r w i : Nat) : Nat :=
  if m.len = 0 then 0
  else
    let bit := i * w
    let a := m.byte (r + bit / m.len) (bit % m.len / 8)
    if w < 8 then (k.vrf.read a).toNat / 2 ^ (bit % 8) % 2 ^ w else numLE (k.vrf.readBytes a (w / 8))

/-- Write element `i`. -/
def Core.vput (k : Core) (m : VMap) (r w i v : Nat) : Core :=
  if m.len = 0 then k
  else
    let bit := i * w
    let a := m.byte (r + bit / m.len) (bit % m.len / 8)
    if w < 8 then
      let old := (k.vrf.read a).toNat
      let sh := 2 ^ (bit % 8)
      { k with vrf := k.vrf.write a (BitVec.ofNat 8 (old - old / sh % 2 ^ w * sh + v % 2 ^ w * sh)) }
    else { k with vrf := k.vrf.writeBytes a (bytesLE (w / 8) v) }

/-- Zero the slices of a thread's home groups: what invalidation leaves (R99). -/
def Core.zeroSlices (k : Core) (homes : List Nat) : Core :=
  { k with vrf := homes.foldl (fun m h => m.clear (65536 * h) 65536) k.vrf }

/-! ### Tag words (R204, R210, R213) -/

/-- FMT of a tag word. -/
def tgFmt (t : BitVec 32) : Nat := (t.extractLsb' 0 4).toNat
/-- SORT. -/
def tgSort (t : BitVec 32) : Nat := (t.extractLsb' 4 2).toNat
/-- SPAN, log2. -/
def tgSpan (t : BitVec 32) : Nat := (t.extractLsb' 6 2).toNat
/-- POS. -/
def tgPos (t : BitVec 32) : Nat := (t.extractLsb' 8 3).toNat
/-- PLV. -/
def tgPlv (t : BitVec 32) : Bool := t.getLsbD 11
/-- PLREG. -/
def tgPlreg (t : BitVec 32) : Nat := (t.extractLsb' 12 5).toNat
/-- ISPL. -/
def tgIspl (t : BitVec 32) : Bool := t.getLsbD 17
/-- DIRTY. -/
def tgDirty (t : BitVec 32) : Bool := t.getLsbD 18

/-- A tag word from its fields. -/
def mkTag (dirty ispl : Bool) (plreg : Nat) (plv : Bool) (pos span sort fmt : Nat) : BitVec 32 :=
  BitVec.ofNat 32 ((if dirty then 2 ^ 18 else 0) + (if ispl then 2 ^ 17 else 0) + plreg % 32 * 2 ^ 12 +
    (if plv then 2 ^ 11 else 0) + pos % 8 * 2 ^ 8 + span % 4 * 2 ^ 6 + sort % 4 * 2 ^ 4 + fmt % 16)

/-- A tag word with bits 17:4 cleared. -/
def tgClear (t : BitVec 32) : BitVec 32 := t &&& 0x4000f

/-- The tag words of a thread. -/
abbrev Tags := Vector (BitVec 32) 32

/-- The tag word of register `r`, modulo 32. -/
def Tags.at_ (t : Tags) (r : Nat) : BitVec 32 := t[r % 32]'(Nat.mod_lt _ (by decide))

/-- Change the tag word of register `r`. -/
def Tags.upd (t : Tags) (r : Nat) (f : BitVec 32 → BitVec 32) : Tags :=
  t.set (r % 32) (f (Tags.at_ t r)) (Nat.mod_lt _ (by decide))

/-- Clear ISPL of `n` registers from `r`. -/
def Tags.freePayload (t : Tags) (r n : Nat) : Tags :=
  (List.range n).foldl (fun t i => Tags.upd t (r + i) (fun x => x &&& ~~~ 0x20000)) t

/-- The registers of the key group that is linked to the payload group at register `p`; as many hold the payloads (R210). -/
def Tags.keysOf (t : Tags) (p : Nat) : List Nat :=
  (List.range 32).filter (fun k => tgPlv (Tags.at_ t k) && tgPlreg (Tags.at_ t k) == p)

/-- A register is no payload any more: the payload groups that it lies in lose ISPL, and their key groups PLV (R213). -/
def Tags.unpay (t : Tags) (r : Nat) : Tags :=
  if tgIspl (Tags.at_ t r) then
    (List.range 32).foldl (fun t p =>
      let ks := Tags.keysOf t p
      if p ≤ r && r < p + ks.length then
        ks.foldl (fun t k => Tags.upd t k (fun z => z &&& ~~~ 0x1f800)) (Tags.freePayload t p ks.length)
      else t) t
  else t

/-- A key group is linked no more: its payload group loses ISPL (R213). -/
def Tags.unkey (t : Tags) (r : Nat) : Tags :=
  let x := Tags.at_ t r
  if tgPlv x then Tags.freePayload t (tgPlreg x) (Tags.keysOf t (tgPlreg x)).length else t

/-- What a write to register `r` does to sort and payload marks: its run group and its linked key group lose bits 17:4 and free
their payload group; a payload group loses ISPL and its key group loses PLV (R213). -/
def Tags.touch (t : Tags) (r : Nat) : Tags :=
  let x := Tags.at_ t r
  let n := 2 ^ tgSpan x
  let keys := if tgPlv x then Tags.keysOf t (tgPlreg x) else []
  let run := if tgSort x != 0 then (List.range n).map (fun i => r / n * n + i) else []
  Tags.upd ((keys ++ run).foldl (fun t k => Tags.upd t k tgClear) (Tags.unpay (Tags.unkey t r) r)) r tgClear

/-- A plain write of the `n` registers from `r` in a format: marks cleared, FMT set, DIRTY set (R212, R362). -/
def Tags.write (t : Tags) (r n fmt : Nat) : Tags :=
  (List.range n).foldl (fun t i =>
    Tags.upd (Tags.touch t (r + i)) (r + i) (fun x => (x &&& 0x40000) ||| 0x40000 ||| BitVec.ofNat 32 (fmt % 16))) t

/-- Make the `n` registers from `r` a sorted run group of keys in a format, linked to a payload group or not
(R205, R210). -/
def Tags.setRun (t : Tags) (r span fmt sort : Nat) (pl : Option Nat) : Tags :=
  (List.range (2 ^ span)).foldl (fun t i =>
    Tags.upd t (r + i) (fun _ => mkTag true false (pl.getD 0) pl.isSome i span sort fmt)) t

/-- Make the `n` registers from `r` a payload group in a format (R210). -/
def Tags.setPayload (t : Tags) (r n fmt : Nat) : Tags :=
  (List.range n).foldl (fun t i => Tags.upd t (r + i) (fun _ => mkTag true true 0 false 0 0 0 fmt)) t

/-- Clear bits 17:4 of every tag (R213). -/
def Tags.clearAll (t : Tags) : Tags := t.map tgClear

/-- The run group of a tag word breaks R206. -/
def Tags.inconsistent (t : Tags) (r regs : Nat) : Bool :=
  let x := Tags.at_ t r
  let n := 2 ^ tgSpan x
  let base := r / n * n
  tgSort x == 3 || n ≤ tgPos x || tgPos x != r % n || regs < base + n ||
    (List.range n).any (fun i =>
      let y := Tags.at_ t (base + i)
      tgSort y != tgSort x || tgSpan y != tgSpan x || tgPlv y != tgPlv x || tgPlreg y != tgPlreg x ||
        tgFmt y == 14) ||
    (tgPlv x && (tgPlreg x % n != 0 || regs < tgPlreg x + n ||
      (List.range n).any (fun i => !tgIspl (Tags.at_ t (tgPlreg x + i)))))

/-- The check that tag words pass as they are loaded from the tag image (R206). -/
def Tags.checked (t : Tags) (regs : Nat) : Tags :=
  let t := t.map (fun x => x &&& 0x7ffff)
  let bad := (List.range 32).filter (fun r => Tags.inconsistent t r regs)
  let t' := bad.foldl (fun u r =>
    let n := 2 ^ tgSpan (Tags.at_ t r)
    (List.range n).foldl (fun u i => Tags.upd u (r / n * n + i) tgClear) u) t
  t'.map (fun x => if tgFmt x == 14 then x &&& ~~~ 0xf else x)

/-! ### Invalidation and shape (R99, R357) -/

/-- The running instance of a core owns the register file (R114). -/
def Core.owns (k : Core) : Bool := k.owner == .running

/-- What the vector image held of a thread's home groups is no longer valid (R99, R115). -/
def State.unhold (s : State) (c : CoreId) (e : EngId) : State :=
  let homes := (s.engAt c e).v.homes
  s.updInst c (fun n => { n with held := BitVec.ofNat 32 (homes.foldl (fun m h => m &&& (0xffffffff - 0xff * 2 ^ (8 * h))) n.held.toNat) })

/-- Invalidate a thread's registers: zero with tag 0; recorded only when the instance is not the owner (R99, R357).
What the vector image held of them is no longer valid. -/
def State.invalidate (s : State) (c : CoreId) (e : EngId) : State :=
  let homes := (s.engAt c e).v.homes
  let owns := (s.coreAt c).owns
  let s := s.updV c e (fun v => { v with tags := Vector.replicate 32 0, inval := !owns || v.inval })
  if owns then
    (s.updCore c (fun k => k.zeroSlices homes)).unhold c e
  else s

/-- A thread takes other home groups or another length and so loses its registers: its next vector instruction says so (R62, R115, R117). -/
def State.moveHomes (s : State) (c : CoreId) (e : EngId) (homes : List Nat) (len : Nat) : State :=
  ((s.unhold c e).updV c e (fun v => { v with homes := homes, len := len, lost := true })).invalidate c e

/-- Recompute a thread's register length; a change invalidates its registers (R98, R99). -/
def State.reLen (s : State) (c : CoreId) (e : EngId) : State :=
  let v := (s.engAt c e).v
  let l := regLen v.homes.length v.vregs v.vlcap
  if l == v.len then s else (s.updV c e (fun v => { v with len := l })).invalidate c e

/-! ### Masks and element classes (R360, R361) -/

/-- Bit `i` of a mask register; m0 reads as all ones. -/
def VSt.maskBit (v : VSt) (m : Nat) (i : Nat) : Bool :=
  m % 8 == 0 || (v.masks[m % 8]'(Nat.mod_lt _ (by decide))).testBit i

/-- Element `i` is active under a mask field and its neg bit (R360). -/
def VSt.active (v : VSt) (f : VF) (i : Nat) : Bool := v.maskBit f.mask.toNat i != f.neg

/-- Write bit `i` of a mask register other than m0. -/
def VSt.putMask (v : VSt) (m i : Nat) (b : Bool) : VSt :=
  if m % 8 == 0 then v
  else { v with masks := v.masks.set (m % 8) (setBitN (v.masks[m % 8]'(Nat.mod_lt _ (by decide))) i b)
                           (Nat.mod_lt _ (by decide)) }

/-- An agnostic element becomes all ones, or stays: one free choice for each element (R360); never in a DET launch. -/
def agnostic (det : Bool) (ctr r i : Nat) : Bool := !det && Config.choice (ctr * 2 ^ 40 + r * 2 ^ 24 + i)

end Sys2Proof.Machine
end

