-- ==== Sys2Proof/Machine/Fp.lean ====
section
/-! DEFINITION. The arithmetic of every unit: exact values, rounding into a format, the operations and their flags
(R184 to R203, R363 to R366, R374, R375). -/

namespace Sys2Proof.Machine

open Sys2Proof

/-- An exact value: NaN, an infinity, or (-1)^neg · m · 2^e, zero included with its sign. -/
inductive FV where
  | nan
  | inf (neg : Bool)
  | fin (neg : Bool) (m : Nat) (e : Int)
  deriving DecidableEq, Repr

/-- The shape of a float format: exponent bits, fraction bits, bias (R185). -/
structure FShape where
  eb : Nat
  fb : Nat
  bias : Nat
  deriving DecidableEq, Repr

/-- The shapes of R185, and E3M5 as code 16 (R189). -/
def shapeOf (f : Nat) : FShape :=
  match f with
  | 8 => ⟨2, 1, 1⟩
  | 9 => ⟨4, 3, 7⟩
  | 10 => ⟨5, 2, 15⟩
  | 11 => ⟨5, 10, 15⟩
  | 12 => ⟨8, 7, 127⟩
  | 16 => ⟨3, 5, 3⟩
  | _ => ⟨8, 23, 127⟩

/-- The canonical NaN (R185); E2M1 has none and takes +0. -/
def canonNaN (f : Nat) : Nat :=
  match f with
  | 8 => 0
  | 9 => 0x7f
  | 10 => 0x7e
  | 11 => 0x7e00
  | 12 => 0x7fc0
  | _ => 0x7fc00000

/-- The value of a bit pattern in a float format (R185, R186). -/
def decodeF (f bits : Nat) : FV :=
  let sh := shapeOf f
  let frac := bits % 2 ^ sh.fb
  let ex := bits / 2 ^ sh.fb % 2 ^ sh.eb
  let neg := f != 16 && bitN bits (sh.fb + sh.eb)
  let top := 2 ^ sh.eb - 1
  if (f == 10 || 11 ≤ f && f ≤ 13) && ex == top then (if frac = 0 then .inf neg else .nan)
  else if f == 9 && ex == top && frac == 7 then .nan
  else if ex = 0 then .fin neg frac (1 - (sh.bias : Int) - sh.fb)
  else .fin neg (2 ^ sh.fb + frac) ((ex : Int) - sh.bias - sh.fb)

/-- m · 2^e as an integer count of 2^q under a rounding mode, and whether it is inexact (R195). -/
def roundAt (neg : Bool) (m : Nat) (e q : Int) (mode : Nat) : Nat × Bool :=
  if q ≤ e then (m <<< (e - q).toNat, false)
  else
    let sh := (q - e).toNat
    let k := m >>> sh
    let rem := m - (k <<< sh)
    let half := 1 <<< (sh - 1)
    let up :=
      match mode with
      | 0 => half < rem || (rem == half && k % 2 == 1)
      | 1 => false
      | 2 => neg && rem != 0
      | 3 => !neg && rem != 0
      | _ => half ≤ rem
    (if up then k + 1 else k, rem != 0)

/-- The largest finite value of a format, as a pattern without sign (R185). -/
def maxFinite (f : Nat) : Nat :=
  match f with
  | 8 => 7
  | 9 => 0x7e
  | 10 => 0x7b
  | 11 => 0x7bff
  | 12 => 0x7f7f
  | 16 => 0xff
  | _ => 0x7f7fffff

/-- The sign bit of a format. -/
def signBit (f : Nat) : Nat := let sh := shapeOf f; 2 ^ (sh.eb + sh.fb)

/-- A pattern with a sign. -/
def withSign (f : Nat) (neg : Bool) (bits : Nat) : Nat := if neg && f != 16 then bits + signBit f else bits

/-- The pattern of an infinity, in the formats that have one. -/
def infBits (f : Nat) : Nat := let sh := shapeOf f; (2 ^ sh.eb - 1) * 2 ^ sh.fb

/-- The delivered value of an overflow (R196). -/
def overflowBits (f mode : Nat) (neg : Bool) : Nat :=
  if f == 9 then canonNaN 9
  else if f == 8 || f == 16 then withSign f neg (maxFinite f)
  else
    let toMax := mode == 1 || (mode == 2 && !neg) || (mode == 3 && neg)
    withSign f neg (if toMax then maxFinite f else infBits f)

/-- A magnitude k · 2^q exceeds a format's largest finite value. -/
def aboveMax (f k : Nat) (q : Int) : Bool :=
  match decodeF f (maxFinite f) with
  | .fin _ m e => if q ≤ e then m <<< (e - q).toNat < k else m < k <<< (q - e).toNat
  | _ => false

/-- round(x, fmt, mode) of R196, with `.sat` (R198) or not, and R197: the pattern and the flags raised. -/
def roundF (f mode : Nat) (sat : Bool) (v : FV) : Nat × Nat :=
  match v with
  | .nan => if f == 8 then (0, flNV) else if f == 16 then (0, flNV) else (canonNaN f, 0)
  | .inf neg =>
    if f == 16 && neg then (0, flNV)
    else if sat then (withSign f neg (maxFinite f), flSAT + flNX)
    else if f == 8 || f == 9 || f == 16 then (overflowBits f mode neg, flOF + flNX)
    else (withSign f neg (infBits f), 0)
  | .fin neg 0 _ => (withSign f neg 0, 0)
  | .fin neg m e =>
    if f == 16 && neg then (0, flNV)
    else
      let sh := shapeOf f
      let msb : Int := (lg m : Int) + e
      let qu : Int := msb - sh.fb
      let emin : Int := 1 - (sh.bias : Int)
      let r := (roundAt neg m e qu mode).1
      if aboveMax f r qu then
        if sat then (withSign f neg (maxFinite f), flSAT + flNX)
        else (overflowBits f mode neg, flOF + flNX)
      else
        let q : Int := if qu < emin - sh.fb then emin - sh.fb else qu
        let (k, inexact) := roundAt neg m e q mode
        -- k < 2^fb only at the least quantum: a subnormal or zero; else normalise a carry
        let bits :=
          if k < 2 ^ sh.fb then k
          else if k = 2 ^ (sh.fb + 1) then ((q + 1 + sh.fb + sh.bias).toNat) * 2 ^ sh.fb
          else ((q + sh.fb + sh.bias).toNat) * 2 ^ sh.fb + (k - 2 ^ sh.fb)
        let tiny : Bool := decide ((lg r : Int) + qu < emin)
        (withSign f neg bits, (if inexact then flNX else 0) + (if inexact && tiny then flUF else 0))

/-- The magnitude of one value is below another's: m1·2^e1 < m2·2^e2. -/
def magLt (m1 : Nat) (e1 : Int) (m2 : Nat) (e2 : Int) : Bool :=
  if e1 ≤ e2 then m1 < m2 <<< (e2 - e1).toNat else m1 <<< (e1 - e2).toNat < m2

/-- A signed integer count of 2^e. -/
def signedMag (neg : Bool) (m : Nat) : Int := if neg then -(m : Int) else m

/-- The exact sum; a zero sum takes its sign under R364 in the given mode; opposite infinities are invalid (R199). -/
def addFV (mode : Nat) (a b : FV) : FV × Nat :=
  match a, b with
  | .nan, _ => (.nan, 0)
  | _, .nan => (.nan, 0)
  | .inf x, .inf y => if x == y then (.inf x, 0) else (.nan, flNV)
  | .inf x, .fin _ _ _ => (.inf x, 0)
  | .fin _ _ _, .inf y => (.inf y, 0)
  | .fin x m e, .fin y n g =>
    let q := if e ≤ g then e else g
    let t := signedMag x (m <<< (e - q).toNat) + signedMag y (n <<< (g - q).toNat)
    if t = 0 then
      if m = 0 && n = 0 && x == y then (.fin x 0 0, 0) else (.fin (mode == 2) 0 0, 0)
    else (.fin (decide (t < 0)) t.natAbs q, 0)

/-- The exact product; 0 times an infinity is invalid (R199). -/
def mulFV (a b : FV) : FV × Nat :=
  match a, b with
  | .nan, _ => (.nan, 0)
  | _, .nan => (.nan, 0)
  | .inf x, .inf y => (.inf (x != y), 0)
  | .inf x, .fin y m _ => if m = 0 then (.nan, flNV) else (.inf (x != y), 0)
  | .fin x m _, .inf y => if m = 0 then (.nan, flNV) else (.inf (x != y), 0)
  | .fin x m e, .fin y n g => (.fin (x != y) (m * n) (e + g), 0)

/-- The value with its sign inverted. -/
def negFV : FV → FV
  | .nan => .nan
  | .inf x => .inf (!x)
  | .fin x m e => .fin (!x) m e

/-- A nonzero quotient m·2^e / n·2^g to at least 64 bits, its last bit standing for what follows. -/
def quotFV (neg : Bool) (m : Nat) (e : Int) (n : Nat) (g : Int) : FV :=
  let sh := 66 + (lg n - lg m)
  let t := (m <<< sh) / n
  .fin neg (2 * t + (if t * n = m <<< sh then 0 else 1)) (e - g - sh - 1)

/-- The exact quotient; 0/0 and Inf/Inf are invalid, finite by zero divides by zero (R199, R365). -/
def divFV (a b : FV) : FV × Nat :=
  match a, b with
  | .nan, _ => (.nan, 0)
  | _, .nan => (.nan, 0)
  | .inf _, .inf _ => (.nan, flNV)
  | .inf x, .fin y _ _ => (.inf (x != y), 0)
  | .fin x _ _, .inf y => (.fin (x != y) 0 0, 0)
  | .fin x m e, .fin y n g =>
    if n = 0 then (if m = 0 then (.nan, flNV) else (.inf (x != y), flDZ))
    else if m = 0 then (.fin (x != y) 0 0, 0)
    else (quotFV (x != y) m e n g, 0)

/-- ⌊√n⌋, one bit of the root at a time from bit `b` down. -/
def isqrtFrom : Nat → Nat → Nat → Nat
  | 0, n, r => if (r + 1) * (r + 1) ≤ n then r + 1 else r
  | b + 1, n, r =>
    let c := r + 2 ^ (b + 1)
    isqrtFrom b n (if c * c ≤ n then c else r)

/-- ⌊√n⌋. -/
def isqrt (n : Nat) : Nat := isqrtFrom (lg n / 2 + 1) n 0

/-- The square root to at least 64 bits, sticky in its last bit (R363, R365). -/
def sqrtFV (a : FV) : FV × Nat :=
  match a with
  | .nan => (.nan, 0)
  | .inf false => (.inf false, 0)
  | .inf true => (.nan, flNV)
  | .fin x 0 _ => (.fin x 0 0, 0)
  | .fin true _ _ => (.nan, flNV)
  | .fin false m e =>
    -- an even exponent, and 140 further bits
    let odd := e % 2 != 0
    let m := (if odd then 2 * m else m) <<< 140
    let e := (if odd then e - 1 else e) - 140
    let r := isqrt m
    (.fin false (2 * r + (if r * r = m then 0 else 1)) (e / 2 - 1), 0)

/-- The reciprocal square root to at least 64 bits (R363, R365). -/
def rsqrtFV (a : FV) : FV × Nat :=
  match a with
  | .nan => (.nan, 0)
  | .inf false => (.fin false 0 0, 0)
  | .inf true => (.nan, flNV)
  | .fin x 0 _ => (.inf x, flDZ)
  | .fin true _ _ => (.nan, flNV)
  | .fin false m e =>
    let odd := e % 2 != 0
    let m := if odd then 2 * m else m
    let e := if odd then e - 1 else e
    let n := 80 + lg m
    let r := isqrt (2 ^ (2 * n) / m)
    (.fin false (2 * r + (if r * r * m = 2 ^ (2 * n) then 0 else 1)) (-(e / 2) - n - 1), 0)

/-- Deliver the value of an operation that may divide by zero: E4M3 gives ±448 and E2M1 ±6 with OF and NX (R199, R365). -/
def deliver (f mode : Nat) (r : FV × Nat) : Nat × Nat :=
  let (v, fl) := r
  match v with
  | .inf neg =>
    if fl == flDZ && (f == 8 || f == 9) then (withSign f neg (maxFinite f), flDZ + flOF + flNX)
    else let (b, g) := roundF f mode false v; (b, fl ||| g)
  | .nan => if f == 8 then (0, fl ||| flNV) else (canonNaN f, fl)
  | _ => let (b, g) := roundF f mode false v; (b, fl ||| g)

/-- One value is below another by value, zeros equal (R369). NaN is below nothing. -/
def ltFV (a b : FV) : Bool :=
  match a, b with
  | .nan, _ => false
  | _, .nan => false
  | .inf x, .inf y => x && !y
  | .inf x, .fin _ _ _ => x
  | .fin _ _ _, .inf y => !y
  | .fin x m e, .fin y n g =>
    let q := if e ≤ g then e else g
    decide (signedMag x (m <<< (e - q).toNat) < signedMag y (n <<< (g - q).toNat))

/-- Two values are equal by value, zeros equal (R369). -/
def eqFV (a b : FV) : Bool :=
  match a, b with
  | .nan, _ => false
  | _, .nan => false
  | _, _ => !ltFV a b && !ltFV b a

/-- The sign of a value. -/
def FV.neg? : FV → Bool
  | .nan => false
  | .inf x => x
  | .fin x _ _ => x

/-- The value is NaN. -/
def FV.isNaN : FV → Bool
  | .nan => true
  | _ => false

/-- IEEE 754-2019 minimum or maximum: NaN wins, −0 ranks below +0 (R199). -/
def minmaxFV (wantMax : Bool) (a b : FV) : FV :=
  match a, b with
  | .nan, _ => .nan
  | _, .nan => .nan
  | _, _ =>
    let less := ltFV a b || (eqFV a b && a.neg? && !b.neg?)
    if less != wantMax then a else b

/-- An integer as a value. -/
def intFV (i : Int) : FV := .fin (decide (i < 0)) i.natAbs 0

/-- The integer that a pattern of an integer format holds. -/
def intVal (f bits : Nat) : Int := if isSigned f then signedOf (fmtBits f 0) bits else (bits % 2 ^ fmtBits f 0 : Nat)

/-- The least and greatest values of an integer format. -/
def intRange (f : Nat) : Int × Int :=
  let w := fmtBits f 0
  if isSigned f then (-(2 : Int) ^ (w - 1), (2 : Int) ^ (w - 1) - 1) else (0, (2 : Int) ^ w - 1)

/-- An integer clamped to a format's range, and whether it was (R184). -/
def clampInt (f : Nat) (i : Int) : Int × Bool :=
  let (lo, hi) := intRange f
  if i < lo then (lo, true) else if hi < i then (hi, true) else (i, false)

/-- float → integer (R375): pattern and flags. -/
def floatToInt (f mode : Nat) (sat : Bool) (v : FV) : Nat × Nat :=
  let w := fmtBits f 0
  match v with
  | .nan => (0, if sat then flSAT + flNV else flNV)
  | .inf neg => (unsignedOf w (if neg then (intRange f).1 else (intRange f).2), if sat then flSAT else flNV)
  | .fin neg m e =>
    let (k, inexact) := roundAt neg m e 0 mode
    let (i, out) := clampInt f (signedMag neg k)
    (unsignedOf w i, if out then (if sat then flSAT else flNV) else if inexact then flNX else 0)

/-- The value of a pattern in a float or integer format. -/
def valueOf (f bits : Nat) : FV := if isFloat f then decodeF f bits else intFV (intVal f bits)

/-! ### Promotion (R192, R193) -/

/-- The result format of two floats (R192). -/
def promoteF (a b : Nat) : Nat :=
  let lo := Nat.min a b
  let hi := Nat.max a b
  if lo = hi then lo
  else if lo = 8 then hi
  else if lo = 9 && hi = 10 then 12
  else if lo = 11 && hi = 12 then 13
  else hi

/-- The result format of two integers: the wider; at equal width the signed one (R193). -/
def promoteI (a b : Nat) : Nat :=
  if fmtBits a 0 < fmtBits b 0 then b else if fmtBits b 0 < fmtBits a 0 then a else if isSigned a then a else b

/-- The result format of two source formats, or none where R194 raises ECODE 0x09. -/
def promote (a b : Nat) : Option Nat :=
  if isFloat a && isFloat b then some (promoteF a b) else if isInt a && isInt b then some (promoteI a b) else none

/-! ### Block and band scales (R189 to R191) -/

/-- The scaled value of a narrow element: element times block scale (R191). -/
def scaledVal (f bits scale : Nat) : FV := (mulFV (decodeF f bits) (decodeF 16 scale)).1

/-- Encode x under a block scale and a band scale (R191, R376): pattern and flags. -/
def encodeScaled (f mode : Nat) (sat : Bool) (x : FV) (scale : Nat) (band : FV) : Nat × Nat :=
  let (sb, f0) := mulFV (decodeF 16 scale) band
  match sb with
  | .fin _ 0 _ => (0, flNV)
  | _ =>
    let (q, f1) := divFV x sb
    let (b, f2) := roundF f mode sat q
    (b, f0 ||| f1 ||| f2)

/-- A key ranks strictly before another in a direction (R207): `desc` is descending. NaN ranks last in both. -/
def keyLt (f w : Nat) (desc : Bool) (a b : Nat) : Bool :=
  if isFloat f then
    let x := decodeF f a
    let y := decodeF f b
    if x.isNaN then false
    else if y.isNaN then true
    else
      let lt := ltFV x y || (eqFV x y && x.neg? && !y.neg?)
      let gt := ltFV y x || (eqFV x y && y.neg? && !x.neg?)
      if desc then gt else lt
  else if isSigned f then
    let x := signedOf w a
    let y := signedOf w b
    if desc then y < x else x < y
  else
    let x := a % 2 ^ w
    let y := b % 2 ^ w
    if desc then y < x else x < y

end Sys2Proof.Machine
end

