-- ==== Sys2Proof/Machine/VAddr.lean ====
section
/-! DEFINITION. Where the elements of a vector access lie, and when two accesses touch a common byte (R163, R380 to
R382, R386, R387, R399). -/

namespace Sys2Proof.Machine

open Sys2Proof

/-- The scalar operands that a slot of a queued convoy captured: vs1, vs2, vs3, vd (R94). -/
def QConvoy.sc (q : QConvoy) (k j : Nat) : Word := (q.scal.getD k []).getD j 0

/-- The plan of a slot. -/
def QConvoy.plan (q : QConvoy) (k : Nat) : Plan :=
  q.plans.getD k { fa := 0, fb := 0, fc := 0, fr := 0, ep := 0, tagged := false, regs := [] }

/-- The elements that may be active: below VL − PAD (R360). -/
def QConvoy.n (q : QConvoy) : Nat := q.vl - vtPad q.vtype


/-- An entry of the queue that clears tags (VConf.lean). -/
def QConvoy.isMark (q : QConvoy) : Bool := q.slots.isEmpty && q.abound.isNone

/-- The working width of a convoy. -/
def QConvoy.wv (q : QConvoy) : Nat := vtBits q.vtype

/-- Index element `i` as a 64-bit value: sign- or zero-extended by its format (R381). -/
def indexVal (k : Core) (m : VMap) (r fx bw i : Nat) : Word :=
  let w := fmtBits fx bw
  let v := k.vget m r w i
  if isSigned fx then BitVec.ofInt 64 (signedOf w v) else wordN v

/-- The address of element `i` of an element-access instruction (R380, R382); the two nibbles of an fp4 pair share
one byte. -/
def elemAddr (k : Core) (m : VMap) (q : QConvoy) (j : Nat) (v : VSlot) (i : Nat) : Word :=
  let b := q.sc j 0
  let w := q.wv
  match v.op with
  | .vld => if w < 8 then b + wordN (i / 2) else b + wordN (i * (w / 8))
  | .vst => if w < 8 then b + wordN (i / 2) else b + wordN (i * (w / 8))
  | .vlds => b + wordN i * q.sc j 1
  | .vsts => b + wordN i * q.sc j 1
  | _ =>
    b + indexVal k m v.f.vs2.toNat (if (q.plan j).fb = 0 then vtFmt q.vtype else (q.plan j).fb) (vtBw q.vtype) i *
      wordN (2 ^ vkshift v.f)

/-- The bytes of one element access (R382). -/
def elemLen (q : QConvoy) : Nat := if q.wv < 8 then 1 else q.wv / 8

/-- The space of a slot's elements (R381). -/
def slotSpace (v : VSlot) : Space := if vsp v.f then .s else .g

/-- A place without permission checks, for comparing places only. -/
def State.place (s : State) (c : CoreId) (sup : Bool) (sp : Space) (addr len : Nat) : Option Loc :=
  match sp with
  | .s => (match s.sLoc c sup addr len with | .ok l => some l | .error _ => none)
  | .g =>
    if sup then some (.g addr)
    else
      match s.walkRoot (s.partOf c) (s.recOf c).ptroot.toNat addr with
      | .ok t => some (.g (t.ppage + addr % 2 ^ t.bits))
      | .error _ => none

/-- Two places share a byte. -/
def Loc.meets (a : Loc) (la : Nat) (b : Loc) (lb : Nat) : Bool :=
  match a, b with
  | .g i, .g j => overlaps i la j lb
  | .s c i, .s d j => c == d && overlaps i la j lb
  | .park c i, .park d j => c == d && overlaps i la j lb
  | .x c i, .x d j => c == d && overlaps i la j lb
  | _, _ => false

/-- One range that an access touches: space, privilege, address, bytes, and its place if it is already known. -/
structure Touch where
  sp : Space
  sup : Bool
  addr : Nat
  len : Nat
  loc : Option Loc
  deriving DecidableEq, Repr

/-- Two ranges of one engine may touch a common byte. Pages are at least 64 KiB, so places that differ in their low 16
bits never meet; otherwise the places decide, and a place that does not translate counts as met. -/
def State.touch (s : State) (c : CoreId) (a b : Touch) : Bool :=
  if a.sp != b.sp && a.loc.isNone && b.loc.isNone then false
  else if a.sp == .g && b.sp == .g && a.loc.isNone && b.loc.isNone &&
      !overlaps (a.addr % 65536) a.len (b.addr % 65536) b.len &&
      !overlaps (a.addr % 65536 + 65536) a.len (b.addr % 65536) b.len &&
      !overlaps (a.addr % 65536) a.len (b.addr % 65536 + 65536) b.len then false
  else
    let pa := match a.loc with | some l => some l | none => s.place c a.sup a.sp a.addr a.len
    let pb := match b.loc with | some l => some l | none => s.place c b.sup b.sp b.addr b.len
    match pa, pb with
    | some x, some y => x.meets a.len y b.len
    | _, _ => true

/-- The range of a waiting access. -/
def Acc.touch (a : Acc) : Touch := { sp := a.sp, sup := a.sup, addr := a.addr, len := a.bytes, loc := a.loc }

/-- The latest read of element `i` of a `vwait` in slot `j` (R398): it stands in `seen` under the key 8 i + j. -/
def QConvoy.latest (q : QConvoy) (j i : Nat) : Option Nat := (q.seen.find? (fun x => x.1 == 8 * i + j)).map (fun x => x.2)

/-- Element `i` of a `vwait` has been satisfied: its latest read meets the condition with element i of vd (R398). -/
def QConvoy.satisfied (k : Core) (m : VMap) (q : QConvoy) (j : Nat) (v : VSlot) (i : Nat) : Bool :=
  match q.latest j i with
  | none => false
  | some x => condBits q.wv (condOf (vaop v.f)) x (k.vget m v.f.vd.toNat q.wv i)

/-- The read of element `i` of slot `j` has performed in a group in flight. -/
def QConvoy.landed (q : QConvoy) (j i : Nat) : Bool := q.fly.any (fun f => f.got.any (fun x => x.1 == 8 * i + j))

/-- The ranges of the elements that a memory slot of a queued convoy has not performed, from element `lo`; none where
they are not known yet (an index group of a convoy that has not begun, a block that has not been read). -/
def slotTouches (k : Core) (g : Eng) (q : QConvoy) (j : Nat) (v : VSlot) (lo : Nat) : Option (List Touch) :=
  let elems := (List.range (q.n - lo)).map (fun d => lo + d)
  let one (i : Nat) : Touch :=
    { sp := slotSpace v, sup := g.tr.priv, addr := (elemAddr k g.vmap q j v i).toNat, len := elemLen q, loc := none }
  match v.op with
  | .vld => some ((elems.filter (fun i => !q.landed j i)).map one)
  | .vst => some (elems.map one)
  | .vlds => some ((elems.filter (fun i => !q.landed j i)).map one)
  | .vsts => some (elems.map one)
  | .vmmCopy =>
    some [{ sp := slotSpace v, sup := g.tr.priv, addr := (q.sc j 0).toNat, len := (q.sc j 2).toNat, loc := none },
          { sp := slotSpace v, sup := g.tr.priv, addr := (q.sc j 1).toNat, len := (q.sc j 2).toNat, loc := none }]
  | .vmmFill =>
    some [{ sp := slotSpace v, sup := g.tr.priv, addr := (q.sc j 0).toNat, len := (q.sc j 2).toNat, loc := none }]
  | .vldIpb => none
  | .vsegld => none
  | .vmrgs => none
  | _ =>
    if q.plans.isEmpty then none
    else some ((elems.filter (fun i => g.v.active v.f i && !(v.op == .vwait && q.satisfied k g.vmap j v i) && !q.landed j i)).map one)

end Sys2Proof.Machine
end

