-- ==== Sys2Proof/Machine/Launch.lean ====
section
/-! DEFINITION. Launch records, instances, the dispatcher's queues and placement, completion, and responses
(R67 to R93, R107 to R117, R153). -/

namespace Sys2Proof.Machine

open Sys2Proof

/-! ### Launch records (R72, R73) -/

/-- A record of 64 bytes is malformed (R73). A queue above 15 counts as a value that is not there to use; R73 does not list it
among its ranges (log 76). A partition above 15 is one that is not defined (R76). -/
def recBad (bs : List Byte) : Bool :=
  let n (o l : Nat) : Nat := fieldLE bs o l
  !zeroBytes bs 48 16 || n 38 2 ≥ 8 || n 0 8 % 4 != 0 || n 8 8 % 64 != 0 || n 16 8 % 8 != 0 || n 24 8 % 65536 != 0 ||
    n 32 2 == 0 || n 32 2 > 20 || n 34 2 == 0 || n 34 2 > 16 || n 36 1 > 15 ||
    !(n 40 1 == 0 || (10 ≤ n 40 1 && n 40 1 ≤ 18)) || n 41 1 > 15 || n 42 1 > 3 || n 43 1 == 0 ||
    (bitN (n 38 2) 0 && n 42 1 != 0)

/-- The record that 64 bytes hold (R72). -/
def parseRec (bs : List Byte) : LRec :=
  let n (o l : Nat) : Nat := fieldLE bs o l
  { entry := wordN (n 0 8), param := wordN (n 8 8), cmpl := wordN (n 16 8), ptroot := wordN (n 24 8), w := n 32 2,
    h := n 34 2, queue := n 36 1, part := n 37 1, det := bitN (n 38 2) 0, boost := bitN (n 38 2) 1,
    sbchk := bitN (n 38 2) 2, vlcap := n 40 1, lslip := n 41 1, quad := n 42 1, weight := n 43 1,
    tag := BitVec.ofNat 32 (n 44 4) }

/-- Change a partition. -/
def State.updPart (s : State) (p : Nat) (f : Part → Part) : State :=
  { s with parts := s.parts.set (p % 16) (f (s.parts[p % 16]'(Nat.mod_lt _ (by decide)))) (Nat.mod_lt _ (by decide)) }

/-! ### Responses (R68, R70, R71) -/

/-- A frame waits to be sent on a port in a class (R33). -/
def State.queueFrame (s : State) (p : Fin 32) (cls : Fin 8) (dpkg : BitVec 16) (payload : List Byte) (die : Nat) : State :=
  let b := s.ports[p]
  let c := b.cls[cls]
  let f : TxFrame := { die := die, seq := c.tx, dpkg := dpkg, payload := payload, sentAt := 0, sent := false }
  let c : TClass := { c with tx := c.tx + 1, frames := c.frames ++ [f] }
  let b : BPort := { b with cls := b.cls.set cls.val c cls.isLt }
  { s with ports := s.ports.set p.val b p.isLt }

/-- The 32 bytes of a response (R70). -/
def responseBytes (op status : Nat) (tag : BitVec 32) (word : Word) : List Byte :=
  bytesLE 4 (op % 256 + status % 256 * 256) ++ bytesLE 4 tag.toNat ++ bytesLE 8 word.toNat ++ List.replicate 16 0

/-- A response enters the ring, if the ring has room and no other waits; MSI-X vector 0 is raised (R68). -/
def State.pushRsp (s : State) (bs : List Byte) : State :=
  let m := s.mbox
  if m.waiting.isEmpty && m.rsppi.toNat < m.rspci.toNat + 256 then
    { s with mbox := { m with
        rings := m.rings.writeBytes (0x9000 + m.rsppi.toNat % 256 * 32) bs, rsppi := m.rsppi + 1, msix := m.msix + 1 } }
  else { s with mbox := { m with waiting := m.waiting ++ [bs] } }

/-- Answer a submitter (R70, R71). -/
def State.respond (s : State) (who : Submitter) (op status : Nat) (tag : BitVec 32) (word : Word) : State :=
  let bs := responseBytes op status tag word
  match who with
  | .host => s.pushRsp bs
  | .pkg port spkg => -- by the port on which the request came (log 85)
    s.queueFrame port 6 (BitVec.ofNat 16 spkg) (bs ++ List.replicate 32 0) 8
  | _ => s

/-! ### Instances (R87, R88, R93, R97, R98) -/

/-- An engine as an instance starts it (R87). -/
def Eng.boot (r : LRec) (lidx e : Nat) (homes : List Nat) : Eng :=
  let cap := if r.vlcap = 0 then 262144 else 2 ^ r.vlcap
  let caller := e == 4
  { Eng.reset with
    regs := if caller then ((Vector.replicate 32 (0 : Word)).set 1 r.param).set 2 (wordN lidx) else Vector.replicate 32 0,
    pc := if caller then r.entry else 0, running := caller, sbchk := r.sbchk,
    v := { VSt.reset with vlcap := cap, lslip := if r.det then 0 else r.lslip, homes := homes,
                          len := if caller then 0 else regLen homes.length 32 cap } }

/-- The instance of a launch on a core with live lane groups, as R87 starts it. -/
def Inst.boot (l : Launch) (c : CoreId) (out : BitVec 4) : Inst :=
  let lx := c.val % 20 - l.ox
  let ly := c.val / 20 - l.oy
  let eng (e : Nat) : Eng := Eng.boot l.rec_ (lx + l.rec_.w * ly) e (if e = 4 then [] else homesOf l.rec_.quad out e)
  { Inst.reset with
    live := true, launch := l.id, lx := lx, ly := ly, quad := l.rec_.quad, ven := Vector.replicate 4 l.rec_.weight,
    engs := Vector.ofFn (fun i => eng i.val) }

/-- Mark every block of a class's windows fresh (R88). -/
def Core.freshWindows (k : Core) (fg : Bool) : Core :=
  let ws := k.winS fg
  let wx := k.winX fg
  let ww := k.winW fg
  let wz := k.winZ fg
  { k with
    bufS := k.bufS.markFresh (ws.1 / 512) (ws.2 / 512),
    bufX := (k.bufX.markFresh (wx.1 * 32) (wx.2 * 32)).markFresh (1024 + wx.1 * 8) (wx.2 * 8),
    bufW := (k.bufW.markFresh (ww.1 * 32) (ww.2 * 32)).markFresh (2048 + ww.1 * 8) (ww.2 * 8),
    bufZ := k.bufZ.markFresh wz.1 wz.2 }


/-- A core starts the instance of a launch (R87, R88). Its barriers count what has arrived before (R335). -/
def State.startInst (s : State) (c : CoreId) (l : Launch) : State :=
  s.updCore c (fun k =>
    { (k.freshWindows l.rec_.fg) with
      inst := k.early.foldl (fun n b => n.arrive b) (Inst.boot l c k.lanesOut), next := none, early := [] })

/-- SPLIT as written, with each field at most its maximum (R89). -/
def Core.applySplit (k : Core) (v : Word) : Core :=
  { k with sfg := Nat.min (fieldW v 29 24) 32, xfg := Nat.min (fieldW v 21 16) 32, wfg := Nat.min (fieldW v 14 8) 64,
           zfg := Nat.min (fieldW v 6 0) 64, splitNew := none }

/-- A core that holds no instance applies a waiting SPLIT (R89). -/
def Core.settleIdle (k : Core) : Core :=
  if !k.inst.live && !k.parked.live then (match k.splitNew with | some v => k.applySplit v | none => k) else k

/-- Everything that ends with the running instance of a core: its TLB entries, its ownership of the register file, its
queued Reel passes (R114, R153). -/
def Core.endInst (k : Core) : Core :=
  let k : Core := { k with
    inst := Inst.reset, tlb := k.tlb.filter (·.parked), reels := k.reels.filter (fun r => r.launch != k.inst.launch), zrun := none,
    gangArr := k.gangArr.filter (fun r => r.1 != k.inst.launch),
    owner := if k.owner == Owner.running then .nobody else k.owner, preReq := false }
  k.settleIdle

/-- Everything that ends with the parked instance of a core. -/
def Core.endParked (k : Core) : Core :=
  let k : Core := { k with
    parked := Inst.reset, tlb := k.tlb.filter (fun t => !t.parked),
    reels := k.reels.filter (fun r => r.launch != k.parked.launch),
    gangArr := k.gangArr.filter (fun r => r.1 != k.parked.launch), imgCrc := none, resumeReq := false,
    owner := if k.owner == Owner.parked then .nobody else k.owner }
  k.settleIdle

/-- A core is free: live, running no launch, promised to none (R80). A launch keeps all its cores until it has ended, also
those whose instances have (log 78). -/
def Core.free (k : Core) : Bool := !k.retired && !k.retirePend && !k.inst.live && k.next.isNone && !k.resumeReq

/-- A launch leaves every core: its instances, running and parked, its locks, its links, its commands not yet accepted
(R83, R263). A placement round is due for each core that falls free (R81). -/
def State.dropLaunch (s : State) (id : Nat) : State :=
  let gone (k : Core) : Core :=
    let k := if k.inst.live && k.inst.launch == id then k.endInst else k
    let k := if k.parked.live && k.parked.launch == id then k.endParked else k
    let k := if k.next == some id then { k with next := none, early := [] } else k
    { k with locks := k.locks.filter (fun x => x.launch != id) }
  let mine (c : CoreId) (parked : Bool) : Bool :=
    let k := s.coreAt c
    if parked then k.parked.live && k.parked.launch == id else k.inst.live && k.inst.launch == id
  let falls (k : Core) : Bool :=
    ((k.inst.live && k.inst.launch == id) || (k.parked.live && k.parked.launch == id) || k.next == some id) && (gone k).free
  { s with
    cores := s.cores.map gone, links := s.links.filter (fun x => !mine x.core x.parkedInst),
    subs := s.subs.filter (fun b => b.core.isNone || b.parent != id), round := s.round + (s.cores.toList.filter falls).length }

/-- The completion word of a launch (R83). -/
def Launch.word (l : Launch) : Word :=
  wordN (l.status % 256 * 2 ^ 56 + l.ecode % 256 * 2 ^ 48 + l.core % 65536 * 2 ^ 32 + l.rec_.tag.toNat)

/-- Write a completion word to `cmpl` under the launch's root, if it is not 0 (R83). Where the address does not
translate, or leads to a place without memory, nothing is written and nothing freezes (log 13). -/
def State.writeCmpl (s : State) (l : Launch) : State :=
  if l.rec_.cmpl == 0 then s
  else
    match s.walkRoot l.rec_.part l.rec_.ptroot.toNat l.rec_.cmpl.toNat with
    | .error _ => s
    | .ok t =>
      match judgePage t l.rec_.cmpl.toNat permW with
      | .error _ => s
      | .ok pa => if s.populated l.rec_.part pa 8 then s.writeLoc (.g pa) (bytesLE 8 l.word.toNat) else s

/-- The instances of a launch that are live on its cores. -/
def State.instsOf (s : State) (l : Launch) : List Inst :=
  l.coreList.flatMap (fun c =>
    let k := s.coreAt c
    (if k.inst.live && k.inst.launch == l.id then [k.inst] else []) ++
      (if k.parked.live && k.parked.launch == l.id then [k.parked] else []))

/-- A launch ends: its cores fall free, the completion word is written and posted to the submitter (R83, R70), in a firmware
switch-over as at any other time (log 77). -/
def State.endLaunch (s : State) (l : Launch) : State :=
  let s := s.dropLaunch l.id
  let s := s.updLaunch l.id (fun x => { x with st := .ended })
  let s := s.writeCmpl l
  match l.by_ with
  | .core _ => s
  | .runtime _ => s
  | who => s.respond who 1 0 l.reqTag l.word

/-! ### Placement (R79 to R82) -/

/-- The candidate origins of a w × h rectangle in a partition, ascending b then a (R80). -/
def candidates (d : PartDef) (w h : Nat) : List (Nat × Nat) :=
  (List.range (d.h / h)).flatMap (fun b => (List.range (d.w / w)).map (fun a => (d.x0 + a * w, d.y0 + b * h)))

/-- The cores of a rectangle. -/
def rectCores (o : Nat × Nat) (w h : Nat) : List CoreId :=
  (List.range h).flatMap (fun y => (List.range w).map (fun x => coreN (20 * (o.2 + y) + o.1 + x)))

/-- A core is free for a batch launch: it holds no parked instance either (R80). -/
def Core.freeBatch (k : Core) : Bool := k.free && !k.parked.live

/-- The first queued launch of a queue whose partition takes launches. -/
def State.head (s : State) (q : Nat) : Option Launch := s.launches.find? (fun l => l.st == .queued && l.rec_.queue == q)

/-- A partition is defined and not being reset (R58). -/
def State.partOpen (s : State) (p : Nat) : Option PartDef :=
  let x := s.parts[p % 16]'(Nat.mod_lt _ (by decide))
  if 16 ≤ p || x.resetting.isSome then none else x.pdef

/-- Place a launch at an origin: its cores are promised to it. -/
def State.place! (s : State) (l : Launch) (o : Nat × Nat) : State :=
  let s := s.updLaunch l.id (fun x => { x with st := .running, ox := o.1, oy := o.2 })
  (rectCores o l.rec_.w l.rec_.h).foldl (fun s c => s.updCore c (fun k => { k with next := some l.id })) s

/-- Step 1 and 4 for one queue: the head goes to the first candidate whose cores are all free. -/
def State.placeHead (s : State) (q : Nat) (free : Core → Bool) : State :=
  match s.head q with
  | none => s
  | some l =>
    match s.partOpen l.rec_.part with
    | none => s
    | some d =>
      match (candidates d l.rec_.w l.rec_.h).find? (fun o =>
          (rectCores o l.rec_.w l.rec_.h).all (fun c => free (s.coreAt c))) with
      | none => s
      | some o => s.place! l o

/-- The launch that holds a core: its instance runs there or is about to start there. -/
def Core.holder (k : Core) : Option Nat := if k.inst.live then some k.inst.launch else k.next

/-- A batch launch that may be pre-empted: none of its cores holds a parked instance. -/
def State.victim (s : State) (id : Nat) : Bool :=
  let l := s.launchAt id
  !l.rec_.fg && !l.stopping && l.coreList.all (fun c =>
    !(s.coreAt c).parked.live && (s.coreAt c).holder == some id)

/-- Pre-empt a batch launch whole: every core of it is asked in the same ck (R81, R82). An instance that has not started
starts, to be parked at once. -/
def State.preempt (s : State) (id : Nat) : State :=
  let l := s.launchAt id
  if l.st != .running then s
  else
    let s := { s.updLaunch id (fun x => { x with st := .parked, preAt := s.preCtr }) with preCtr := s.preCtr + 1 }
    l.coreList.foldl (fun s c =>
      let s := if (s.coreAt c).inst.live then s else s.startInst c l
      s.updCore c (fun k => { k with preReq := true })) s

/-- Step 2 for one queue, whose head has stood unplaced since before step 1 (R81). -/
def State.placeOver (s : State) (q : Nat) (head : Option Nat) : State :=
  match s.head q with
  | none => s
  | some l =>
    if head != some l.id then s
    else
      match s.partOpen l.rec_.part with
      | none => s
      | some d =>
        let ok (c : CoreId) : Bool :=
          let k := s.coreAt c
          k.free || (!k.retired && !k.retirePend && !k.preReq &&
            (match k.holder with | some id => s.victim id | none => false))
        match (candidates d l.rec_.w l.rec_.h).find? (fun o => (rectCores o l.rec_.w l.rec_.h).all ok) with
        | none => s
        | some o =>
          let cs := rectCores o l.rec_.w l.rec_.h
          let s := cs.foldl (fun s c =>
            match (s.coreAt c).holder with
            | some id => s.preempt id
            | none => s) s
          s.place! l o

/-- The parked launches, first pre-empted first. -/
def State.parkedLaunches (s : State) : List Launch :=
  (s.launches.filter (fun l => l.st == .parked && !l.stopping)).foldr (fun l acc =>
    (acc.takeWhile (fun x => x.preAt < l.preAt)) ++ l :: acc.dropWhile (fun x => x.preAt < l.preAt)) []

/-- Step 3: a parked launch whose cores are all free resumes (R81). -/
def State.resumeAll (s : State) : State :=
  s.parkedLaunches.foldl (fun s l =>
    if l.coreList.all (fun c =>
        let k := s.coreAt c
        k.free && k.parked.live && k.parked.launch == l.id && !k.preReq) then
      let s := s.updLaunch l.id (fun x => { x with st := .running })
      l.coreList.foldl (fun s c => s.updCore c (fun k => { k with resumeReq := true })) s
    else s) s

/-- One placement round (R81). -/
def State.placementRound (s : State) : State :=
  let heads := (List.range 8).map (fun q => (s.head q).map (fun l => l.id))
  let s := (List.range 8).foldl (fun s q => s.placeHead q Core.free) s
  let s := (List.range 8).foldl (fun s q => s.placeOver q (heads.getD q none)) s
  let s := s.resumeAll
  let s := (List.range 8).foldl (fun s q => s.placeHead (8 + q) Core.freeBatch) s
  { s with round := s.round - 1 }

end Sys2Proof.Machine
end

