-- ==== Sys2Proof/Machine/Frame.lean ====
section
/-! DEFINITION. Cyclic checks, and the Birotte frames that ports send and receive, their credit grants, and the form of boot messages (R29 to R36, R53, R113). -/

namespace Sys2Proof.Machine

open Sys2Proof

/-- A byte enters a reflected cyclic check: `k` bits of it are left. -/
def crcBits (poly crc : BitVec 32) : Nat → BitVec 32
  | 0 => crc
  | k + 1 => crcBits poly (if crc.getLsbD 0 then (crc >>> 1) ^^^ poly else crc >>> 1) k

/-- Bytes enter a reflected cyclic check. -/
def crcFrom (poly crc : BitVec 32) : List Byte → BitVec 32
  | [] => crc
  | b :: bs => crcFrom poly (crcBits poly (crc ^^^ b.zeroExtend 32) 8) bs

/-- CRC-32C (R113; log 26). -/
def crc32c (bs : List Byte) : BitVec 32 := ~~~ crcFrom 0x82f63b78 0xffffffff bs

/-- The frame check sequence of IEEE 802.3 (R29; log 26). -/
def crc32e (bs : List Byte) : BitVec 32 := ~~~ crcFrom 0xedb88320 0xffffffff bs

/-- The transport header of a frame (R30). -/
def frameHead (ty cls dpkg spkg seq ack credit : Nat) : List Byte :=
  bytesLE 1 (16 + ty) ++ bytesLE 1 cls ++ bytesLE 2 dpkg ++ bytesLE 2 spkg ++ bytesLE 4 seq ++ bytesLE 4 ack ++ bytesLE 2 credit

/-- The EtherType of a port: its hub's (R29). -/
def State.etype (s : State) (p : Fin 32) : BitVec 16 := s.hub.etypes[p.val / 16 % 2]'(Nat.mod_lt _ (by decide))

/-- An Ethernet frame around a transport header and its payload: addresses, EtherType, padding to 60 bytes, and the check
(R29; log 26). -/
def etherFrame (addrs : List Byte) (etype : BitVec 16) (bs : List Byte) : List Byte :=
  let f := slice addrs 0 12 ++ (bytesLE 2 etype.toNat).reverse ++ bs
  let f := f ++ List.replicate (60 - f.length) 0
  f ++ bytesLE 4 (crc32e f).toNat

/-- Put a frame on the wire of a port. -/
def State.emit (s : State) (p : Fin 32) (bs : List Byte) : State :=
  { s with wire := s.wire ++ [(p, etherFrame (Config.etherAddrs p.val) (s.etype p) bs)] }

/-- The ack field of a class: the highest number received in order, all ones before any (R34). -/
def TClass.ackNo (k : TClass) : Nat := if k.got then (k.rx - 1).toNat else 0xffffffff

/-- A port carries frames. -/
def BPort.live (b : BPort) : Bool := b.up && !b.peerDown && !b.retired

/-- Change a Birotte port. -/
def State.updPort (s : State) (p : Fin 32) (f : BPort → BPort) : State :=
  { s with ports := s.ports.set p.val (f s.ports[p]) p.isLt }

/-- Change a class of a port. -/
def BPort.updCls (b : BPort) (c : Fin 8) (f : TClass → TClass) : BPort := { b with cls := b.cls.set c.val (f b.cls[c]) c.isLt }

/-- Change a class of a port. -/
def State.updCls (s : State) (p : Fin 32) (c : Fin 8) (f : TClass → TClass) : State := s.updPort p (fun b => b.updCls c f)

/-- A frame has arrived on a port (R35). -/
def State.heard (s : State) (p : Fin 32) : State := s.updPort p (fun b => { b with lastRx := s.clk })

/-- Send a credit grant of a class: its free receive space beyond the frame that its ack field names, or the last grant again,
both fields, while the port may accept nothing (R33, R36, R273). A grant has no destination and no number of its own: the model
gives it package number 0xffff and sequence number 0 (log 82). -/
def State.sendGrant (s : State) (p : Fin 32) (c : Fin 8) : State :=
  let b := s.ports[p]
  let k := b.cls[c]
  let old := b.frozen || s.hub.halted
  let n := if old then k.grant else k.space
  let ack := if old then k.grantAck else k.ackNo
  (s.updCls p c (fun k => { k with grant := n, grantAck := ack })).emit p (frameHead 2 c.val 0xffff s.hub.pkg.toNat 0 ack n)

/-- Send the grants of every class of a port that carries frames. -/
def State.sendGrants (s : State) (p : Fin 32) : State :=
  if s.ports[p].live then (List.finRange 8).foldl (fun s c => s.sendGrant p c) s else s

/-- Receive space falls free, and a grant says so (R34). -/
def State.freeBeats (s : State) (p : Fin 32) (c : Fin 8) (n : Nat) : State :=
  let s := s.updCls p c (fun k => { k with space := k.space + n })
  if s.ports[p].live then s.sendGrant p c else s

/-- A frame as a port reads it. -/
structure FrameIn where
  ty : Nat
  cls : Fin 8
  dpkg : BitVec 16
  spkg : Nat
  seq : BitVec 32
  ack : BitVec 32
  credit : Nat
  payload : List Byte
  deriving DecidableEq, Repr

/-- Read a frame; none if it is malformed (R31). -/
def parseFrame (etype : BitVec 16) (f : List Byte) : Option FrameIn :=
  let body := f.take (f.length - 4)
  let n (o l : Nat) : Nat := fieldLE f (14 + o) l
  let rest := body.drop 30
  let rest := if f.length = 64 && rest.length < 64 then [] else rest
  if f.length < 64 || numLE ((f.drop 12).take 2).reverse != etype.toNat || n 0 1 / 16 != 1 || 4 < n 0 1 % 16 || 7 < n 1 1 ||
      rest.length % 64 != 0 || 8192 < rest.length || fieldLE f (f.length - 4) 4 != (crc32e body).toNat then none
  else
    some { ty := n 0 1 % 16, cls := Fin.ofNat 8 (n 1 1), dpkg := BitVec.ofNat 16 (n 2 2), spkg := n 4 2,
           seq := BitVec.ofNat 32 (n 6 4), ack := BitVec.ofNat 32 (n 10 4), credit := n 14 2, payload := rest }

/-- Bytes of a record. -/
def cut (bs : List Byte) (off len : Nat) : List Byte := (bs.drop off).take len

/-- A boot message breaks the table of R53, or is of a kind that the device does not take. -/
def bootBad (m : List Byte) : Bool :=
  let kind := fieldLE m 4 1
  let len := fieldLE m 16 4
  cut m 0 4 != [0x56, 0x58, 0x42, 0x54] || !(kind == 2 || kind == 4) || !zeroBytes m 6 2 || 8128 < len || m.length < 64 + len ||
    fieldLE m 20 4 != 0 || !zeroBytes m 56 8 || (kind == 2 && !(fieldLE m 5 1 == 1 || fieldLE m 5 1 == 2)) || (kind == 4 && (fieldLE m 5 1 != 0 || fieldLE m 8 8 != 0))

end Sys2Proof.Machine
end

