-- ==== Sys2Proof/Machine/Hub.lean ====
section
/-! DEFINITION. Retirement and partition resets (R57 to R62, R85), the KV pool register and its descriptor (R234 to
R237), unfreezing (R274, R349), and the device registers (R4, R13, R60, R66, R75, R89, R266, R281, R283, R284, R474). -/

namespace Sys2Proof.Machine

open Sys2Proof

/-! ### Retirement (R60 to R62, R275) -/

/-- The result of the repair register's last command. -/
def State.repResult (s : State) (op : BitVec 4) (target : BitVec 11) (busy : Bool) (status : Nat) : State :=
  { s with hub := { s.hub with repOp := op, repTarget := target, repBusy := busy, repStatus := status } }

/-- A launch parked on a core that is retired can never resume: it ends with STATUS 1 and ECODE 0x18 (R275). -/
def State.endParkedOn (s : State) (c : CoreId) : State :=
  let p := (s.coreAt c).parked
  if p.live then s.fatal p.launch 1 0x18 (p.lx + (s.launchAt p.launch).rec_.w * p.ly) 0 else s

/-- A launch placed on a core that is retired before its instance has started there can never start: the model ends it as R275 ends a
parked one (log 100). -/
def State.endNextOn (s : State) (c : CoreId) : State :=
  match (s.coreAt c).next with
  | none => s
  | some id =>
    let l := s.launchAt id
    s.fatal id 1 0x18 (l.coreList.takeWhile (· != c)).length 0

/-- Retire a core now. -/
def State.retireNow (s : State) (c : CoreId) : State :=
  ((s.updCore c (fun k => { k with retired := true, retirePend := false })).endParkedOn c).endNextOn c

/-- A launch holds a core while one of its instances runs there (R62). -/
def Core.heldByLaunch (k : Core) : Bool := k.inst.live

/-- A launch is on a core: its instance runs or is parked there, or is about to start or to resume there. -/
def Core.occupied (k : Core) : Bool := k.inst.live || k.parked.live || k.next.isSome || k.resumeReq

/-- Retire a core, at once or pending: the STATUS and the state (R62). -/
def State.retireCore (s : State) (c : CoreId) : Nat × State :=
  let k := s.coreAt c
  if k.retired then (0, s)
  else if k.heldByLaunch then (1, s.updCore c (fun k => { k with retirePend := true }))
  else (0, s.retireNow c)

/-- Home groups and L are computed afresh from the live groups; a thread whose homes or L change loses its registers
(R62, R117). -/
def State.rehome (s : State) (c : CoreId) : State :=
  let n := s.instAt c
  (List.range 4).foldl (fun s t =>
    let e : EngId := Fin.ofNat 5 t
    let v := (s.engAt c e).v
    let homes := homesOf n.quad (s.coreAt c).lanesOut t
    let l := regLen homes.length v.vregs v.vlcap
    if homes == v.homes && l == v.len then s else s.moveHomes c e homes l) s

/-- The engines of an instance stop at the points of R107, in place (R62). -/
def Inst.atStop (n : Inst) : Inst := { n with engs := n.engs.map Eng.atStop }

/-- Retire a lane group of a core: an instance with a thread bound to it stops in place, takes its homes afresh, and goes on (R62). -/
def State.retireLane (s : State) (c : CoreId) (g : Nat) : Nat × State :=
  let k := s.coreAt c
  if k.retired || k.lanesOut.getLsbD g then (0, s)
  else
    let s := s.updCore c (fun k => { k with lanesOut := k.lanesOut ||| BitVec.ofNat 4 (2 ^ g) })
    let bound := k.inst.engs.any (fun e => e.v.homes.contains g)
    let s := if k.inst.live && bound then (s.updInst c Inst.atStop).rehome c else s
    if (s.coreAt c).lanesOut == 0xf then s.retireCore c else (0, s)

/-- A port's transport state is dropped; its peer sees it as down (R35, R58). -/
def BPort.drop (b : BPort) : BPort :=
  { b with up := false, peerDown := true, cls := Vector.replicate 8 TClass.reset }

/-- A routing command's rows on a port are lost: it ends with error code 5 (R35, R142, R225). -/
def RouteCmd.lost (k : RouteCmd) : RouteCmd :=
  { k with code := if k.code = 0 then 5 else k.code, stage := if k.stage < 2 then 2 else k.stage }

/-- A routing command sends its rows on the ports of its launch's partition. -/
def State.sendsOn (s : State) (k : RouteCmd) (p : Fin 32) : Bool :=
  match s.partDef (s.launchAt k.launch).rec_.part with
  | some d => d.ports.getLsbD p.val
  | none => false

/-- The transfers outstanding on a port end (R35, R62): the oldest command of each routing engine that has a row there is in
error, and a combine row of which only a part has come is lost (R231). -/
def State.loseRows (s : State) (p : Fin 32) : State :=
  let b := s.ports[p]
  let hit (i : Nat) : Bool := b.cls.any (fun k => k.frames.any (fun f => f.die == i))
  { s with dies := s.dies.mapIdx (fun (i : Nat) (d : Die) =>
      if hit i then { d with route := match d.route with | [] => [] | k :: r => (if s.sendsOn k p then k.lost else k) :: r } else d),
           rows := s.rows.filter (fun r => !(r.port == some p && r.combine && decide (r.data.length < r.total))) }

/-- Change a die. -/
def State.updDie (s : State) (d : Fin 8) (f : Die → Die) : State :=
  { s with dies := s.dies.set d.val (f s.dies[d]) d.isLt }

/-! ### Partition resets (R58, R85) -/

/-- The cores of a partition. -/
def PartDef.cores (d : PartDef) : List CoreId := rectCores (d.x0, d.y0) d.w d.h

/-- Begin a partition reset or re-image: steps 1 to 3 of R58. Entries of a Factor's gate queue are cancelled with the commands of the
routing engines; R58 names the routing engine, the Assayer and the walker only (log 102). -/
def State.beginReset (s : State) (p : Nat) (d : PartDef) (reimage : Bool) : State :=
  let s := s.updPart p (fun x => { x with resetting := some reimage })
  let hit (l : Launch) : Bool :=
    (l.st == .running || l.st == .parked) && l.coreList.any (fun c => d.hasCore c)
  let s := (s.launches.filter hit).foldl (fun s l => s.fatal l.id 3 0 0 0) s
  let dead (c : CoreId) : Bool := d.hasCore c
  let s : State := { s with
    dies := s.dies.map (fun (x : Die) => { x with
      route := x.route.filter (fun r => !dead r.core), gate := x.gate.filter (fun g => !dead g.core) }) }
  s.updPart p (fun x => { x with pool := { x.pool with cmds := x.pool.cmds.filter (fun k => !dead k.core) } })

/-- A core's buffers, register file and park area written with zero (step 5 of R58); it goes on after a thermal halt (R40). -/
def Core.wipe (k : Core) : Core :=
  { k with bufS := Buf.reset, bufX := Buf.reset, bufW := Buf.reset, bufZ := Buf.reset, park := Buf.reset, vrf := [], halted := false }

/-- A port can still send what answers a submitter: a frame of class 6 that its credit covers (R58, R71). -/
def BPort.answers (b : BPort) : Bool :=
  let k := b.cls[(6 : Fin 8)]
  b.live && !b.frozen && (match k.frames.find? (fun f => !f.sent) with | some f => decide (f.payload.length / 64 ≤ k.credit) | none => false)

/-- The ports of a partition drop their transport state (step 4 of R58). -/
def State.dropPorts (s : State) (d : PartDef) : State :=
  (List.finRange 32).foldl (fun s q => if d.ports.getLsbD q.val then (s.loseRows q).updPort q BPort.drop else s) s

/-- Complete a partition reset: steps 4 to 6, and the channels of a re-image (R58). -/
def State.finishReset (s : State) (p : Nat) (d : PartDef) (reimage : Bool) : State :=
  let s := s.dropPorts d
  let s : State := { s with cores := s.cores.mapIdx (fun (i : Nat) (k : Core) => if d.hasCore (coreN i) then k.wipe else k) }
  let s := if reimage then
      (List.range 384).foldl (fun s ch =>
        if d.chans.getLsbD ch then
          { s with mem := s.mem.clear (ch * 0x200000000) 0x200000000,
                   poison := s.poison.filter (fun a => a / 0x200000000 != ch) }
        else s) s
    else s
  let s := s.updPart p (fun x => { x with resetting := none })
  let frees := (s.cores.toList.zipIdx).filter (fun x => d.hasCore (coreN x.2) && x.1.free)
  { s with round := s.round + frees.length, hub := { s.hub with repBusy := false, repStatus := 0 } }

/-- The channel that holds a physical address (R22). -/
def chanOf (pa : Nat) : Nat := pa / 0x200000000

/-- A waiting access to a channel keeps its place there, so that it completes after the channel has been retired (R62). -/
def State.keepPlace (s : State) (c : CoreId) (ch : Nat) (a : Acc) : Acc :=
  if a.loc.isSome || a.sp != .g then a
  else
    match s.xlate c a.sup a.addr a.bytes ((if a.kind.reads then permR else 0) + (if a.kind.writes then permW else 0)) with
    | .ok pa => if chanOf pa = ch then { a with loc := some (.g pa) } else a
    | .error _ => a

/-- What the running instance of a core has outstanding on a channel that is retired: the accesses of its engines, and the units that
its streams have issued (R62). -/
def State.keepPlaces (s : State) (c : CoreId) (ch : Nat) : State :=
  let old (p : Piece) : Piece := { p with keep := p.keep ||| BitVec.ofNat 384 (2 ^ ch) }
  s.updInst c (fun n =>
    { n with
      engs := n.engs.map (fun g => { g with accs := g.accs.map (s.keepPlace c ch) }),
      ports := n.ports.map (fun q => { q with run := q.run.map (fun st => { st with flight := st.flight.map old }) }) })

/-- Retire a channel: accesses outstanding to it complete, later ones find no memory there (R24, R62). -/
def State.retireChannel (s : State) (ch : Nat) : State :=
  let s := (List.finRange 320).foldl (fun s c =>
    let s := if (s.coreAt c).inst.live then s.keepPlaces c ch else s
    s.asParked c (fun t => t.keepPlaces c ch)) s
  { s with chanOut := s.chanOut ||| BitVec.ofNat 384 (2 ^ ch) }

/-- The repair command that OP and TARGET name, from its write to its STATUS (R60 to R62). -/
def State.repair (s : State) (op : BitVec 4) (target : BitVec 11) : State :=
  let t := target.toNat
  if s.hub.repBusy then s
  else
    match op.toNat with
    | 1 =>
      if 320 ≤ t then s.repResult op target false 2
      else let (st, s) := s.retireCore (coreN t); s.repResult op target false st
    | 2 =>
      if 1280 ≤ t then s.repResult op target false 2
      else let (st, s) := s.retireLane (coreN (t / 4)) (t % 4); s.repResult op target false st
    | 3 =>
      if 384 ≤ t then s.repResult op target false 2
      else (if s.chanOut.getLsbD t then s else s.retireChannel t).repResult op target false 0
    | 4 =>
      if 32 ≤ t then s.repResult op target false 2
      else
        let p : Fin 32 := Fin.ofNat 32 t
        (if s.ports[p].retired then s else (s.loseRows p).updPort p (fun b => { b.drop with retired := true })).repResult
          op target false 0
    | 5 =>
      (match if t < 16 then s.partDef t else none with
      | none => s.repResult op target false 2
      | some d => (s.beginReset t d false).repResult op target true 0)
    | 6 =>
      (match if t < 16 then s.partDef t else none with
      | none => s.repResult op target false 2
      | some d => (s.beginReset t d true).repResult op target true 0)
    | _ => s.repResult op target false 3

/-! ### The KV pool register (R234 to R237) -/

/-- The element bytes of a pool. -/
def Pool.esz (p : Pool) : Nat := fmtBits p.fmt 0 / 8
/-- hsz = 256·⌈(64 + 4·dh)/256⌉ (R236). -/
def Pool.hsz (p : Pool) : Nat := 256 * ceilDiv (64 + 4 * p.dh) 256
/-- bsize = 64·dh·esz (R236). -/
def Pool.bsize (p : Pool) : Nat := 64 * p.dh * p.esz
/-- per = 65,536 / 2^fshift (R237). -/
def Pool.per (p : Pool) : Nat := 65536 / 2 ^ p.fshift
/-- The virtual address of frame f of slot i (R237). -/
def Pool.frameVa (p : Pool) (i f : Nat) : Nat :=
  p.base + 65536 * (p.nch * (f / p.per) + i) + 2 ^ p.fshift * (f % p.per)

/-- The slot, frame and offset of a virtual address in the pool's range (R237). -/
def Pool.locate (p : Pool) (va : Nat) : Option (Nat × Nat × Nat) :=
  if !p.en || va < p.base || p.nch = 0 then none
  else
    let u := va - p.base
    let page := u / 65536
    let f := page / p.nch * p.per + u % 65536 / 2 ^ p.fshift
    if f < p.nfr then some (page % p.nch, f, u % 2 ^ p.fshift) else none

/-- An allocated frame. -/
def Pool.frame (p : Pool) (slot num : Nat) : Option Frame := p.frames.find? (fun f => f.slot == slot && f.num == num)

/-- The physical channel of a slot. -/
def Pool.chan (p : Pool) (slot : Nat) : Nat := p.chans.getD slot 0

/-- Change an allocated frame. -/
def Pool.updFrame (p : Pool) (slot num : Nat) (f : Frame → Frame) : Pool :=
  { p with frames := p.frames.map (fun x => if x.slot == slot && x.num == num then f x else x) }

/-- The pool that a descriptor describes (R236). -/
def parsePool (p : Pool) (bs : List Byte) : Pool :=
  let n (o l : Nat) : Nat := fieldLE bs o l
  { p with
    base := n 0 8, nch := n 8 2, fshift := n 10 1, fmt := n 11 1, dh := n 12 2, nh := n 14 1, hstride := n 16 4,
    vofs := n 20 4, nfr := n 24 2, chans := (List.range (n 8 2)).map (fun i => n (64 + 2 * i) 2), frames := [] }

/-- A descriptor is malformed (R236). -/
def poolBad (p : Pool) (bs : List Byte) (d : PartDef) : Bool :=
  bs.length < 64 || !zeroBytes bs 15 1 || !zeroBytes bs 26 38 || p.base % 65536 != 0 || p.nch = 0 || 384 < p.nch ||
    p.fshift < 12 || 16 < p.fshift || !(9 ≤ p.fmt && p.fmt ≤ 12) ||
    !(p.dh == 32 || p.dh == 64 || p.dh == 128 || p.dh == 256) || p.nh = 0 || 64 < p.nh || p.hstride % 256 != 0 ||
    p.vofs % 256 != 0 || p.nfr = 0 || 16384 < p.nfr || p.hstride < p.hsz + p.bsize || p.vofs < p.nh * p.hstride ||
    2 ^ p.fshift < p.vofs + (p.nh - 1) * p.hstride + 256 + p.bsize || bs.length < 64 + 2 * p.nch ||
    p.chans.any (fun c => 384 ≤ c || !d.chans.getLsbD c) || !p.chans.Nodup

/-- Read the descriptor of a pool: its fixed part, then its channel numbers. An unreadable one counts as malformed
(log 14). -/
def State.readPool (s : State) (addr : Nat) : List Byte :=
  match s.readPhys noPart addr 64 addr with
  | .error _ => []
  | .ok bs =>
    match s.readPhys noPart addr (64 + 2 * fieldLE bs 8 2) addr with
    | .error _ => []
    | .ok all => all

/-- A write of KVPOOL with EN = 1: read and check the descriptor (R234, R236). -/
def State.poolEnable (s : State) (p : Nat) (v : Word) : State :=
  let x := s.parts[p % 16]'(Nat.mod_lt _ (by decide))
  let addr := v &&& 0xfffffffffffc0
  if x.pool.busy || x.pool.en then s
  else
    let bs := s.readPool addr.toNat
    let q := parsePool x.pool bs
    let bad := match x.pdef with | some d => poolBad q bs d | none => true
    if bad then s.updPart p (fun x => { x with pool := { x.pool with addr := addr, err := true, en := false } })
    else s.updPart p (fun x => { x with pool := { q with addr := addr, err := false, en := true } })

/-- A write of KVPOOL with EN = 0: begin a disable (R234, R235). -/
def State.poolDisable (s : State) (p : Nat) (addr : Option Word) : State :=
  s.updPart p (fun x =>
    if x.pool.busy then x
    else
      let q := match addr with | some a => { x.pool with addr := a } | none => x.pool
      { x with pool := { q with busy := q.en } })

/-- KVPOOL as it reads (R234). -/
def Pool.word (p : Pool) : Word :=
  p.addr ||| (if p.busy then 4 else 0) ||| (if p.err then 2 else 0) ||| (if p.en then 1 else 0)

/-! ### Unfreezing (R274, R349) -/

/-- Resume an engine of a core: the result and the state. A parked one goes on at resume (R274). -/
def State.thawEng (s : State) (c : CoreId) (e : EngId) : Nat × State :=
  let k := s.coreAt c
  if k.inst.engs[e].frozen then (0, s.updEng c e (fun g => { g with frozen := false }))
  else if k.parked.engs[e].frozen then
    (0, s.updCore c (fun k => { k with parked := k.parked.updEng e (fun g => { g with thaw := true }) }))
  else (1, s)

/-- Resume a stream port of a core; a parked one goes on at resume (R274). -/
def State.thawPort (s : State) (c : CoreId) (p : Fin 8) : Nat × State :=
  let upd (n : Inst) (f : Port → Port) : Inst := { n with ports := n.ports.set p.val (f n.ports[p]) p.isLt }
  let k := s.coreAt c
  if k.inst.ports[p].frozen then (0, s.updInst c (fun n => upd n (fun q => { q with frozen := false })))
  else if k.parked.ports[p].frozen then
    (0, s.updCore c (fun k => { k with parked := upd k.parked (fun q => { q with thaw := true }) }))
  else (1, s)

/-- The unfreeze of a master word; `part` limits it to a partition's masters, as from a compute core (R349). -/
def State.unfreeze (s : State) (m : BitVec 32) (part : Option Nat) : Nat × State :=
  let ty := m.toNat / 2 ^ 28
  let u := m.toNat / 65536 % 4096
  let n := m.toNat % 65536
  let pd := match part with | some p => s.partDef p | none => none
  let coreOk := u < 320 && (part.isNone || (match pd with | some d => d.hasCore (coreN u) | none => false))
  match ty with
  | 0 => if coreOk && n < 4 then s.thawEng (coreN u) (Fin.ofNat 5 n) else (2, s)
  | 1 => if coreOk && n == 0 then s.thawEng (coreN u) callerId else (2, s)
  | 2 => if coreOk && n < 8 then s.thawPort (coreN u) (Fin.ofNat 8 n) else (2, s)
  | 5 =>
    let ok := u < 32 && n == 0 && (part.isNone || (match pd with | some d => d.ports.getLsbD u | none => false))
    let p : Fin 32 := Fin.ofNat 32 u
    if !ok then (2, s) else if s.ports[p].frozen then (0, (s.updPort p (fun b => { b with frozen := false })).sendGrants p) else (1, s)
  | _ =>
    if part.isSome then (2, s)
    else
      let d : Fin 8 := Fin.ofNat 8 u
      match ty with
      | 3 =>
        if 8 ≤ u || n != 0 then (2, s)
        else if s.dies[d].routeFrozen then (0, s.updDie d (fun x => { x with routeFrozen := false })) else (1, s)
      | 4 =>
        if 8 ≤ u || n != 0 then (2, s)
        else if s.dies[d].factorFrozen then (0, s.updDie d (fun x => { x with factorFrozen := false })) else (1, s)
      | 6 => if 10 ≤ u || n != 0 then (2, s) else (1, s)
      | 7 =>
        if 8 ≤ u || n != 0 then (2, s)
        else if s.dies[d].assayerFrozen then (0, s.updDie d (fun x => { x with assayerFrozen := false })) else (1, s)
      | 8 =>
        if 8 ≤ u || 384 ≤ n || n / 48 != u then (2, s)
        else if s.parts.any (fun p => p.pool.frozen.contains n) then
          (0, { s with parts := s.parts.map (fun p =>
            { p with pool := { p.pool with frozen := p.pool.frozen.filter (· != n) } }) })
        else (1, s)
      | _ => (2, s)

/-! ### The notification queue (R64, R272) -/

/-- The word of a record at offset 0. -/
def Notif.word (n : Notif) : Word :=
  wordN (n.kind % 256 + n.ecode % 256 * 2 ^ 8 + n.part % 256 * 2 ^ 16 + n.master.toNat * 2 ^ 32)

/-- Pop a record: the queue's oldest; when records were dropped, their count follows as a record of kind 6 once there is
room (log 15). -/
def State.popNotif (s : State) : Word × State :=
  match s.hub.notifs with
  | [] => (0, { s with hub := { s.hub with popped := 0 } })
  | n :: rest =>
    let h := { s.hub with notifs := rest, popped := n.addr }
    let h : Hub :=
      if h.dropped = 0 then h
      else
        let o : Notif := { kind := 6, ecode := 0, part := 0xff, master := 0, addr := wordN h.dropped }
        { h with notifs := rest ++ [o], dropped := 0 }
    (n.word, { s with hub := h })

/-! ### Trace registers (R284) -/

/-- A write of TRC: FULL clears and TRP becomes 0. -/
def Core.writeTrc (k : Core) (v : Word) : Core :=
  { k with trc := v &&& 0xc00fffffffffffff, trp := 0, trcFull := false }

/-- Present a record's address at a launch port (R75, R78). -/
def State.portSubmit (s : State) (p : Fin 16) (v : Word) : State :=
  if s.hub.lbusy[p] then s
  else
    let sub : Submission :=
      { port := some p, core := none, parent := 0, addr := (v &&& 0xfffffffffffc0).toNat, recBytes := none, rd := 0, seq := 0, tag := none,
        at_ := s.clk }
    { s with subs := s.subs ++ [sub], hub := { s.hub with lbusy := s.hub.lbusy.set p.val true p.isLt } }

/-- The identification block, byte by byte (R13). -/
def State.idByte (s : State) (o : Nat) : Byte :=
  let order : List Byte := [0x56, 0x58, 0x2d, 0x41, 0x42, 0x33, 0x32, 0x30]
  if o < 8 then order.getD o 0
  else if o < 10 then (bytesLE 2 (Config.stepping % 65535 + 1)).getD (o - 8) 0
  else if o < 12 then (bytesLE 2 1).getD (o - 10) 0
  else if 16 ≤ o && o < 48 then s.hub.ident.getD (o - 16) 0
  else 0

/-- The core and offset of a core's register block. -/
def coreReg (a : Nat) : Option (CoreId × Nat) :=
  let o := a - 0xf000001000000
  if 0xf000001000000 ≤ a && o / 0x1000 < 320 then some (coreN (o / 0x1000), o % 0x1000) else none

/-- Read one aligned 8-byte device register: its value, and what the read does (R4, R272, R474). -/
def State.devReg (s : State) (a : Nat) : Word × State :=
  let o := a - devBase
  match coreReg a with
  | some (c, r) =>
    let k := s.coreAt c
    let v : Word :=
      if r = 0 then wordN (k.sfg * 2 ^ 24 + k.xfg * 2 ^ 16 + k.wfg * 2 ^ 8 + k.zfg)
      else if r = 8 then k.tbase
      else if r = 0x10 then k.errinj
      else if 0x100 ≤ r && r < 0x120 then k.bp.toList.getD ((r - 0x100) / 8) 0
      else if 0x120 ≤ r && r < 0x130 then k.wp.toList.getD ((r - 0x120) / 8) 0
      else if r = 0x130 then k.ssa
      else if r = 0x138 then k.ssn
      else if r = 0x140 then k.trc ||| (if k.trcFull then 0x2000000000000000 else 0)
      else if r = 0x148 then k.trp
      else 0
    (v, s)
  | none =>
    if o < 48 then (wordN (numLE ((List.range 8).map (fun i => s.idByte (o + i)))), s)
    else if o = 0x1000 then
      (wordN ((if s.hub.repBusy then 2 ^ 63 else 0) + s.hub.repStatus * 2 ^ 48 + s.hub.repOp.toNat * 2 ^ 36 +
        s.hub.repTarget.toNat), s)
    else if o = 0x1008 then (s.hub.health, s)
    else if 0x2000 ≤ o && o < 0x2100 then
      let p := (o - 0x2000) / 16
      if o % 16 = 8 then
        (wordN ((if s.hub.lbusy.toList.getD p false then 2 ^ 63 else 0) + s.hub.lres.toList.getD p 0), s)
      else (0, s)
    else if 0x3000 ≤ o && o < 0x3100 && o % 16 = 0 then
      ((s.parts[(o - 0x3000) / 16 % 16]'(Nat.mod_lt _ (by decide))).pool.word, s)
    else if o = 0x4000 then s.popNotif
    else if o = 0x4008 then (s.hub.popped, s)
    else if o = 0x4018 then (wordN s.hub.unfreezeRes, s)
    else (0, s)

/-- Read device registers at an address: the addressed bytes of the aligned register (R474). -/
def State.devRead (s : State) (a len : Nat) : Nat × State :=
  let (v, s) := s.devReg (a / 8 * 8)
  (v.toNat / 2 ^ (8 * (a % 8)) % 2 ^ (8 * len), s)

/-- Write an aligned 8-byte device register (R4); a narrower write is ignored whole (R474). -/
def State.devWrite (s : State) (a len : Nat) (v : Word) : State :=
  let o := a - devBase
  if len != 8 || a % 8 != 0 then s
  else
    match coreReg a with
    | some (c, r) =>
      s.updCore c (fun k =>
        if r = 0 then
          (if !k.inst.live && !k.parked.live then k.applySplit v else { k with splitNew := some v })
        else if r = 8 then { k with tbase := v &&& 0xffffffffff000 }
        else if r = 0x10 then { k with errinj := v &&& 0xe0000000003f3f1f }
        else if 0x100 ≤ r && r < 0x120 then
          { k with bp := k.bp.set ((r - 0x100) / 8 % 4) (v &&& 0xfc0ffffffffffffc) (Nat.mod_lt _ (by decide)) }
        else if 0x120 ≤ r && r < 0x130 then
          { k with wp := k.wp.set ((r - 0x120) / 8 % 2) (v &&& 0xff0fffffffffffff) (Nat.mod_lt _ (by decide)) }
        else if r = 0x130 then { k with ssa := v &&& 0xfc0ffffffffffffc }
        else if r = 0x138 then { k with ssn := v &&& 0xffffffff }
        else if r = 0x140 then k.writeTrc v
        else k)
    | none =>
      if o = 0x1000 then s.repair (BitVec.ofNat 4 (fieldW v 39 36)) (BitVec.ofNat 11 (fieldW v 10 0))
      else if o = 0x1008 then (if v == 0 then s else { s with hub := { s.hub with health := v } })
      else if 0x2000 ≤ o && o < 0x2100 && o % 16 = 0 then s.portSubmit (Fin.ofNat 16 ((o - 0x2000) / 16)) v
      else if 0x3000 ≤ o && o < 0x3100 && o % 16 = 0 then
        (if v.getLsbD 0 then s.poolEnable ((o - 0x3000) / 16) v
         else s.poolDisable ((o - 0x3000) / 16) (some (v &&& 0xfffffffffffc0)))
      else if o = 0x4010 then
        let (r, s) := s.unfreeze (v.truncate 32) none
        { s with hub := { s.hub with unfreezeRes := r } }
      else s

end Sys2Proof.Machine
end

