-- ==== Sys2Proof/Machine/Pages.lean ====
section
/-! DEFINITION. What a write through a KV pool's virtual range does beside its bytes: the protection of block headers,
and the summaries and `filled` words that follow every key and value written (R238 to R240). -/

namespace Sys2Proof.Machine

open Sys2Proof

/-- The pool that governs the virtual addresses of a launch: its partition's, while it is enabled (R234). -/
def State.poolOf (s : State) (part : Nat) : Pool := (s.parts[part % 16]'(Nat.mod_lt _ (by decide))).pool

/-- Change the pool of a partition. -/
def State.updPool (s : State) (part : Nat) (f : Pool → Pool) : State := s.updPart part (fun x => { x with pool := f x.pool })

/-- The offset of a head's block in its frame, key or value (R238). -/
def Pool.blockOff (p : Pool) (value : Bool) (h : Nat) : Nat := (if value then p.vofs else 0) + h * p.hstride

/-- The bytes of a block's header (R238). -/
def Pool.hdrLen (p : Pool) (value : Bool) : Nat := if value then 256 else p.hsz

/-- The blocks of a frame: kind and head. -/
def Pool.blocks (p : Pool) : List (Bool × Nat) :=
  (List.range p.nh).map (fun h => (false, h)) ++ (List.range p.nh).map (fun h => (true, h))

/-- A write touches a header byte other than bytes 16 to 23 of an allocated frame (R239). -/
def Pool.guards (p : Pool) (va len : Nat) : Bool :=
  (List.range len).any (fun d =>
    match p.locate (va + d) with
    | none => false
    | some (i, f, off) =>
      (p.frame i f).isSome && p.blocks.any (fun b =>
        let o := p.blockOff b.1 b.2
        o ≤ off && off < o + p.hdrLen b.1 && !(o + 16 ≤ off && off < o + 24)))

/-- A user write through the pool's range breaks R239. -/
def State.headerHit (s : State) (part : Nat) (sup : Bool) (va len : Nat) : Bool :=
  !sup && (s.poolOf part).en && (s.poolOf part).guards va len

/-- Widen one channel's summary at its physical place by a key's bits (R240). -/
def State.widen (s : State) (p : Pool) (minAt maxAt key : Nat) : State :=
  let k := decodeF p.fmt key
  let old (a : Nat) : FV := decodeF 12 (numLE (s.mem.readBytes a 2))
  let lo := if k.isNaN then 0xff80 else
    (roundF 12 0 false (minmaxFV false (old minAt) (decodeF 12 (roundF 12 2 false k).1))).1
  let hi := if k.isNaN then 0x7f80 else
    (roundF 12 0 false (minmaxFV true (old maxAt) (decodeF 12 (roundF 12 3 false k).1))).1
  (s.writePhys minAt (bytesLE 2 lo)).writePhys maxAt (bytesLE 2 hi)

/-- The elements of a block's data that a range of the frame touches. -/
def Pool.touched (p : Pool) (start off len : Nat) : List Nat :=
  let lo := Nat.max off start
  let hi := Nat.min (off + len) (start + p.bsize)
  if hi ≤ lo || p.esz = 0 then []
  else (List.range ((hi - 1 - start) / p.esz + 1 - (lo - start) / p.esz)).map (fun d => (lo - start) / p.esz + d)

/-- Every byte of a token of a block has been written since allocation (R238). -/
def Pool.tokenDone (p : Pool) (wrote start t : Nat) : Bool :=
  (List.range (p.dh * p.esz)).all (fun d => wrote.testBit (start + t * p.dh * p.esz + d))

/-- One block follows a write: its summary widens and its `filled` bits are set (R240). `fpa` is the physical address
of the frame. -/
def State.followBlock (s : State) (p : Pool) (fpa wrote off len : Nat) (b : Bool × Nat) : State :=
  let o := p.blockOff b.1 b.2
  let start := o + p.hdrLen b.1
  let es := p.touched start off len
  let s :=
    if b.1 then s
    else es.foldl (fun s e =>
      let c := e % p.dh
      s.widen p (fpa + o + 64 + 2 * c) (fpa + o + 64 + 2 * p.dh + 2 * c)
        (numLE (s.mem.readBytes (fpa + start + e * p.esz) p.esz))) s
  let ts := (es.map (fun e => e / p.dh)).foldl (fun l t => insertNat t l) []
  match ts.filter (p.tokenDone wrote start) with
  | [] => s
  | done =>
    let old := numLE (s.mem.readBytes (fpa + o + 8) 8)
    s.writePhys (fpa + o + 8) (bytesLE 8 (done.foldl (fun m t => m ||| 1 <<< t) old))

/-- A user write through the pool's range would have to read an uncorrectable summary or `filled` word, and faults there (R240, R276). -/
def State.followBad (s : State) (part : Nat) (sup : Bool) (va pa len : Nat) : Bool :=
  let p := s.poolOf part
  !sup && match p.locate va with
    | none => false
    | some (i, f, off) =>
      (p.frame i f).isSome && p.blocks.any (fun b =>
        let o := p.blockOff b.1 b.2
        let es := p.touched (o + p.hdrLen b.1) off len
        let bad (a n : Nat) : Bool := poisoned s.poison 32 (pa - off + o + a) n
        !es.isEmpty && (bad 8 8 || (!b.1 && es.any (fun e =>
          bad (64 + 2 * (e % p.dh)) 2 || bad (64 + 2 * p.dh + 2 * (e % p.dh)) 2))))

/-- What follows the bytes written at a virtual address of a pool's range (R240); `pa` is their physical address. -/
def State.follow (s : State) (part : Nat) (sup : Bool) (va pa len : Nat) : State :=
  let p := s.poolOf part
  if sup || !p.en then s
  else
    match p.locate va with
    | none => s
    | some (i, f, off) =>
      match p.frame i f with
      | none => s
      | some x =>
        let wrote := x.wrote ||| ((2 ^ len - 1) <<< off)
        let s := s.updPool part (fun q => q.updFrame i f (fun y => { y with wrote := wrote }))
        p.blocks.foldl (fun s b => s.followBlock p (pa - off) wrote off len b) s

/-- Write a user access's bytes in G with what follows them. -/
def State.writeG (s : State) (part : Nat) (sup : Bool) (va pa : Nat) (bs : List Byte) : State :=
  (s.writePhys pa bs).follow part sup va pa bs.length

end Sys2Proof.Machine
end

