-- ==== Sys2Proof/Machine/Order.lean ====
section
/-! DEFINITION. The order machine: when a waiting element may perform and what its performing does (R157 to R173,
R123 to R125, R130 to R132, R283 to R285). -/

namespace Sys2Proof.Machine

open Sys2Proof

/-! ### The X and W slots (R125, R130 to R132) -/

/-- The slot that an X offset lies in (R125). -/
def xSlotOf (off : Nat) : Nat := if off < 0x80000 then off / 0x4000 else (off - 0x80000) / 0x1000

/-- The physical offset in the X buffer of an offset in a window that begins at slot `base`. -/
def xPhys (base off : Nat) : Nat := if off < 0x80000 then off + base * 0x4000 else off + base * 0x1000

/-- The slot that a W offset lies in (R125). -/
def wSlotOf (off : Nat) : Nat := if off < 0x100000 then off / 0x4000 else (off - 0x100000) / 0x1000

/-- The physical offset in the W buffer. -/
def wPhys (base off : Nat) : Nat := if off < 0x100000 then off + base * 0x4000 else off + base * 0x1000

/-- The bit of `XSlot.wrote` of an X offset. -/
def xBit (off : Nat) : Nat := if off < 0x80000 then off % 0x4000 else 0x4000 + (off - 0x80000) % 0x1000

/-- A slot of the instance. -/
def Inst.xslot (n : Inst) (k : Nat) : XSlot := n.xslots[k % 32]'(Nat.mod_lt _ (by decide))

/-- Change a slot of the instance. -/
def Inst.updXslot (n : Inst) (k : Nat) (f : XSlot → XSlot) : Inst :=
  { n with xslots := n.xslots.set (k % 32) (f (n.xslot k)) (Nat.mod_lt _ (by decide)) }

/-- Row `r` has landed (R132). -/
def XSlot.landed (x : XSlot) (r : Nat) : Bool :=
  x.wrote >>> (256 * r) % 2 ^ 256 == 2 ^ 256 - 1 &&
    (!x.scaled || x.wrote >>> (0x4000 + 64 * r) % 2 ^ 64 == 2 ^ 64 - 1)

/-- The arrival counter: the leading landed rows (R132). -/
def XSlot.arrived (x : XSlot) : Nat := ((List.range 64).takeWhile x.landed).length

/-- The instance of a launch class on a core, running or parked, by a flag. -/
def Core.inst? (k : Core) (parked : Bool) : Inst := if parked then k.parked else k.inst

/-- Change the running or the parked instance of a core. -/
def State.updInstP (s : State) (c : CoreId) (parked : Bool) (f : Inst → Inst) : State :=
  s.updCore c (fun k => if parked then { k with parked := f k.parked } else { k with inst := f k.inst })

/-- Write bytes at an X offset of an instance's window; landing bits advance (R132). -/
def State.writeX (s : State) (c : CoreId) (parked : Bool) (fg : Bool) (off : Nat) (bs : List Byte) : State :=
  let base := ((s.coreAt c).winX fg).1
  let s := s.updCore c (fun k => { k with bufX := k.bufX.writeBytes blkS (xPhys base off) bs })
  s.updInstP c parked (fun n =>
    n.updXslot (xSlotOf off) (fun x => { x with wrote := x.wrote ||| ((2 ^ bs.length - 1) <<< xBit off) }))

/-! ### Trace (R284, R285) -/

/-- Write a trace record for an engine, if it fits; otherwise tracing is full. A record whose place holds no memory is dropped, and
the engine that it records freezes (R24; log 17). -/
def State.traceOut (s : State) (c : CoreId) (e : EngId) (bs : List Byte) : State :=
  let k := s.coreAt c
  let at_ := fieldW k.trc 51 12 * 4096 + k.trp.toNat
  let size := fieldW k.trc 11 0 * 4096
  if k.trcFull then s
  else if size < k.trp.toNat + bs.length then s.updCore c (fun k => { k with trcFull := true })
  else
    let s := if s.populated (s.partOf c) at_ bs.length then s.writePhys at_ bs else s.freezeEng c e 6 at_
    s.updCore c (fun k => { k with trp := k.trp + wordN bs.length })

/-- The header of a record (R285). -/
def traceHdr (ty len eng : Nat) (cont : Bool) (lidx : Nat) : List Byte :=
  bytesLE 8 (ty + len / 8 * 2 ^ 8 + eng * 2 ^ 16 + (if cont then 2 ^ 19 else 0) + lidx % 65536 * 2 ^ 32)

/-- A run of a memory record: first element, count, offset from the base, stride. -/
structure Run where
  first : Nat
  count : Nat
  off : Int
  step : Int
  deriving DecidableEq, Repr

/-- Go on dividing elements with their offsets, ascending, into runs: an element that follows the last of the run under way, at its
step, belongs to it; a new run begins when the index skips or the step changes (R285). A run of one element has no step; `free`
stands for it (log 4). -/
def runsFrom (free : Int) (r : Run) : List (Nat × Int) → List Run
  | [] => [r]
  | (i, o) :: rest =>
    let step := o - (if r.count = 1 then r.off else r.off + ((r.count : Int) - 1) * r.step)
    if i == r.first + r.count && (r.count == 1 || step == r.step) then runsFrom free { r with count := r.count + 1, step := step } rest
    else r :: runsFrom free { first := i, count := 1, off := o, step := free } rest

/-- The runs of elements with their offsets (R285). -/
def runsOf (free : Int) : List (Nat × Int) → List Run
  | [] => []
  | (i, o) :: rest => runsFrom free { first := i, count := 1, off := o, step := free } rest

/-- The bytes of a run. -/
def Run.bytes (r : Run) : List Byte :=
  bytesLE 4 r.first ++ bytesLE 4 r.count ++ bytesLE 8 (unsignedOf 64 r.off) ++ bytesLE 8 (unsignedOf 64 r.step)

/-- Write a memory record and those that continue it, 83 runs each (R285). -/
def State.traceRuns (s : State) (c : CoreId) (e : EngId) (pc base : Word) (cls : Nat) (store : Bool) :
    Nat → List Run → Bool → State
  | 0, _, _ => s
  | n + 1, rs, cont =>
    let now := rs.take 83
    let rec1 := traceHdr 2 (32 + 24 * now.length) e.val cont (s.lidx c) ++ bytesLE 8 pc.toNat ++ bytesLE 8 base.toNat ++
      bytesLE 8 (now.length + cls * 2 ^ 16 + (if store then 2 ^ 20 else 0)) ++ (now.map Run.bytes).flatten
    let s := s.traceOut c e rec1
    if rs.length ≤ 83 then s else State.traceRuns s c e pc base cls store n (rs.drop 83) true

/-- A memory record of the elements of one access, if memory records are on (R284, R285). -/
def State.traceMem (s : State) (c : CoreId) (e : EngId) (pc base : Word) (cls : Nat) (store : Bool)
    (es : List (Nat × Int)) : State :=
  if !(s.coreAt c).trc.getLsbD 62 then s
  else
    let (n, s) := s.free
    let rs := runsOf (signedOf 64 (Config.number n)) es
    s.traceRuns c e pc base cls store (rs.length / 83 + 1) rs false

/-- A strip record after a grant of VL, if strip records are on (R284, R285). -/
def State.traceStrip (s : State) (c : CoreId) (e : EngId) : State :=
  if !(s.coreAt c).trc.getLsbD 63 then s
  else
    let v := (s.engAt c e).v
    s.traceOut c e (traceHdr 1 32 e.val false (s.lidx c) ++ bytesLE 8 s.clk ++ bytesLE 8 v.loopPc.toNat ++
      bytesLE 4 v.stripn ++ bytesLE 4 (if (s.engAt c e).tr.raw then 1024 else v.vl))

/-! ### The checks at an element (R384, R283, R276) -/

/-- The watchpoint that an access of a user address hits; those that have fired do not fire where issue resumes
(R269, R283). Engine commands are not watched, and addresses at supervisor privilege are not virtual (log 18). -/
def Core.watchHit (k : Core) (skip addr len : Nat) (rd wr : Bool) : Option Nat :=
  (List.range 2).find? (fun n =>
    let w := k.wp.toList.getD n 0
    let sz := 2 ^ fieldW w 60 56
    w.getLsbD 63 && ((rd && w.getLsbD 62) || (wr && w.getLsbD 61)) && !skip.testBit (4 + n) &&
      overlaps (fieldW w 51 0 / sz * sz) sz addr len)

/-- The physical place of an access, checked up to step 3 of R384. -/
def State.resolve (s : State) (c : CoreId) (sup : Bool) (sp : Space) (addr len : Nat) (rd wr : Bool) :
    Except AFault Loc :=
  match sp with
  | .s => s.sLoc c sup addr len
  | .g =>
    match s.xlate c sup addr len ((if rd then permR else 0) + (if wr then permW else 0)) with
    | .error f => .error f
    | .ok pa => .ok (.g pa)

/-- The space code of a place for EINFO of uncorrectable data (R123, R265). -/
def Loc.code : Loc → Nat
  | .g _ => 0
  | .s _ _ => 1
  | .park _ _ => 1
  | .x _ _ => 3

/-- Steps 4 and 5 of R384 at a place: a watchpoint, then uncorrectable data. -/
def State.judge (s : State) (c : CoreId) (skip : Nat) (watch : Bool) (l : Loc) (addr len : Nat) (rd wr : Bool) :
    Option AFault :=
  let hit := match l with | .g _ => if watch then (s.coreAt c).watchHit skip addr len rd wr else none | _ => none
  match hit with
  | some n => some (.trap 0x16 (wordN (addr % 2 ^ 52 * 4096 + n)))
  | none =>
    if (rd && s.badRead l len) || (wr && s.badWrite l len) then some (.trap 0x0c (poisonInfo addr l.code)) else none

/-! ### The conditions of R163 -/

/-- An earlier access must perform before a later one, by class, fence, acquire or release. -/
def mustWait (fences : List (Nat × BitVec 16)) (bseq bcls : Nat) (baq : Bool) (aseq acls : Nat) (arl : Bool) : Bool :=
  bseq < aseq && (bcls == acls || bcls == 15 || acls == 15 || baq || arl ||
    fences.any (fun f => bseq < f.1 && f.1 ≤ aseq && f.2.getLsbD bcls && f.2.getLsbD acls))

/-- A waiting access is a memory access: an arrival holds nothing back (R172). -/
def Acc.isAccess (b : Acc) : Bool :=
  match b.kind with
  | .arrive _ _ => false
  | _ => true

/-- A slot of a convoy holds elements that wait in the order machine. -/
def slotOrders (v : VSlot) : Bool := slotIsMem v.op || v.op == .vstX

/-- A place in program order lies in the handler of the trap that is open: what the trap has set aside does not hold it back, as
`eret` issues that again (R178, R267). -/
def Eng.pastAside (g : Eng) (seq : Nat) : Bool := match g.aside with | some a => decide (a.seq ≤ seq) | none => false

/-- The memory slots of a queue of convoys that stand before a place in program order, with the first element that has not
performed. -/
def slotsOf (vq : List QConvoy) (seq : Nat) : List (QConvoy × Nat × VSlot × Nat) :=
  vq.flatMap (fun q =>
    (q.slots.zipIdx).filterMap (fun vj =>
      if slotOrders vj.1 && q.seq + vj.2 < seq then some (q, vj.2, vj.1, q.prog) else none))

/-- The memory slots of the convoys, queued or set aside, that stand before a place in program order. What a trap has set aside of a
convoy, to issue it again, holds nothing back that the convoy has committed (R96, R463; log 95). -/
def Eng.slotsBefore (g : Eng) (seq : Nat) : List (QConvoy × Nat × VSlot × Nat) :=
  slotsOf g.v.vq seq ++
    match g.aside with
    | some a => if g.pastAside seq then [] else (slotsOf a.vq seq).filter (fun x => x.1.seq / 8 != seq / 8)
    | none => []

/-- The waiting accesses of an engine let an access at a place in program order perform: none of them stands before it
under R163. -/
def State.accsAllow (s : State) (c : CoreId) (e : EngId) (seq cls : Nat) (rl : Bool) (ts : List Touch) : Bool :=
  let g := s.engAt c e
  g.accs.all (fun b => !b.isAccess || (b.faulted && g.pastAside seq) || !(mustWait g.fences b.seq b.cls b.aq seq cls rl ||
    (b.seq < seq && ts.any (fun t => s.touch c t b.touch))))

/-- The elements of a slot write: they perform after their group has committed (R163). -/
def slotWrites (v : VSlot) : Bool := vunit v.op == 5 || v.op == .vamo

/-- What an element of a convoy asks of the slots in front of it in its own convoy (R96, R163; log 95). -/
inductive Own where
  /-- A load: nothing of earlier loads, whose groups come in order; all that R163 asks of earlier stores. -/
  | load
  /-- A store of a committed group: the groups that have not committed hold it back by common bytes, aq and rl. -/
  | store
  /-- An element of `vsc` or `vamo`, of a committed group. -/
  | scatter
  deriving DecidableEq, Repr

/-- What an access asks of the slots of its own convoy. -/
def AccKind.own : AccKind → Own
  | .vload _ _ => .load
  | .vamo _ _ _ _ => .scatter
  | .vsc _ => .scatter
  | _ => .store

/-- The elements of queued convoys let an access at a place in program order perform. -/
def State.slotsAllow (s : State) (c : CoreId) (e : EngId) (seq cls : Nat) (rl : Bool) (own : Own) (ts : List Touch) : Bool :=
  let g := s.engAt c e
  (g.slotsBefore seq).all (fun x =>
    let (q, j, v, lo) := x
    let apart : Bool := ts.isEmpty || match slotTouches (s.coreAt c) g q j v lo with
      | some us => !ts.any (fun t => us.any (fun u => s.touch c t u))
      | none => false
    let clear : Bool := !mustWait g.fences (q.seq + j) v.f.cls.toNat v.f.aq seq cls rl && apart
    if q.seq / 8 == seq / 8 then
      match own with
      | .load => !slotWrites v || clear
      | .store => q.stopped || (!v.f.aq && !rl && apart)
      | .scatter => true
    else clear)

/-- An access of an engine at a place in program order may perform: nothing earlier that R163 names is left. `same` lists
the elements of the same access that stand before it. -/
def State.orderOk (s : State) (c : CoreId) (e : EngId) (seq cls : Nat) (rl : Bool) (own : Own) (ts : List Touch)
    (same : List Acc) : Bool :=
  s.accsAllow c e seq cls rl ts && same.all (fun b => !ts.any (fun t => s.touch c t b.touch)) &&
    s.slotsAllow c e seq cls rl own ts

/-- A command of an engine may begin: its earlier accesses of the command's class have performed, and those that a fence
or a strong command names (R166, R170). -/
def State.commandOk (s : State) (c : CoreId) (e : EngId) (seq cls : Nat) (aq : Bool) : Bool :=
  let g := s.engAt c e
  let waits (bseq bcls : Nat) : Bool :=
    bseq < seq && (bcls == cls || cls == 15 || aq ||
      g.fences.any (fun f => bseq < f.1 && f.1 ≤ seq && f.2.getLsbD bcls && f.2.getLsbD cls))
  g.accs.all (fun b => !b.isAccess || (b.faulted && g.pastAside seq) || !waits b.seq b.cls) &&
    (g.slotsBefore seq).all (fun x => !waits (x.1.seq + x.2.1) x.2.2.1.f.cls.toNat)

/-- Every earlier access of the executing engine has performed, as a class-15 command needs (R163, R170). -/
def State.allDone (s : State) : Bool := s.commandOk s.core s.eng s.me.seq 15 false

/-! ### Performing -/

/-- Read a place as an access does; a device register may change as it is read (R272). -/
def State.readAt (s : State) (l : Loc) (len : Nat) : Nat × State :=
  match l with
  | .g a => if devBase ≤ a then s.devRead a len else (numLE (s.mem.readBytes a len), s)
  | _ => (numLE (s.readLoc l len), s)

/-- Write a place as an access of a user or supervisor address does. -/
def State.writeAt (s : State) (c : CoreId) (sup : Bool) (l : Loc) (addr len n : Nat) : State :=
  match l with
  | .g a => if devBase ≤ a then s.devWrite a len (wordN n) else s.writeG (s.recOf c).part sup addr a (bytesLE len n)
  | _ => s.writeLoc l (bytesLE len n)

/-- Remove the `n`-th waiting access of an engine; fences go when nothing is left for them to hold (R165). -/
def Eng.dropAcc (g : Eng) (n : Nat) : Eng :=
  let g := { g with accs := removeAt g.accs n }
  if g.accs.isEmpty && g.v.vq.isEmpty && g.aside.isNone then { g with fences := [] } else g

/-- A line takes the tag of an engine's epoch: one tag an engine, the oldest dropped when a ninth engine comes
(R391). -/
def State.setLink (s : State) (c : CoreId) (e : EngId) (epoch : Nat) (l : Loc) : State :=
  let k := l.line
  let mine (x : Link) : Bool := x.core == c && !x.parkedInst && x.eng == e
  let others := s.links.filter (fun x => !(x.line == k && mine x))
  let here := others.filter (fun x => x.line == k)
  let others := if 8 ≤ here.length then (match here.head? with | some o => others.erase o | none => others) else others
  { s with links := others ++ [{ line := k, core := c, parkedInst := false, eng := e, epoch := BitVec.ofNat 16 epoch }] }

/-- A line holds the link of an engine's epoch (R391). -/
def State.linkHeld (s : State) (c : CoreId) (e : EngId) (epoch : Nat) (l : Loc) : Bool :=
  s.links.any (fun x => x.line == l.line && x.core == c && !x.parkedInst && x.eng == e &&
    x.epoch == BitVec.ofNat 16 epoch && x.epoch == (s.engAt c e).epoch)

/-- A read of a vector load lands: in `seen` for `vwait` and for a segment's table entry, in its group in flight
otherwise (R398, R421). -/
def QConvoy.land (q : QConvoy) (key v : Nat) : QConvoy :=
  let i := key / 8
  let j := key % 4
  match q.slots[j]? with
  | none => q
  | some x =>
    if x.op == .vwait then { q with seen := (key, v) :: q.seen.filter (fun y => y.1 != key) }
    else if x.op == .vmrgs then { q with seen := (key, v) :: q.seen }
    else if x.op == .vsegld && key / 4 % 2 == 1 then { q with seen := (key, v) :: q.seen }
    else { q with fly := q.fly.map (fun f => if f.lo / 2 * 2 ≤ i && i < f.hi then { f with got := (key, v) :: f.got } else f) }

/-- The head convoy of a thread changes, if an access at a place in program order belongs to it. -/
def Eng.ofHead (g : Eng) (seq : Nat) (f : QConvoy → QConvoy) : Eng :=
  match g.v.vq with
  | [] => g
  | q :: rest =>
    if q.seq ≤ seq && seq < q.seq + 8 then { g with v := { g.v with vq := f q :: rest } } else g

/-- The head convoy of a thread takes a read that has performed. -/
def Eng.landV (g : Eng) (seq key v : Nat) : Eng := g.ofHead seq (fun q => q.land key v)

/-- The new value of an element of `vamo` and its flags (R394). -/
def vamoNew (op f w old c cmp : Nat) : Nat × Nat :=
  match op with
  | 3 => (c, 0)
  | 4 => (if old == cmp then c else old, 0)
  | 5 => (old &&& c, 0)
  | 6 => (old ||| c, 0)
  | 0 =>
    if isFloat f then
      let (v, g) := addFV 0 (decodeF f old) (decodeF f c)
      let (b, h) := roundF f 0 false v
      (b, g ||| h)
    else ((old + c) % 2 ^ w, 0)
  | _ =>
    let wantMax := op == 2
    if isFloat f then ((roundF f 0 false (minmaxFV wantMax (decodeF f old) (decodeF f c))).1, 0)
    else
      let lt := if isSigned f then decide (signedOf w old < signedOf w c) else decide (old < c)
      (if lt != wantMax then old else c, 0)

/-- An element performs at its place: a load, store or atomic, scalar or vector (R159, R329, R331, R393, R395). -/
def State.performAt (s : State) (c : CoreId) (e : EngId) (a : Acc) (l : Loc) : State :=
  match a.kind with
  | .load rd sext =>
    let (v, s) := s.readAt l a.bytes
    s.updEng c e (fun g => g.landAt a.seq rd (if sext then sextW a.bytes v else wordN v))
  | .store => s.writeAt c a.sup l a.addr a.bytes a.data
  | .amo op rd =>
    let (v, s) := s.readAt l a.bytes
    let s := s.writeAt c a.sup l a.addr a.bytes (amoNew op a.bytes v a.data a.cmp)
    s.updEng c e (fun g => g.landAt a.seq rd (sextW a.bytes v))
  | .vload key link =>
    let (v, s) := s.readAt l a.bytes
    let s := if link then s.setLink c e a.data l else s
    s.updEng c e (fun g => g.landV a.seq key v)
  | .vamo key op fmt ep =>
    let (v, s) := s.readAt l a.bytes
    let s := (s.writeAt c a.sup l a.addr a.bytes (vamoNew op fmt (8 * a.bytes) v a.data a.cmp).1).setLink c e ep l
    s.updEng c e (fun g => g.landV a.seq key v)
  | .vsc key =>
    -- its own tag stays on a line that it writes (R391, R393)
    let ep := (s.engAt c e).epoch.toNat
    if s.linkHeld c e ep l then
      ((s.writeAt c a.sup l a.addr a.bytes a.data).setLink c e ep l).updEng c e (fun g => g.landV a.seq key 1)
    else s.updEng c e (fun g => g.landV a.seq key 0)
  | _ => s

/-- The record of a scalar memory instruction: once its last access has performed, or when one faults, over those that have performed
(R285). -/
def State.traceAcc (s : State) (c : CoreId) (e : EngId) (a : Acc) (done : Bool) : State :=
  let left := ((s.engAt c e).accs.filter (fun b => b.seq == a.seq && b.isAccess)).map (·.elem)
  if a.vec || (done && !left.isEmpty) then s
  else
    let es := (List.range a.of_).filter (fun i => !left.contains i)
    s.traceMem c e a.pc (wordN (a.addr - a.bytes * a.elem)) a.cls a.kind.writes (es.map (fun i => (i, ((a.bytes * i : Nat) : Int))))

/-- An access faults as it would perform: it stands aside with its trap (R267); a freeze, and a fault while a trap is open, leave it
waiting for its retry (R270, R273). -/
def State.accFault (s : State) (c : CoreId) (e : EngId) (n : Nat) (a : Acc) (f : AFault) : State :=
  match f with
  | .freeze code addr => s.freezeEng c e code addr
  | .trap code info =>
    let fired := firedOf a.skip code info
    let aside (g : Eng) : Eng := { g with accs := setAt g.accs n { a with
      faulted := true, skip := a.skip ||| fired, loc := if a.vec then a.loc else none, gone := false } }
    let s := if (s.engAt c e).tr.trap then s else (s.traceAcc c e a false).updEng c e aside
    s.raiseTrap c e
      { code := code, info := info, epc := a.pc, src := if a.vec then 1 else 0, conv := false, seq := a.seq, acc := some a.seq,
        fired := fired, elem := if a.vec then some a.elem else none }

/-- The conditions of R163 hold for the `n`-th waiting access of an engine, and the engine is not frozen. -/
def State.mayPerform (s : State) (c : CoreId) (e : EngId) (n : Nat) : Bool :=
  let g := s.engAt c e
  match g.accs[n]? with
  | none => false
  | some a =>
    let same := (g.accs.take n).filter (fun b => b.seq == a.seq && b.isAccess)
    -- the elements of one access perform in ascending order in a DET launch (R106)
    (s.instAt c).live && !g.frozen && !a.faulted && !(a.vec && (s.recOf c).det && !same.isEmpty) &&
      s.orderOk c e a.seq a.cls a.rl a.kind.own (if a.isAccess then [a.touch] else []) same

/-- A write at a place meets uncorrectable data in what follows it in its pool (R240). -/
def State.followHit (s : State) (part : Nat) (sup : Bool) (addr : Nat) (l : Loc) (len : Nat) : Bool :=
  match l with
  | .g pa => s.followBad part sup addr pa len
  | _ => false

/-- What stops an access at its place: a header of its pool that it may not write, a device that has gone, a watchpoint, or
uncorrectable data (R27, R239, R283, R384). -/
def State.accStop (s : State) (c : CoreId) (a : Acc) (l : Loc) : Option AFault :=
  if a.kind.writes && a.sp == .g && s.headerHit (s.recOf c).part a.sup a.addr a.bytes then some (.freeze 6 a.addr)
  else
    match s.judge c a.skip (!a.vec && !a.sup) l a.addr a.bytes a.kind.reads a.kind.writes with
    | some f => some f
    | none =>
      if a.gone || (a.kind.writes && s.followHit (s.recOf c).part a.sup a.addr l a.bytes) then some (.trap 0x0c (poisonInfo a.addr l.code))
      else none

/-- Uncorrectable data found in a line breaks its links (R391). -/
def State.foundBad (s : State) (l : Loc) (f : AFault) : State :=
  match f with
  | .trap 0x0c _ => s.breakLinks l
  | _ => s

/-- A waiting access to memory performs, or faults: the place where it goes is judged as it performs. An element of a vector
access that finds uncorrectable data tells its group, which then faults (R276, R384, R396). -/
def State.performMem (s : State) (c : CoreId) (e : EngId) (n : Nat) (a : Acc) : State :=
  let place := match a.loc with
    | some l => Except.ok l
    | none => s.resolve c a.sup a.sp a.addr a.bytes a.kind.reads a.kind.writes
  match place with
  | .error f => s.accFault c e n a f
  | .ok l =>
    match s.accStop c a l with
    | some f =>
      let s := s.foundBad l f
      if a.isV && f.traps then
        s.updEng c e (fun g => (g.dropAcc n).ofHead a.seq (fun q => { q with bad := a.kind.key :: q.bad }))
      else s.accFault c e n a f
    | none =>
      let s := if a.sp == .g then s.tlbFill c a.sup a.addr else s
      ((s.updEng c e (fun g => g.dropAcc n)).performAt c e a l).traceAcc c e a true

/-- The `n`-th waiting access of an engine performs (R160, R161). -/
def State.performAcc (s : State) (c : CoreId) (e : EngId) (n : Nat) : State :=
  match (s.engAt c e).accs[n]? with
  | none => s
  | some a =>
    match a.kind with
    | .arrive d b => (s.updEng c e (fun g => g.dropAcc n)).arriveAt (s.instAt c).launch d b
    | .storeX =>
      -- a slot that has been freed refuses the write (R131)
      if !((s.instAt c).xslot (xSlotOf a.addr)).claimed then s.accFault c e n a (.trap 0x0f (wordN (xSlotOf a.addr)))
      else if s.badWrite (.x c (xPhys ((s.coreAt c).winX (s.fgAt c)).1 a.addr)) a.bytes then
        -- nor does a write reach an uncorrectable word that it does not cover (R276)
        s.accFault c e n a (.trap 0x0c (poisonInfo a.addr 3))
      else (s.updEng c e (fun g => g.dropAcc n)).writeX c false (s.fgAt c) a.addr (bytesLE a.bytes a.data)
    | _ => s.performMem c e n a

end Sys2Proof.Machine
end

