-- ==== Sys2Proof/Machine/System.lean ====
section
/-! DEFINITION. Control registers, traps and their returns, and the system instructions (R89, R100, R115, R116, R148,
R200, R265 to R269, R286, R293, R342 to R350). -/

namespace Sys2Proof.Machine

open Sys2Proof

/-! ### Dirty blocks (R112, R115) -/

/-- The blocks of 8 KiB that register `r` of a placement touches. -/
def VMap.blocksOf (m : VMap) (r : Nat) : List Nat :=
  ((List.range (ceilDiv m.len 1024)).map (fun j => m.byte r (128 * j) / 8192)).foldl (fun l b => insertNat b l) []

/-- A set of blocks as a 32-bit number. -/
def blockBits (bs : List Nat) : Nat := bs.foldl (fun m b => m ||| 1 <<< (b % 32)) 0

/-- The blocks that hold a dirty register of a thread. -/
def VSt.dirtyBlocks (v : VSt) : Nat :=
  let m : VMap := { homes := v.homes, len := v.len, raw := false }
  (List.range 32).foldl (fun acc r =>
    if tgDirty (Tags.at_ v.tags r) then acc ||| blockBits (m.blocksOf r) else acc) 0

/-- SAVE: blocks of dirty registers of the owner, when that is the parked instance (R115). -/
def Core.saveBits (k : Core) : Nat :=
  if k.owner == .parked then
    (List.range 4).foldl (fun acc t => acc ||| (k.parked.engs[t % 5]'(Nat.mod_lt _ (by decide))).v.dirtyBlocks) 0
  else 0

/-- The blocks of a thread's home groups. -/
def VSt.homeBits (v : VSt) : Nat := v.homes.foldl (fun m h => m ||| 0xff <<< (8 * h)) 0

/-- LOAD: blocks of the running instance that lie in the vector image; none for a thread invalidated since (R115,
R357). -/
def Core.loadBits (k : Core) : Nat :=
  if !k.inst.resumed then 0
  else
    let gone := (List.range 4).foldl (fun acc t =>
      let v := (k.inst.engs[t % 5]'(Nat.mod_lt _ (by decide))).v
      if v.inval then acc ||| v.homeBits else acc) 0
    (List.range 32).foldl (fun acc b => if k.inst.held.getLsbD b && !gone.testBit b then acc ||| 1 <<< b else acc) 0

/-- VDIRTY (R115). -/
def State.vdirty (s : State) : Word :=
  if s.me.tr.raw then wordN ((s.coreAt s.core).loadBits * 2 ^ 32 + (s.coreAt s.core).saveBits)
  else
    wordN ((List.range 32).foldl (fun acc r =>
      if tgDirty (Tags.at_ s.me.v.tags r) then acc ||| 1 <<< r else acc) 0)

/-! ### Control registers (R342 to R344) -/

/-- VTYPE of raw view: format `b` with 64-bit elements (R115). -/
def rawVtype : Word := mkVtype 0 3 false false 0 0 fmtB

/-- VTYPE in force. -/
def Eng.vtypeNow (g : Eng) : Word := if g.tr.raw then rawVtype else g.v.vtype

/-- VL in force (R115). -/
def Eng.vlNow (g : Eng) : Nat := if g.tr.raw then 1024 else g.v.vl

/-- ESTAT (R265). -/
def TrapRegs.word (t : TrapRegs) : Word :=
  wordN (t.src % 8 * 256 + (if t.raw then 128 else 0) + (if t.epcw then 64 else 0) + (if t.uirq then 8 else 0) +
    (if t.ppriv then 4 else 0) + (if t.trap then 2 else 0) + (if t.priv then 1 else 0))

/-- VEN (R100). -/
def Inst.venWord (n : Inst) : Word :=
  let w (i : Nat) : Nat := (n.ven.toList.getD i 0) % 256 * 2 ^ (8 * i)
  let run (t : Nat) : Nat := if (n.engs[t % 5]'(Nat.mod_lt _ (by decide))).running then 2 ^ (32 + t) else 0
  wordN (w 0 + w 1 + w 2 + w 3 + run 0 + run 1 + run 2 + run 3)

/-- USTK (R258). -/
def Eng.ustk (g : Eng) : Word := wordN (g.udepth % 65536 * 2 ^ 48 + g.ulimit % 2 ^ 24 * 2 ^ 24 + g.ubase % 2 ^ 24)

/-- The value of a control register on the executing engine. -/
def State.crValue (s : State) (num : Nat) : Word :=
  let g := s.me
  match num with
  | 0x00 => wordN g.vlNow
  | 0x01 => g.vtypeNow
  | 0x02 => wordN g.v.vstart
  | 0x03 => wordN g.v.len
  | 0x04 => wordN g.v.vlcap
  | 0x05 => wordN g.v.vregs
  | 0x06 => s.vdirty
  | 0x07 => (s.instAt s.core).venWord
  | 0x08 => wordN g.v.lslip
  | 0x09 => g.v.stripd
  | 0x0a => wordN g.v.stripn
  | 0x0b => g.vflags
  | 0x0c => if g.sbchk then 1 else 0
  | 0x0d => g.uivec
  | 0x0e => g.ustk
  | 0x0f => wordN g.tr.ecode
  | 0x10 => g.tr.einfo
  | 0x11 => g.tr.epc
  | 0x12 => g.tr.word
  | 0x13 => (s.coreAt s.core).errinj
  | 0x14 => wordN g.twait
  | 0x15 => (s.recOf s.core).param &&& 0xfffffffffffff
  | n => g.v.seg.toList.getD (n - 0x40) 0

/-- A register that only vector threads have (R343). -/
def crThreadOnly (num : Nat) : Bool :=
  (1 ≤ num && num ≤ 6) || (8 ≤ num && num ≤ 0x0a) || 0x40 ≤ num

/-- A register of type PRIV (R343). -/
def crPriv (num : Nat) (caller : Bool) : Bool :=
  num == 0x0f || num == 0x10 || num == 0x11 || num == 0x13 || (num == 4 && !caller)

/-- The ECODE that an access to a control register raises, if any (R343). -/
def State.crFault (s : State) (num : Nat) (write : Bool) : Option Nat :=
  let caller := s.isCaller
  if caller && crThreadOnly num then some 1
  else if !caller && num == 0x0d then some 1
  else if !caller && num == 7 && write then some 1
  else if num == 0x0e && write && s.me.taskOpen then some 1
  else if crPriv num caller && !s.sup then some 3
  else none

/-- An access that first waits until the thread's vector queue is empty (R344). -/
def crWaits (num : Nat) (write : Bool) : Bool :=
  if write then num ≤ 2 || num == 4 || num == 8 || num == 0x0b || 0x40 ≤ num
  else num ≤ 2 || num == 6 || num == 0x0b || 0x40 ≤ num

/-- The largest VL that a VTYPE can grant at a register length: E = L·G / w (R343, R352). -/
def grantable (t : Word) (len : Nat) : Nat := len * vtG t / vtBits t

/-- A weight as VEN stores it (R100). -/
def storeWeight (n : Nat) : Nat := if n = 0 then 1 else n

/-- VLCAP as stored (R100). -/
def storeCap (n : Nat) : Nat := Nat.max 1024 (Nat.min 262144 (floorPow2 (n % 2 ^ 19)))

/-- Write a control register, field by field (R4, R342, R343). In raw view what is written to VL, VTYPE and VSTART is discarded
(R461). -/
def State.crStore (s : State) (num : Nat) (v : Word) : State :=
  let sup := s.sup
  let upV (f : VSt → VSt) : State := s.updV s.core s.eng f
  match num with
  | 0x00 =>
    if s.me.tr.raw then s
    else if s.isCaller then upV (fun x => { x with vl := fieldW v 23 0 })
    else if sup then upV (fun x => { x with vl := Nat.min (fieldW v 23 0) (grantable x.vtype x.len) })
    else s
  | 0x01 => if sup && !s.me.tr.raw then upV (fun x => { x with vtype := v &&& 0xfffff }) else s
  | 0x02 => if sup && !s.me.tr.raw then upV (fun x => { x with vstart := fieldW v 23 0 }) else s
  | 0x04 => (upV (fun x => { x with vlcap := storeCap v.toNat })).reLen s.core s.eng
  | 0x07 =>
    s.updInst s.core (fun n =>
      { n with ven := Vector.ofFn (fun i => storeWeight (fieldW v (8 * i.val + 7) (8 * i.val))) })
  | 0x08 => if (s.recOf s.core).det then s else upV (fun x => { x with lslip := fieldW v 3 0 })
  | 0x09 => upV (fun x => { x with stripd := v &&& 0x3fffff })
  | 0x0a => upV (fun x => { x with stripn := fieldW v 31 0 })
  | 0x0b => s.updMe (fun g => { g with vflags := v &&& 0x7f })
  | 0x0c => s.updMe (fun g => { g with sbchk := v.getLsbD 0 })
  | 0x0d => s.updMe (fun g => { g with uivec := v &&& 0xffffffffffffd })
  | 0x0e =>
    s.updMe (fun g =>
      { g with ubase := fieldW v 23 0 / 32 * 32, ulimit := fieldW v 47 24 / 32 * 32 })
  | 0x0f => s.updMe (fun g => { g with tr := { g.tr with ecode := fieldW v 7 0 } })
  | 0x10 => s.updMe (fun g => { g with tr := { g.tr with einfo := v } })
  | 0x11 => s.updMe (fun g => { g with tr := { g.tr with epc := v &&& 0xffffffffffffc, epcw := true } })
  | 0x13 => s.updCore s.core (fun k => { k with errinj := v &&& 0xe0000000003f3f1f })
  | 0x14 => s.updMe (fun g => { g with twait := fieldW v 31 0 })
  | 0x03 => s
  | 0x05 => s
  | 0x06 => s
  | 0x12 => s
  | 0x15 => s
  | n => upV (fun x => { x with seg := x.seg.set ((n - 0x40) % 64) v (Nat.mod_lt _ (by decide)) })

/-- CR_RD: latency 2 (R304, R342). -/
def execCrRd (r : SReg) (num : BitVec 12) (stl : Stl) (s : State) : Res :=
  match s.crFault num.toNat false with
  | some 3 => s.privileged (.crRd r num stl)
  | some _ => s.illegal (.crRd r num stl)
  | none =>
    if !s.isCaller && crWaits num.toNat false && !s.me.v.vq.isEmpty then s.stall
    else s.writeReg r (s.crValue num.toNat) 2 stl

/-- A write of a control register with the value that an operation gives (R342). -/
def State.crWrite (s : State) (i : Instr) (num : BitVec 12) (f : Word → Word) (stl : Stl) : Res :=
  match s.crFault num.toNat true with
  | some 3 => s.privileged i
  | some _ => s.illegal i
  | none =>
    if !s.isCaller && crWaits num.toNat true && !s.me.v.vq.isEmpty then s.stall
    else .next ((s.crStore num.toNat (f (s.crValue num.toNat))).finish 4 stl [])

/-- CR_WR (R342). -/
def execCrWr (r : SReg) (num : BitVec 12) (stl : Stl) (s : State) : Res :=
  s.crWrite (.crWr r num stl) num (fun _ => s.rg r) stl
/-- CR_SET: old OR rs (R342). -/
def execCrSet (r : SReg) (num : BitVec 12) (stl : Stl) (s : State) : Res :=
  s.crWrite (.crSet r num stl) num (fun old => old ||| s.rg r) stl
/-- CR_CLR: old AND NOT rs (R342). -/
def execCrClr (r : SReg) (num : BitVec 12) (stl : Stl) (s : State) : Res :=
  s.crWrite (.crClr r num stl) num (fun old => old &&& ~~~ s.rg r) stl

/-! ### Traps and returns -/

/-- TRAP: ECODE 0x19 (R345). -/
def execTrap (imm : BitVec 16) (stl : Stl) (s : State) : Res :=
  let _ := stl
  .next (s.trapMe 0x19 (imm.zeroExtend 64))

/-- A tag word of the tag image: thread `t`, register `r` (R111). -/
def Core.tagImage (k : Core) (t r : Nat) : BitVec 32 :=
  BitVec.ofNat 32 (numLE (k.park.readBytes blkS (0x40e00 + 0x80 * t + 4 * r) 4))

/-- The tag words of a thread as the tag image holds them, checked (R206). -/
def Core.loadTags (k : Core) (t regs : Nat) : Vector (BitVec 32) 32 :=
  Tags.checked (Vector.ofFn (fun r => k.tagImage t r.val)) regs

/-- Clear every dirty bit of an instance. -/
def Inst.clean (n : Inst) : Inst :=
  { n with engs := n.engs.map (fun g => { g with v := { g.v with tags := g.v.tags.map (fun t => t &&& ~~~ 0x40000) } }) }

/-- What `eret` from a first-use trap does to the core (R116, R357, R462). -/
def State.takeOwnership (s : State) (c : CoreId) : State :=
  let k := s.coreAt c
  let save := BitVec.ofNat 32 k.saveBits
  let load := k.loadBits
  let s := s.updCore c (fun k =>
    { k with parked := { k.parked with held := k.parked.held ||| save }.clean, owner := .running,
             vrf := if k.inst.resumed then k.vrf.filter (fun b => load.testBit (b.1 / 8192)) else k.vrf })
  let s := (List.range 4).foldl (fun s t =>
    let e : EngId := Fin.ofNat 5 t
    let v := (s.engAt c e).v
    let s := s.updV c e (fun v => { v with inval := false })
    if k.inst.resumed && !v.inval then s.updV c e (fun v => { v with tags := k.loadTags t v.vregs })
    else s.invalidate c e) s
  s.updInst c Inst.clean

/-- The scalar registers that a slot writes: the result of `vred` (R414). -/
def slotDest (v : VSlot) : List Nat := if (vrow v.op).d == .sca then [v.f.vd.toNat] else []

/-- The scalar registers that a queued convoy holds under the scoreboard (R141, R304, R448). -/
def QConvoy.dests (q : QConvoy) : List SReg :=
  (q.slots.flatMap slotDest).map (BitVec.ofNat 5) ++ (match q.abound with | some b => [b.rd] | none => [])

/-- The scalar register that a queued command of the Caller holds under the scoreboard (R141, R447). -/
def cmdDest : Instr → Option SReg
  | .sstrm rd _ _ _ _ | .agather rd _ _ _ _ | .kvalloc rd _ _ _ _ | .kvfree rd _ _ _ | .kvpin rd _ _ _ | .kvunpin rd _ _ _
  | .kvevict rd _ _ _ _ | .kvinv rd _ _ _ _ => some rd
  | _ => none

/-- The register that an access holds under the scoreboard. -/
def Acc.dest (a : Acc) : Option SReg :=
  match a.kind with
  | .load rd _ => some rd
  | .amo _ rd => some rd
  | _ => none

/-- A tile queue of the instance. -/
def Inst.updTq (n : Inst) (q : Fin 2) (f : TileQ → TileQ) : Inst := { n with tqs := n.tqs.set q.val (f n.tqs[q]) q.isLt }

/-- A wait that a trap had interrupted goes on (log 16). -/
def Eng.rewait (g : Eng) (clk : Nat) : Eng :=
  if g.tr.uirq then g
  else
    match g.uiWait with
    | .none => g
    | .woken => ({ g with uiWait := .none }).wake clk
    | w => { g with wait := w, uiWait := .none }

/-- The accesses that have faulted wait again, but for those whose traps are still to come (R267). -/
def Eng.reissue (g : Eng) : Eng :=
  { g with accs := g.accs.map (fun a => if g.traps.any (fun x => x.acc == some a.seq) then a else { a with faulted := false }) }

/-- `eret` with EPCW = 0: the set-aside queue is reinstated, the access that faulted issues again, and scalar issue goes
on at the resume address (R267, R269). The comparators that fired do not fire where issue resumes. -/
def Eng.resume (g : Eng) (a : Aside) (clk : Nat) : Eng :=
  let at_ := if a.firstUse || a.late then a.vstart else g.v.vstart
  let vq := match a.vq with
    | q :: rest => { q with prog := at_, skip := if a.acc.isNone && 16 ≤ a.fired then a.fired / 16 * 16 else q.skip } :: rest
    | [] => []
  Eng.rewait { g.reissue with
    tr := g.tr.leave, aside := none, pc := a.resume, skip := a.skip,
    v := { g.v with vq := vq, vstart := at_ } } clk

/-- `eret` with EPCW = 1: the set-aside queue is discarded and scalar issue goes on at EPC (R269). A register that waited
for what is discarded is unchanged and no longer held. -/
def Eng.resumeAt (g : Eng) (a : Aside) : Eng :=
  let gone (x : Acc) : Bool := a.acc == some x.seq
  let g := a.vq.foldl (fun g q => q.dests.foldl (fun g rd => g.unhold q.seq rd) g) g
  let g := (g.accs.filter gone).foldl (fun g x => match x.dest with | some rd => g.unhold x.seq rd | none => g) g
  let g := { g with accs := g.accs.filter (fun x => !gone x) }.reissue
  { g with
    tr := g.tr.leave, aside := none, pc := g.tr.epc, skip := a.fired, sopSeq := none, fences := if g.accs.isEmpty then [] else g.fences,
    uiWait := if g.tr.uirq then g.uiWait else .none,
    v := { g.v with
      vq := [], vstart := if a.vq.isEmpty then g.v.vstart else 0,
      tags := if a.vq.any QConvoy.isMark then Tags.clearAll g.v.tags else g.v.tags } }

/-- The entry of a stopped tile queue that faulted: one that has come back from an allocator, or the head (R248, R268). -/
def TileQ.faulty (t : TileQ) : Option TqEnt :=
  match t.ents.find? (·.back) with
  | some x => some x
  | none => t.ents.head?

/-- The faulting command of a tile queue is removed, and holds its register no longer (R269). -/
def State.tqDiscard (s : State) (c : CoreId) (q : Fin 2) : State :=
  match (s.instAt c).tqs[q].faulty with
  | none => s
  | some y =>
    let s := s.updInst c (fun n => n.updTq q (fun x => { x with ents := x.ents.erase y }))
    match cmdDest y.cmd with
    | some rd => s.updMe (fun g => g.unhold y.seq rd)
    | none => s

/-- A tile queue goes on after a fault (R269). -/
def TileQ.restart (t : TileQ) : TileQ := { t with stopped := false, ents := t.ents.map (fun x => { x with back := false }) }

/-- ERET (R116, R269). -/
def execEret (stl : Stl) (s : State) : Res :=
  let g := s.me
  let c := s.core
  if !g.tr.priv then s.privileged (.eret stl)
  else if !g.tr.trap then s.illegal (.eret stl)
  else
    match g.aside with
    | none => s.illegal (.eret stl)
    | some a =>
      if !g.v.vq.isEmpty || (a.firstUse && !g.accs.all (fun x => x.seq < a.seq)) then s.stall
      else
        let t := s.finish 4 stl []
        let t := if a.firstUse then t.takeOwnership c else t
        let t := match a.tq with
          | some q => (if g.tr.epcw then t.tqDiscard c q else t).updInst c (fun n => n.updTq q TileQ.restart)
          | none => t
        .next (t.updEng c s.eng (fun h => if h.tr.epcw then h.resumeAt a else h.resume a s.clk))

/-- The registers s24 to s29 and their shadows change places, with what the scoreboard holds of them (R148). -/
def Eng.swapPend (g : Eng) : Eng :=
  { g with
    uipend := BitVec.ofNat 6 (fieldW (g.pend.zeroExtend 64) 29 24),
    pend := (g.pend &&& ~~~ (0x3f000000 : BitVec 32)) ||| (g.uipend.zeroExtend 32 <<< 24),
    lat := g.lat.filter (fun l => !(24 ≤ l.reg && l.reg ≤ 29)) }

/-- A user-level handler ends: its place in program order is kept for the results that are still to land (R148). -/
def Eng.leaveUi (g : Eng) : Eng :=
  let late := g.pend &&& 0x3f000000 != 0
  { g.swapPend with
    tr := { g.tr with uirq := false }, uispans := if late then (g.uiseq, g.seq) :: g.uispans else g.uispans }

/-- UERET: leaves the user-level handler for the address in shadow s24; a wait that it interrupted goes on (R147,
R148). -/
def execUeret (stl : Stl) (s : State) : Res :=
  let g := s.me
  if !g.tr.uirq then s.illegal (.ueret stl)
  else .next ((s.finish 4 stl []).updMe (fun h => ({ h.leaveUi with pc := g.rd 24 }).rewait s.clk))

/-! ### The other system instructions -/

/-- TLBINV: drop the entries that map a page, whatever its size (R348). -/
def execTlbinv (rs1 : SReg) (stl : Stl) (s : State) : Res :=
  let va := fieldW (s.rg rs1) 51 0
  let sup := s.sup
  .next ((s.updCore s.core (fun k =>
    { k with tlb := k.tlb.filter (fun t => (t.parked && !sup) || t.vpage != va / 2 ^ t.bits) })).finish 4 stl [])

/-- TLBINV_ALL (R348). -/
def execTlbinvAll (stl : Stl) (s : State) : Res :=
  let sup := s.sup
  .next ((s.updCore s.core (fun k => { k with tlb := k.tlb.filter (fun t => t.parked && !sup) })).finish 4 stl [])

/-- Device registers, read as aligned words of 8 bytes one after another (R474). -/
def State.devBytes (s : State) (a : Nat) : Nat → List Byte × State
  | 0 => ([], s)
  | n + 1 =>
    let (v, s) := s.devRead a 8
    let (bs, s) := s.devBytes (a + 8) n
    (bytesLE 8 v ++ bs, s)

/-- Bytes that hardware reads at a physical address for an engine of a core: of memory, or of device registers at supervisor
privilege, of which a read narrower than 8 bytes gives the addressed bytes (R24, R276, R474). -/
def State.readAny (s : State) (c : CoreId) (pa len va : Nat) : Except AFault (List Byte × State) :=
  if devBase ≤ pa then
    .ok (if len < 8 then (let (v, s) := s.devRead pa len; (bytesLE len v, s)) else s.devBytes pa (len / 8))
  else
    match s.readPhys (s.partOf c) pa len va with
    | .error f => .error f
    | .ok bs => .ok (bs, s)

/-- LAUNCH: once every earlier access has performed, reads the record and presents it to the dispatcher; rd is held
until the dispatcher answers (R77, R340). -/
def execLaunch (rd rs1 : SReg) (stl : Stl) (s : State) : Res :=
  let a := (s.rg rs1).toNat
  if !s.isCaller then s.illegal (.launch rd rs1 stl)
  else if a % 64 != 0 then .next (s.trapMe 0x04 (misInfo a 64))
  else if !s.allDone then s.stall
  else
    match s.xlate s.core s.sup a 64 permR with
    | .error f => .next (s.deliver s.core s.eng f)
    | .ok pa =>
      match s.readAny s.core pa 64 a with
      | .error f => .next (s.deliver s.core s.eng f)
      | .ok (bs, t) =>
        let sub : Submission :=
          { port := none, core := some s.core, parent := (s.instAt s.core).launch, addr := pa, recBytes := some bs, rd := rd,
            seq := s.me.seq, tag := none, at_ := s.clk }
        .next ((({ t with subs := t.subs ++ [sub] } : State).updMe (fun g => g.setPend rd true)).finish 4 stl [])

/-- UNFREEZE: at supervisor privilege (R274, R349). -/
def execUnfreeze (rd rs1 : SReg) (stl : Stl) (s : State) : Res :=
  if !s.sup then s.privileged (.unfreeze rd rs1 stl)
  else
    let (r, t) := s.unfreeze ((s.rg rs1).truncate 32) (some (s.recOf s.core).part)
    t.writeReg rd (wordN r) 0 stl

/-- The 32 bytes of a lane group's sample (R286): `start`, `chain` and `mport` are free counts (log 7). -/
def State.sampleBytes (s : State) (g n : Nat) : List Byte :=
  let k := s.coreAt s.core
  if k.lanesOut.getLsbD g then List.replicate 32 0
  else
    bytesLE 8 (k.inst.busy.toList.getD g 0) ++ bytesLE 8 (k.inst.elems.toList.getD g 0) ++
      bytesLE 4 (Config.sample 0 g n) ++ bytesLE 4 (Config.sample 1 g n) ++ bytesLE 4 (Config.sample 2 g n) ++
      bytesLE 4 0

/-- PSAMPLE: 128 bytes to S in class 15 (R286, R350). -/
def execPsample (rs1 : SReg) (stl : Stl) (s : State) : Res :=
  let a := s.rg rs1
  if a.toNat % 32 != 0 then .next (s.trapMe 0x04 (misInfo a.toNat 32))
  else
    let (n, s) := s.free
    let bs := (List.range 4).flatMap (fun g => s.sampleBytes g n)
    let accs := (List.range 16).map (fun i =>
      { s.mkAcc .store 15 true (a + wordN (8 * i)) 8 (numLE (slice bs (8 * i) 8)) with elem := i, of_ := 16 })
    .next ((accs.foldl State.pendAcc s).finish 4 stl [])

end Sys2Proof.Machine
end

