-- ==== Sys2Proof/Machine/VConf.lean ====
section
/-! DEFINITION. The vector configuration: `vcfg`, `vstrip`, `vreshape` and `vquad` (R97 to R99, R293, R333, R352 to
R357). -/

namespace Sys2Proof.Machine

open Sys2Proof

/-- VL and PAD that a grant gives for an application vector length (R352, R354). -/
def grant (e b avl : Nat) : Nat × Nat :=
  if avl = 0 then (0, 0)
  else
    let vl := Nat.min e (ceilDiv avl b * b)
    (vl, vl - Nat.min avl vl)

/-- The entry of the vector queue that stands for a clearing of the thread's tags, at its place in program order. -/
def clearMark (pc : Word) (seq : Nat) : QConvoy :=
  { pc := pc, seq := seq, slots := [], scal := [], vl := 0, vtype := 0, twait := 0, abound := none, seg := [], plans := [], grp := 0,
    prog := 0, tot := 0, start := none, blk := [], skip := 0, fly := [], seen := [], bad := [], went := [], expiry := none,
    expired := false, stopped := false }

/-- Clear bits 17:4 of every tag of the thread: after every convoy that has entered (R213, R352). -/
def Eng.clearTags (g : Eng) : Eng :=
  if g.v.vq.isEmpty then { g with v := { g.v with tags := Tags.clearAll g.v.tags } }
  else { g with v := { g.v with vq := g.v.vq ++ [clearMark g.pc g.seq] } }

/-- VL is granted anew on the executing thread: tags are cleared where VL or the block length changes (R213). -/
def State.regrant (s : State) (vl : Nat) (vtype : Word) : State :=
  let v := s.me.v
  let clear := vl != v.vl || vtBlk vtype != vtBlk v.vtype
  if s.me.tr.raw then s
  else
    let s := s.updMe (fun g => if clear then g.clearTags else g)
    s.updMe (fun g => { g with v := { g.v with vl := vl, vtype := vtype } })

/-- The width that `vcfg` names and the application vector length (R352). -/
def vcfgLen (f : VcfgF) (x : Word) : Nat × Nat :=
  if f.fmt.toNat = fmtB then (fieldW x 63 62, fieldW x 61 0) else (0, x.toNat)

/-- VCFG (R352, R353). -/
def execVcfg (f : VcfgF) (stl : Stl) (s : State) : Res :=
  let g := s.me
  let (bw, avl) := vcfgLen f (s.rg f.rs1)
  let fmt := f.fmt.toNat
  let b := 2 ^ f.blk.toNat
  let e := g.v.len * 2 ^ f.grp.toNat / fmtBits fmt bw
  if s.isCaller || g.tr.raw then s.illegal (.vcfg f stl)
  else if g.v.len = 0 then .next (s.trapMe 0x0a 2)
  else if e < b || (fmt == 8 && b < 8) || ((fmt == 9 || fmt == 10) && b < 4) then s.illegal (.vcfg f stl)
  else
    let (vl, pad) := grant e b avl
    let t := s.regrant vl (mkVtype pad bw f.ma f.ta f.grp.toNat f.blk.toNat fmt)
    let t := t.updMe (fun h => { h with v := { h.v with vstart := 0, stripn := 0, loopPc := g.pc } })
    let t := t.traceStrip s.core s.eng
    t.writeReg f.rd (wordN vl) 0 stl

/-- The pointer registers that STRIPD names, with s0 for none (R293). -/
def stripRegs (d : Word) : List SReg := (List.range 4).map (fun k => BitVec.ofNat 5 (fieldW d (6 + 5 * k) (2 + 5 * k)))

/-- The strip stop of SSA and SSN fires (R283). -/
def State.stripStop (s : State) : Bool :=
  let k := s.coreAt s.core
  let g := s.me
  k.ssa.getLsbD 63 && k.ssa.getLsbD (58 + s.eng.val) && (g.v.loopPc &&& 0xffffffffffffc) == (k.ssa &&& 0xffffffffffffc) &&
    (g.v.stripn + 1) % 2 ^ 32 == k.ssn.toNat

/-- VSTRIP (R333). The strip stop comes first, once the vector queue has retired (R283). In raw view VL and VTYPE are what R115 names, and
neither they nor a tag change (R461). -/
def execVstrip (rs : SReg) (off : BitVec 18) (stl : Stl) (s : State) : Res :=
  let g := s.me
  let ptrs := stripRegs g.v.stripd
  if s.isCaller || rs == 0 || ptrs.contains rs || vtFmt g.vtypeNow = 0 then s.illegal (.vstrip rs off stl)
  else if s.stripStop then
    if !g.v.vq.isEmpty then s.stall
    else
      .next ((s.updCore s.core (fun k => { k with ssa := k.ssa &&& 0x7fffffffffffffff })).trapMe 0x17
        (wordN g.v.stripn))
  else
    let n : Int := (g.rd rs).toInt - (g.vlNow : Int)
    let step := wordN (g.vlNow * 2 ^ fieldW g.v.stripd 1 0)
    let t := s.updMe (fun h => ptrs.foldl (fun h j => h.wr j (h.rd j + step)) (h.wr rs (BitVec.ofInt 64 n)))
    let y := g.vtypeNow
    let (vl, pad) := if 0 < n then grant (grantable y g.vmap.len) (vtB y) n.toNat else (0, vtPad y)
    let t := t.regrant vl (mkVtype pad (vtBw y) (vtMa y) (vtTa y) (vtGrp y) (vtBlk y) (vtFmt y))
    let t := t.updMe (fun h => { h with v := { h.v with stripn := (h.v.stripn + 1) % 2 ^ 32 } })
    let t := t.traceStrip s.core s.eng
    .next (if 0 < n then t.finishAt (branchTarget g.pc off) stl else t.finish 4 stl [])

/-- The register count of a `vreshape` code (R355). -/
def reshapeCount (n : BitVec 2) : Nat := if n == 0 then 32 else if n == 1 then 16 else 8

/-- VTYPE, VL and VSTART become 0 on a thread. -/
def State.unshape (s : State) (c : CoreId) (e : EngId) : State :=
  s.updV c e (fun v => { v with vtype := 0, vl := 0, vstart := 0 })

/-- VRESHAPE (R355, R357). -/
def execVreshape (n : BitVec 2) (stl : Stl) (s : State) : Res :=
  let g := s.me
  if s.isCaller || n == 3 || g.tr.raw then s.illegal (.vreshape n stl)
  else if !g.v.vq.isEmpty then s.stall
  else
    let t := s.updV s.core s.eng (fun v =>
      { v with vregs := reshapeCount n, len := regLen v.homes.length (reshapeCount n) v.vlcap })
    .next (((t.invalidate s.core s.eng).unshape s.core s.eng).finish 4 stl [])

/-- A thread takes the home groups that a partition gives it (R97, R356). -/
def State.setHomes (s : State) (c : CoreId) (e : EngId) (homes : List Nat) : State :=
  let v := (s.engAt c e).v
  if homes == v.homes then s
  else
    let s := s.updV c e (fun v => { v with homes := homes, len := regLen homes.length v.vregs v.vlcap })
    (s.invalidate c e).unshape c e

/-- VQUAD (R97, R356, R357). -/
def execVquad (p : BitVec 2) (stl : Stl) (s : State) : Res :=
  let n := s.instAt s.core
  if !s.isCaller || n.runningIn 0xf || (s.recOf s.core).det then s.illegal (.vquad p stl)
  else if p.toNat == n.quad then .next (s.finish 4 stl [])
  else
    let out := (s.coreAt s.core).lanesOut
    let t := s.updInst s.core (fun n => { n with quad := p.toNat })
    let t := (List.range 4).foldl (fun t i => t.setHomes s.core (Fin.ofNat 5 i) (homesOf p.toNat out i)) t
    .next (t.finish 4 stl [])

end Sys2Proof.Machine
end

