-- ==== Sys2Proof/Machine/VPlan.lean ====
section
/-! DEFINITION. What each vector instruction checks when its convoy begins: formats, register groups, overlaps, sort
state, and the result format (R182, R192 to R194, R211, R212, R214, R351, R358, R362, R371 to R378, R381 to R394, R401
to R423, R475). -/

namespace Sys2Proof.Machine

open Sys2Proof

/-- A slot of a thread's convoy. -/
structure SlotX where
  c : CoreId
  e : EngId
  q : QConvoy
  j : Nat
  v : VSlot
  deriving DecidableEq, Repr

/-- The fields of the slot. -/
abbrev SlotX.f (x : SlotX) : VF := x.v.f
/-- The instruction in the slot. -/
abbrev SlotX.op (x : SlotX) : VOp := x.v.op
/-- The VTYPE in force. -/
abbrev SlotX.vt (x : SlotX) : Word := x.q.vtype
/-- The working format. -/
def SlotX.fv (x : SlotX) : Nat := vtFmt x.vt
/-- The working width. -/
def SlotX.wv (x : SlotX) : Nat := vtBits x.vt
/-- The width of a format. -/
def SlotX.bits (x : SlotX) (fmt : Nat) : Nat := fmtBits fmt (vtBw x.vt)
/-- ECODE 0x01 with the slot's word (R265). -/
def SlotX.ill (x : SlotX) : AFault := .trap 1 (encSlot x.v)
/-- ECODE 0x09 with the failing pair of formats (R265). -/
def mixed (a b : Nat) : AFault := .trap 9 (wordN (a % 16 + b % 16 * 16))
/-- ECODE 0x08 with the failing key source (R265). -/
def unsorted (r : VReg) : AFault := .trap 8 (wordN r.toNat)

/-- A group of registers (R358). -/
structure Grp where
  first : Nat
  count : Nat
  deriving DecidableEq, Repr

/-- Two groups share a register. -/
def Grp.meets (a b : Grp) : Bool := overlaps a.first a.count b.first b.count

/-- A group has an allowed size, is aligned to it and ends within the register count (R358). -/
def Grp.ok (g : Grp) (regs : Nat) : Bool := g.count ≤ 8 && g.first % g.count == 0 && g.first + g.count ≤ regs

/-- A destination and a source overlap where R358, or a rule that forbids every overlap, does not allow it. -/
def Grp.clash (strict : Bool) (d s : Grp) : Bool := d.meets s && (strict || d != s)

/-- The group of width `w` at a register (R358). -/
def SlotX.grp (x : SlotX) (r : VReg) (w : Nat) : Grp := { first := r.toNat, count := groupSize x.vt w }

/-- The configured group of G registers at a register. -/
def SlotX.cfgGrp (x : SlotX) (r : VReg) : Grp := { first := r.toNat, count := vtG x.vt }

/-- The format in which a source register is read: its tag's, or the working format (R182). -/
def SlotX.fmtOf (x : SlotX) (t : Tags) (r : VReg) : Nat :=
  let f := tgFmt (Tags.at_ t r.toNat)
  if f = 0 then x.fv else f

/-- The tags that operand checks see: every raw register counts as carrying tag 0 (R461). -/
def Eng.tagsNow (g : Eng) : Tags := if g.tr.raw then Vector.replicate 32 0 else g.v.tags

/-- What the checks of an instruction find: the groups it writes and reads, whether every overlap is forbidden, whether a source
need be aligned to G registers only, as in a merge (R358, R403), whether another limit of ECODE 0x01 is broken, the first fault behind those, its formats, its widest operand in bits, and the
format it writes. -/
structure Desc where
  dst : List Grp
  src : List Grp
  strict : Bool
  loose : Bool
  bad : Bool
  fault : Option AFault
  fa : Nat
  fb : Nat
  fc : Nat
  fr : Nat
  width : Nat
  deriving DecidableEq, Repr

/-- The first fault of a list of checks. -/
def firstFault : List (Option AFault) → Option AFault
  | [] => none
  | some f :: _ => some f
  | none :: rest => firstFault rest

/-- A check. -/
def when (b : Bool) (f : AFault) : Option AFault := if b then some f else none

/-! ### Element-wise instructions (R359, R362 to R373, R424) -/

/-- The immediate of a vi form in the working format, if its high part is zero where it must be (R359). -/
def immVal (fmt w : Nat) (imm : BitVec 16) : Option Nat :=
  match fmt with
  | 8 => if imm.toNat < 16 then some imm.toNat else none
  | 9 => if imm.toNat < 256 then some imm.toNat else none
  | 10 => if imm.toNat < 256 then some imm.toNat else none
  | 11 => some imm.toNat
  | 12 => some imm.toNat
  | 13 => some (imm.toNat * 65536)
  | _ => some (unsignedOf w imm.toInt)

/-- The result of a promotion, or ECODE 0x09 (R194). -/
def joined (a b : Nat) : Except AFault Nat :=
  match promote a b with
  | some f => .ok f
  | none => .error (mixed a b)

/-- The result format of an element-wise instruction from its sources' formats (R362 to R373, R424). -/
def ewFmt (op : VOp) (fv fa fb fc : Nat) : Except AFault Nat :=
  match op with
  | .vmov => .ok fa
  | .vbcast => .ok fv
  | .vid => .ok fv
  | .vsel => if fa == fb then .ok fa else .error (mixed fa fb)
  | .vclass =>
    if fa == 9 || fa == 10 then .ok 2 else if fa == 11 || fa == 12 then .ok 4
    else if fa == 13 then .ok 6 else .error (mixed fa fa)
  | .vand | .vor | .vxor =>
    if isFloat fa || isFloat fb then .error (mixed fa fb)
    else if fa == fmtB then .ok fb else if fb == fmtB then .ok fa else joined fa fb
  | .vnot => if isFloat fa then .error (mixed fa fa) else .ok fa
  | .vshl | .vshr | .vsra => if isFloat fa || (isFloat fb && fa != fmtB) then .error (mixed fa fb) else .ok fa
  | .vabs | .vneg => if fa == fmtB then .error (mixed fa fa) else .ok fa
  | .vadds | .vsubs =>
    (match joined fa fb with
    | .ok f => if isFloat f then .error (mixed fa fb) else .ok f
    | .error e => .error e)
  | .vdiv =>
    (match joined fa fb with
    | .ok f => if isFloat f then .ok f else .error (mixed fa fb)
    | .error e => .error e)
  | .vsqrt | .vrsqrt | .vrcp => if isFloat fa then .ok fa else .error (mixed fa fa)
  | .vsin | .vcos | .vexp2 | .vlog2 | .vtanh | .vsigm =>
    if 11 ≤ fa && fa ≤ 13 then .ok fa else .error (mixed fa fa)
  | .vfma | .vfms | .vfnma =>
    (match joined fa fb with
    | .ok f => joined f fc
    | .error e => .error e)
  | _ => joined fa fb

/-- The checks of an element-wise instruction. A destination whose format a fault leaves undefined is sized by the first
source. -/
def SlotX.descEw (x : SlotX) (t : Tags) : Desc :=
  let row := vrow x.op
  let ua := row.a == .vec
  let ub := bUse row x.f.form == .vec
  let uc := row.c == .vec
  let fa := if ua then x.fmtOf t x.f.vs1 else x.fv
  let fb := if ub then x.fmtOf t x.f.vs2 else x.fv
  let fc := if uc then x.fmtOf t x.f.vs3 else x.fv
  let r := ewFmt x.op x.fv fa fb fc
  let fr := match r with | .ok f => f | .error _ => fa
  let srcs := (if ua then [(x.f.vs1, fa)] else []) ++ (if ub then [(x.f.vs2, fb)] else []) ++
    (if uc then [(x.f.vs3, fc)] else [])
  { dst := if x.op == .vcmp then [] else [x.grp x.f.vd (x.bits fr)], src := srcs.map (fun s => x.grp s.1 (x.bits s.2)),
    strict := false, loose := false, bad := x.f.form == 2 && (immVal x.fv x.wv (vimm x.f)).isNone,
    fault := match r with | .ok _ => none | .error e => some e,
    fa := fa, fb := fb, fc := fc, fr := fr,
    width := Nat.max (if bUse row x.f.form == .sca || x.f.form == 2 then x.wv else 0)
      ((srcs.map (fun s => x.bits s.2)).foldl Nat.max (if x.op == .vcmp then 0 else x.bits fr)) }

/-- A mask instruction checks nothing (R370); an element of a mask is one bit wide (R95, R361). -/
def SlotX.descMask : Desc :=
  { dst := [], src := [], strict := false, loose := false, bad := false, fault := none, fa := 0, fb := 0, fc := 0, fr := 0, width := 1 }

/-! ### Widening and conversion (R374 to R379) -/

/-- A format with block scales (R189). -/
def isNarrow (f : Nat) : Bool := f == 8 || f == 9 || f == 10

/-- Sources of `vwmac` and `vdot.blk`: floats of the working width, one format, or fp8e4 with fp8e5 (R377). -/
def SlotX.wideOk (x : SlotX) (fa fb : Nat) : Bool :=
  isFloat fa && isFloat fb && x.bits fa == x.wv && x.bits fb == x.wv && (fa == fb || (fa == 9 || fa == 10))

/-- The checks of `vwmac`. -/
def SlotX.descWmac (x : SlotX) (t : Tags) : Desc :=
  let fa := x.fmtOf t x.f.vs1
  let fb := x.fmtOf t x.f.vs2
  let ft := tgFmt (Tags.at_ t x.f.vd.toNat)
  { dst := [x.grp x.f.vd 32], src := [x.grp x.f.vs1 x.wv, x.grp x.f.vs2 x.wv], strict := true, loose := false, bad := false,
    fault := firstFault [when (!x.wideOk fa fb) (mixed fa fb), when (ft != 0 && ft != 13) (mixed ft 13)],
    fa := fa, fb := fb, fc := 13, fr := 13, width := 32 }

/-- The scale group of a narrow operand of `n` registers (R376). -/
def scaleGrp (first n : Nat) : Grp := { first := first, count := Nat.max 1 (n / 4) }

/-- The checks of `vdot.blk` (R378). -/
def SlotX.descDot (x : SlotX) (t : Tags) : Desc :=
  let fa := x.fmtOf t x.f.vs1
  let fb := x.fmtOf t x.f.vs2
  let g := vtG x.vt
  let scales := (if isNarrow fa then [scaleGrp (x.f.vs1.toNat + g) g] else []) ++
    (if isNarrow fb then [scaleGrp (x.f.vs2.toNat + g) g] else [])
  { dst := [{ first := x.f.vd.toNat, count := Nat.max 1 (g * 32 / (x.wv * vtB x.vt)) }],
    src := [x.grp x.f.vs1 x.wv, x.grp x.f.vs2 x.wv] ++ scales, strict := true, loose := false, bad := false,
    fault := when (!x.wideOk fa fb) (mixed fa fb), fa := fa, fb := fb, fc := 13, fr := 13, width := 32 }

/-- The checks of `vcvt` (R374, R376). -/
def SlotX.descCvt (x : SlotX) (t : Tags) : Desc :=
  let fa := x.fmtOf t x.f.vs1
  let fd := vdstFmt x.f
  let s := x.grp x.f.vs1 (x.bits fa)
  let d := x.grp x.f.vd (x.bits fd)
  let an := isNarrow fa
  let dn := isNarrow fd
  let vs2 := x.f.vs2 != 0
  let vs3 := x.f.vs3 != 0
  let sc := scaleGrp x.f.vs2.toNat (if dn then d.count else s.count)
  { dst := [d], src := s :: (if vs2 then [sc] else []), strict := x.bits fa != x.bits fd, loose := false,
    bad := (!an && !dn && (vs2 || vs3)) || (an && !dn && vs3) || (vs2 && d.meets sc),
    fault := when (fa == fmtB) (mixed fa fd), fa := fa, fb := 2, fc := 0, fr := fd,
    width := Nat.max (x.bits fa) (x.bits fd) }

/-! ### Memory (R380 to R399, R421) -/

/-- The instruction addresses elements by an index group. -/
def indexed (op : VOp) : Bool :=
  op == .vldx || op == .vgl || op == .vstx || op == .vsc || op == .vamo || op == .vwait

/-- The formats that an operation of `vamo` takes (R394). -/
def amoFmtOk (op f : Nat) : Bool := op == 3 || op == 4 || (if op ≤ 2 then isInt f || isFloat f else isInt f || f == fmtB)

/-- The tag of store data is 0 or a format of the working width (R383). -/
def SlotX.dataOk (x : SlotX) (ft : Nat) : Bool := ft == 0 || x.bits ft == x.wv

/-- SEG is not non-decreasing (R418). -/
def segBad (seg : List Word) : Bool :=
  !(List.range 63).all (fun i => (seg.getD i 0).toNat ≤ (seg.getD (i + 1) 0).toNat)

/-- The checks of a load, store, atomic or wait. -/
def SlotX.descMem (x : SlotX) (t : Tags) : Desc :=
  let op := x.op
  let f := x.f
  let fx := if indexed op then x.fmtOf t f.vs2 else 0
  let gd := x.grp f.vd x.wv
  let gx := x.grp f.vs2 (x.bits fx)
  let gc := x.grp f.vs3 x.wv
  let stores := vunit op == 5
  let ft := tgFmt (Tags.at_ t f.vd.toNat)
  let fc := tgFmt (Tags.at_ t f.vs3.toNat)
  let sx := (x.q.sc x.j 0).toNat
  let es := if x.wv < 8 then 1 else x.wv / 8
  { dst := if stores then [] else [gd],
    src := (if stores then [gd] else []) ++ (if indexed op then [gx] else []) ++ (if op == .vamo then [gc] else []),
    strict := op == .vsegld, loose := false,
    bad := (op == .vamo && gc.clash false gx) ||
      (x.wv < 8 && (op == .vst || op == .vstX) && (f.mask != 0 || f.neg || vtPad x.vt % 2 == 1)) ||
      (op == .vldZ && x.fv == 13 && 63 < bitsOf (vmods f) 5 0 + (x.q.vl - 1) / 64) ||
      (op == .vsegld && segBad x.q.seg),
    fault := firstFault [
      when (x.wv < 8 && !(op == .vld || op == .vst || op == .vstX)) (mixed x.fv x.fv),
      when (stores && !x.dataOk ft) (mixed ft x.fv),
      when (indexed op && !isInt fx) (mixed fx fx),
      when (op == .vstX && sx % es != 0) (.trap 4 (misInfo sx es)),
      when (op == .vldZ && x.fv != 13) (mixed x.fv 13),
      when (op == .vwait && !(isInt x.fv || x.fv == fmtB)) (mixed x.fv x.fv),
      when (op == .vamo && fc != 0 && fc != x.fv) (mixed fc x.fv),
      when (op == .vamo && !amoFmtOk (vaop f) x.fv) (mixed x.fv x.fv)],
    fa := 0, fb := fx, fc := 0, fr := x.fv, width := Nat.max x.wv (x.bits fx) }

/-- The checks of `vmm`: none of registers (R399). -/
def SlotX.descVmm (x : SlotX) : Desc :=
  let _ := x
  { dst := [], src := [], strict := false, loose := false, bad := false, fault := none, fa := 0, fb := 0, fc := 0, fr := 0, width := 64 }

/-! ### The sort unit (R211, R212, R214, R403 to R411) -/

/-- The span of the run group of a register, in registers. -/
def runSpan (t : Tags) (r : VReg) : Nat := 2 ^ tgSpan (Tags.at_ t r.toNat)

/-- A key source does not meet the demand of R212: it stands at POS 0 of a sorted run group, of `g` registers or more (R205), in the
direction wanted. -/
def unmet (t : Tags) (g : Nat) (r : VReg) (want : Nat) : Bool :=
  let x := Tags.at_ t r.toNat
  tgPos x != 0 || runSpan t r < g || !(tgSort x == 1 || tgSort x == 2) || (want != 0 && tgSort x != want)

/-- The payload register of a linked key source. -/
def payOf (t : Tags) (r : VReg) : VReg := BitVec.ofNat 5 (tgPlreg (Tags.at_ t r.toNat))

/-- A key format that the sort unit does not take from registers: fp4, or not of the working width (R403). -/
def SlotX.keyBad (x : SlotX) (f : Nat) : Bool := f == 8 || x.bits f != x.wv

/-- The checks of `vsortr`, `vchk` and `vpart`, whose source is a configured group (R404, R405, R409). -/
def SlotX.descSort1 (x : SlotX) (t : Tags) : Desc :=
  let f := x.f
  let pay := x.op == .vsortr && f.vs2 != 0
  let fk := x.fmtOf t f.vs1
  let fp := if pay then x.fmtOf t f.vs3 else 0
  { dst := (if x.op == .vchk then [] else [x.cfgGrp f.vd]) ++ (if pay then [x.cfgGrp f.vs2] else []),
    src := x.cfgGrp f.vs1 :: (if pay then [x.cfgGrp f.vs3] else []), strict := true, loose := false, bad := 1024 < x.q.vl,
    fault := firstFault [when (x.keyBad fk) (mixed fk fk), when (pay && x.bits fk < x.bits fp) (mixed fk fp)],
    fa := fk, fb := fk, fc := fp, fr := fk, width := x.wv }

/-- The checks of `vmerge`, `vinter` and `vuniq` (R406, R407). -/
def SlotX.descMerge (x : SlotX) (t : Tags) : Desc :=
  let f := x.f
  let two := x.op != .vuniq
  let both := x.op == .vmerge
  let sa := runSpan t f.vs1
  let sb := if two then runSpan t f.vs2 else sa
  let g := vtG x.vt
  let ds := if both then 2 * sa else sa
  let pay := f.vs3 != 0
  let plv (r : VReg) : Bool := tgPlv (Tags.at_ t r.toNat)
  let fa := x.fmtOf t f.vs1
  let fb := if two then x.fmtOf t f.vs2 else fa
  let pa := payOf t f.vs1
  let pb := if both then payOf t f.vs2 else pa
  let fpa := x.fmtOf t pa
  let fpb := x.fmtOf t pb
  let srt := tgSort (Tags.at_ t f.vs1.toNat)
  let regs := fun (r : VReg) (n : Nat) => ({ first := r.toNat, count := n } : Grp)
  { dst := regs f.vd ds :: (if pay then [regs f.vs3 ds] else []),
    src := regs f.vs1 sa :: ((if two then [regs f.vs2 sb] else []) ++
      (if pay && plv f.vs1 then [regs pa sa] else []) ++ (if pay && both && plv f.vs2 then [regs pb sb] else [])),
    strict := true, loose := true, bad := vtPad x.vt != 0 || (both && sa != sb),
    fault := firstFault [
      when (x.keyBad fa || fb != fa) (mixed fa fb),
      when (pay && plv f.vs1 && (!both || plv f.vs2) && fpa != fpb) (mixed fpa fpb),
      when (unmet t g f.vs1 0) (unsorted f.vs1), when (two && unmet t g f.vs2 srt) (unsorted f.vs2),
      when (pay && !plv f.vs1) (unsorted f.vs1), when (pay && both && !plv f.vs2) (unsorted f.vs2)],
    fa := fa, fb := fb, fc := fpa, fr := fa, width := x.wv }

/-- The checks of `vrank` (R408). -/
def SlotX.descRank (x : SlotX) (t : Tags) : Desc :=
  let f := x.f
  let s := runSpan t f.vs1
  let fk := x.fmtOf t f.vs1
  let fq := x.fmtOf t f.vs2
  { dst := [x.grp f.vd 32], src := [{ first := f.vs1.toNat, count := s }, x.cfgGrp f.vs2], strict := true, loose := true,
    bad := vtPad x.vt != 0,
    fault := firstFault [when (x.keyBad fk || fq != fk) (mixed fk fq), when (unmet t (vtG x.vt) f.vs1 0) (unsorted f.vs1)],
    fa := fk, fb := fq, fc := 0, fr := 6, width := Nat.max 32 x.wv }

/-! ### Cross-lane (R413 to R423) -/

/-- The accumulator's format: f32, i64 for signed integers, and 64-bit unsigned for the others (R202). -/
def accFmt (f : Nat) : Nat := if isFloat f then 13 else if isSigned f then 7 else fmtB

/-- The destination group of a scan: g(w_v) registers, or as many as its elements, which have the source's format, take (R415; log 96). -/
def SlotX.scanGrp (x : SlotX) (w : Nat) : Grp :=
  { first := x.f.vd.toNat, count := Nat.max (groupSize x.vt x.wv) (groupSize x.vt w) }

/-- The checks of a reduction or scan (R413 to R420). The steps of a scan run in the accumulator's format, but its operands have the
source's width (R95). -/
def SlotX.descRed (x : SlotX) (s : State) (t : Tags) : Desc :=
  let f := x.f
  let op := x.op
  let fa := x.fmtOf t f.vs1
  let wa := if isFloat fa then 32 else 64
  let src := x.grp f.vs1 (x.bits fa)
  let seg := op == .vsegred || op == .vsegscan
  let scan := op == .vscan || op == .vsegscan
  let dst := if op == .vred then [] else if scan then [x.scanGrp (x.bits fa)] else [x.grp f.vd wa]
  let len := (s.engAt x.c x.e).vmap.len
  { dst := dst, src := [src], strict := true, loose := false,
    bad := (vseq f && (s.recOf x.c).det) || (seg && segBad x.q.seg) ||
      (op == .vsegred && (x.grp f.vd wa).count * len / wa < 64),
    fault := when (!(isInt fa || isFloat fa) || (2 < vcond f && !isInt fa)) (mixed fa fa),
    fa := fa, fb := 0, fc := 0, fr := if op == .vsegred then (if isFloat fa then 13 else 7) else fa,
    width := if scan then x.bits fa else Nat.max (x.bits fa) wa }

/-- The checks of a permute (R422, R423). -/
def SlotX.descPerm (x : SlotX) (t : Tags) : Desc :=
  let f := x.f
  let fa := x.fmtOf t f.vs1
  let fx := if x.op == .vperm then x.fmtOf t f.vs2 else 0
  { dst := [x.grp f.vd (x.bits fa)],
    src := x.grp f.vs1 (x.bits fa) :: (if x.op == .vperm then [x.grp f.vs2 (x.bits fx)] else []), strict := true, loose := false,
    bad := x.op == .vslide && f.form == 2 && (vimm f).getLsbD 15,
    fault := when (x.op == .vperm && !isInt fx) (mixed fx fx),
    fa := fa, fb := fx, fc := 0, fr := fa, width := Nat.max (x.bits fa) (x.bits fx) }

/-! ### Every instruction -/

/-- The checks of a slot's instruction under the tags that earlier slots leave. -/
def SlotX.desc (x : SlotX) (s : State) (t : Tags) : Desc :=
  match x.op with
  | .vmand | .vmor | .vmnot => SlotX.descMask
  | .vwmac => x.descWmac t
  | .vdotBlk => x.descDot t
  | .vcvt => x.descCvt t
  | .vld | .vlds | .vldx | .vgl | .vldIpb | .vldZ | .vst | .vsts | .vstx | .vstX | .vsc | .vamo | .vwait | .vsegld =>
    x.descMem t
  | .vmmCopy | .vmmFill | .vmrgs => x.descVmm
  | .vsortr | .vchk | .vpart => x.descSort1 t
  | .vmerge | .vinter | .vuniq => x.descMerge t
  | .vrank => x.descRank t
  | .vred | .vscan | .vsegred | .vsegscan => x.descRed s t
  | .vperm | .vcompress | .vexpand | .vslide | .vrev => x.descPerm t
  | _ => x.descEw t

/-- The instruction works under the VTYPE; in `vmm` it plays no part (R351, R399). -/
def usesVtype (op : VOp) : Bool := !(op == .vmmCopy || op == .vmmFill)

/-- A source of the slot holds the destination of a `vdot.blk` of an earlier slot (R379). A destination that the
instruction also reads counts as a source. -/
def SlotX.readsDot (x : SlotX) (d : Desc) (dots : List Grp) : Bool :=
  let also := if x.op == .vwmac || x.op == .vdotBlk || x.op == .vwait || (x.op == .vamo && vaop x.f == 4) then d.dst else []
  (d.src ++ also).any (fun g => dots.any (fun h => g.meets h))

/-- The groups of an instruction overlap where that is forbidden (R358, R214, R379, R416). -/
def SlotX.overlapBad (x : SlotX) (d : Desc) (dots : List Grp) : Bool :=
  let selfMeet := match d.dst with | [a, b] => a.meets b | _ => false
  d.dst.any (fun a => d.src.any (fun b => a.clash d.strict b)) || selfMeet || x.readsDot d dots

/-- The first fault of a slot's checks: ECODE 0x01 for an overlap, judged by the groups `d0` under the tags that the earlier convoys
left, or for a limit, then the others (R403, R475). -/
def SlotX.checks (x : SlotX) (s : State) (d0 d : Desc) (dots : List Grp) : Option AFault :=
  let g := s.engAt x.c x.e
  if usesVtype x.op && !vtypeOk x.vt g.vmap.len then some x.ill
  else if x.overlapBad d0 dots then some x.ill
  else if d.bad || d.dst.any (fun a => !a.ok g.vregsNow) ||
      d.src.any (fun a => if d.loose then a.first % vtG x.vt != 0 || g.vregsNow < a.first + a.count else !a.ok g.vregsNow)
    then some x.ill
  else d.fault

/-- The whole source group of a `vmov` or of a float `vneg` under mask m0 is one run group, of G registers (R212). -/
def SlotX.copiesRun (x : SlotX) (t : Tags) (fr : Nat) : Bool :=
  let y := Tags.at_ t x.f.vs1.toNat
  (x.op == .vmov || (x.op == .vneg && isFloat fr)) && x.f.mask == 0 && !x.f.neg && tgPos y == 0 &&
    (tgSort y == 1 || tgSort y == 2) && 2 ^ tgSpan y == (x.grp x.f.vs1 (x.bits fr)).count && 2 ^ tgSpan y == vtG x.vt

/-- The tags after a slot's plain write of its destination, and of a merge's payload destination (R212, R213, R362). The sort unit's
own marks are set when it has written all. -/
def SlotX.retag (x : SlotX) (t : Tags) (d : Desc) : Tags :=
  match d.dst with
  | [] => t
  | g :: more =>
    let y := Tags.at_ t x.f.vs1.toNat
    let copy := x.copiesRun t d.fr
    let t := more.foldl (fun t p => Tags.write t p.first p.count d.fc) (Tags.write t g.first g.count d.fr)
    if copy then Tags.setRun t g.first (tgSpan y) d.fr (if x.op == .vneg then 3 - tgSort y else tgSort y) none else t

end Sys2Proof.Machine
end

