-- ==== Sys2Proof/Machine/VArith.lean ====
section
/-! DEFINITION. The element function of each element-wise instruction: from the bits of its source elements to the bits
of its result and the flags raised (R184, R187, R199, R201, R363 to R378). -/

namespace Sys2Proof.Machine

open Sys2Proof

/-- The formats of an element-wise instruction: sources, result, the BW of format `b`, and the rounding mode. -/
structure El where
  fa : Nat
  fb : Nat
  fc : Nat
  fr : Nat
  bw : Nat
  rnd : Nat
  deriving DecidableEq, Repr

/-- The width of a format. -/
def El.w (k : El) (f : Nat) : Nat := fmtBits f k.bw

/-- The result's width. -/
def El.wr (k : El) : Nat := k.w k.fr

/-- An integer or `b` element as the result format reads it (R193, R369). -/
def El.ival (k : El) (f bits : Nat) : Int :=
  let v : Int := if isSigned f then signedOf (k.w f) bits else ((bits % 2 ^ k.w f : Nat) : Int)
  let r := unsignedOf k.wr v
  if isSigned k.fr then signedOf k.wr r else (r : Int)

/-- Two integers give a result modulo 2^w (R184). -/
def El.int2 (k : El) (op : Int → Int → Int) (a b : Nat) : Nat × Nat :=
  (unsignedOf k.wr (op (k.ival k.fa a) (k.ival k.fb b)), 0)

/-- Two integers give a result clamped to the format (R184, R363). -/
def El.clamp2 (k : El) (op : Int → Int → Int) (a b : Nat) : Nat × Nat :=
  let (v, out) := clampInt k.fr (op (k.ival k.fa a) (k.ival k.fb b))
  (unsignedOf k.wr v, if out then flSAT else 0)

/-- Deliver a float value under the instruction's rounding mode. -/
def El.out (k : El) (r : FV × Nat) : Nat × Nat := deliver k.fr k.rnd r

/-! ### Arithmetic (R363 to R366) -/

/-- vadd. -/
def elVadd (k : El) (a b : Nat) : Nat × Nat :=
  if isFloat k.fr then k.out (addFV k.rnd (decodeF k.fa a) (decodeF k.fb b)) else k.int2 (· + ·) a b

/-- vsub. -/
def elVsub (k : El) (a b : Nat) : Nat × Nat :=
  if isFloat k.fr then k.out (addFV k.rnd (decodeF k.fa a) (negFV (decodeF k.fb b))) else k.int2 (· - ·) a b

/-- vadds. -/
def elVadds (k : El) (a b : Nat) : Nat × Nat := k.clamp2 (· + ·) a b

/-- vsubs. -/
def elVsubs (k : El) (a b : Nat) : Nat × Nat := k.clamp2 (· - ·) a b

/-- vmul. -/
def elVmul (k : El) (a b : Nat) : Nat × Nat :=
  if isFloat k.fr then k.out (mulFV (decodeF k.fa a) (decodeF k.fb b)) else k.int2 (· * ·) a b

/-- vmin: exact, with no rounding (R199). -/
def elVmin (k : El) (a b : Nat) : Nat × Nat :=
  if isFloat k.fr then ((roundF k.fr 0 false (minmaxFV false (decodeF k.fa a) (decodeF k.fb b))).1, 0)
  else k.int2 (fun x y => if x ≤ y then x else y) a b

/-- vmax. -/
def elVmax (k : El) (a b : Nat) : Nat × Nat :=
  if isFloat k.fr then ((roundF k.fr 0 false (minmaxFV true (decodeF k.fa a) (decodeF k.fb b))).1, 0)
  else k.int2 (fun x y => if x ≤ y then y else x) a b

/-- vdiv. -/
def elVdiv (k : El) (a b : Nat) : Nat × Nat := k.out (divFV (decodeF k.fa a) (decodeF k.fb b))

/-- vsqrt. -/
def elVsqrt (k : El) (a : Nat) : Nat × Nat := k.out (sqrtFV (decodeF k.fa a))

/-- vrsqrt. -/
def elVrsqrt (k : El) (a : Nat) : Nat × Nat := k.out (rsqrtFV (decodeF k.fa a))

/-- vrcp. -/
def elVrcp (k : El) (a : Nat) : Nat × Nat := k.out (divFV (.fin false 1 0) (decodeF k.fa a))

/-- A product and a sum with one rounding; a product 0 · Inf raises NV whatever c is (R366). -/
def El.fused (k : El) (negP negC : Bool) (a b c : Nat) : Nat × Nat :=
  let (p, f) := mulFV (decodeF k.fa a) (decodeF k.fb b)
  let z := decodeF k.fc c
  let (r, g) := addFV k.rnd (if negP then negFV p else p) (if negC then negFV z else z)
  k.out (r, f ||| g)

/-- Three integers modulo 2^w (R366). -/
def El.int3 (k : El) (op : Int → Int → Int → Int) (a b c : Nat) : Nat × Nat :=
  (unsignedOf k.wr (op (k.ival k.fa a) (k.ival k.fb b) (k.ival k.fc c)), 0)

/-- vfma. -/
def elVfma (k : El) (a b c : Nat) : Nat × Nat :=
  if isFloat k.fr then k.fused false false a b c else k.int3 (fun x y z => x * y + z) a b c

/-- vfms. -/
def elVfms (k : El) (a b c : Nat) : Nat × Nat :=
  if isFloat k.fr then k.fused false true a b c else k.int3 (fun x y z => x * y - z) a b c

/-- vfnma. -/
def elVfnma (k : El) (a b c : Nat) : Nat × Nat :=
  if isFloat k.fr then k.fused true false a b c else k.int3 (fun x y z => z - x * y) a b c

/-! ### Bits, shifts and signs (R367, R368) -/

/-- vand. -/
def elVand (k : El) (a b : Nat) : Nat × Nat :=
  (unsignedOf k.wr (k.ival k.fa a) &&& unsignedOf k.wr (k.ival k.fb b), 0)

/-- vor. -/
def elVor (k : El) (a b : Nat) : Nat × Nat :=
  (unsignedOf k.wr (k.ival k.fa a) ||| unsignedOf k.wr (k.ival k.fb b), 0)

/-- vxor. -/
def elVxor (k : El) (a b : Nat) : Nat × Nat :=
  (unsignedOf k.wr (k.ival k.fa a) ^^^ unsignedOf k.wr (k.ival k.fb b), 0)

/-- vnot. -/
def elVnot (k : El) (a : Nat) : Nat × Nat := (2 ^ k.wr - 1 - a % 2 ^ k.wr, 0)

/-- The shift amount: the low log2(w) bits of b (R367). -/
def El.sh (k : El) (b : Nat) : Nat := b % k.wr

/-- vshl. -/
def elVshl (k : El) (a b : Nat) : Nat × Nat := (a * 2 ^ k.sh b % 2 ^ k.wr, 0)

/-- vshr. -/
def elVshr (k : El) (a b : Nat) : Nat × Nat := (a % 2 ^ k.wr / 2 ^ k.sh b, 0)

/-- vsra: arithmetic whatever the signedness of a. -/
def elVsra (k : El) (a b : Nat) : Nat × Nat := (unsignedOf k.wr (signedOf k.wr a / (2 ^ k.sh b : Nat)), 0)

/-- vabs: floats lose their sign, NaN included; the least signed value stays as it is. -/
def elVabs (k : El) (a : Nat) : Nat × Nat :=
  if isFloat k.fa then (a % signBit k.fa, 0)
  else if isSigned k.fa then (unsignedOf k.wr ((signedOf k.wr a).natAbs : Int), 0) else (a, 0)

/-- vneg: floats invert their sign, NaN included; integers wrap. -/
def elVneg (k : El) (a : Nat) : Nat × Nat :=
  if isFloat k.fa then (a ^^^ signBit k.fa, 0) else (unsignedOf k.wr (-(signedOf k.wr a)), 0)

/-! ### Compare, select and move (R369 to R373) -/

/-- vcmp: the conditions eq, ne, lt, le, gt, ge by value; a NaN makes every one false but ne. -/
def elVcmp (k : El) (cond a b : Nat) : Bool :=
  let pick (lt eq gt : Bool) : Bool :=
    match cond with
    | 0 => eq
    | 1 => !eq
    | 2 => lt
    | 3 => lt || eq
    | 4 => gt
    | _ => gt || eq
  if isFloat k.fr then
    let x := decodeF k.fa a
    let y := decodeF k.fb b
    pick (ltFV x y) (eqFV x y) (ltFV y x)
  else
    let x := k.ival k.fa a
    let y := k.ival k.fb b
    pick (x < y) (x == y) (y < x)

/-- vsel: a's element where the selector is set, else b's. -/
def elVsel (on : Bool) (a b : Nat) : Nat × Nat := (if on then a else b, 0)

/-- vmov. -/
def elVmov (a : Nat) : Nat × Nat := (a, 0)

/-- vbcast. -/
def elVbcast (b : Nat) : Nat × Nat := (b, 0)

/-- vid: the element's index, rounded to nearest for floats. -/
def elVid (k : El) (i : Nat) : Nat × Nat :=
  if isFloat k.fr then roundF k.fr 0 false (intFV i) else (i % 2 ^ k.wr, 0)

/-- vclass: the class code. -/
def elVclass (k : El) (a : Nat) : Nat × Nat :=
  let sh := shapeOf k.fa
  let up (c : Nat) (neg : Bool) : Nat × Nat := (if neg then 7 - c else c, 0)
  match decodeF k.fa a with
  | .nan => (8, 0)
  | .inf neg => up 7 neg
  | .fin neg m _ => up (if m = 0 then 4 else if m < 2 ^ sh.fb then 5 else 6) neg

/-! ### Conversion (R374 to R376) -/

/-- Convert a value from a format to one without block scales. -/
def convertTo (fa fd mode : Nat) (sat : Bool) (bits : Nat) (x : FV) (wd : Nat) : Nat × Nat :=
  if isFloat fd then roundF fd mode sat x
  else if isFloat fa then floatToInt fd mode sat x
  else
    let v := intVal fa bits
    if sat then (let (c, out) := clampInt fd v; (unsignedOf wd c, if out then flSAT else 0)) else (unsignedOf wd v, 0)

/-- vcvt of an element under its block scale and the band scale. -/
def elVcvt (k : El) (sat : Bool) (scale : Nat) (band : FV) (a : Nat) : Nat × Nat :=
  let x := valueOf k.fa a
  if isNarrow k.fr then encodeScaled k.fr k.rnd sat x scale band
  else if isNarrow k.fa then
    let (y, f) := mulFV x (decodeF 16 scale)
    let (r, g) := convertTo k.fa k.fr k.rnd sat a y k.wr
    (r, f ||| g)
  else convertTo k.fa k.fr k.rnd sat a x k.wr

/-! ### Widening (R201, R377, R378) -/

/-- vwmac: an f32 accumulator plus an exact product, one rounding. -/
def elVwmac (k : El) (a b c : Nat) : Nat × Nat :=
  let (p, f) := mulFV (decodeF k.fa a) (decodeF k.fb b)
  let (r, g) := addFV k.rnd (decodeF 13 c) p
  let (z, h) := roundF 13 k.rnd false r
  (z, f ||| g ||| h)

/-- An exact sum of products in progress: a NaN has come, NV is due, infinities of either sign, the finite part v · 2^e,
and whether every term so far is −0 (R201). -/
structure Sigma where
  nan : Bool
  nv : Bool
  pos : Bool
  neg : Bool
  v : Int
  e : Int
  allNeg : Bool
  deriving DecidableEq, Repr

/-- The empty sum. -/
def Sigma.zero : Sigma := { nan := false, nv := false, pos := false, neg := false, v := 0, e := 0, allNeg := true }

/-- Add a product with the flags of its factors. -/
def Sigma.add (g : Sigma) (t : FV × Nat) : Sigma :=
  let g := { g with nv := g.nv || t.2 != 0 }
  match t.1 with
  | .nan => { g with nan := true, allNeg := false }
  | .inf true => { g with neg := true, allNeg := false }
  | .inf false => { g with pos := true, allNeg := false }
  | .fin n m e =>
    let g := { g with allNeg := g.allNeg && n && m == 0 }
    if m = 0 then g
    else if g.v = 0 then { g with v := signedMag n m, e := e }
    else if e ≤ g.e then { g with v := g.v * (2 ^ (g.e - e).toNat : Nat) + signedMag n m, e := e }
    else { g with v := g.v + signedMag n (m <<< (e - g.e).toNat) }

/-- The sum's value and its flags: NV for infinite terms of both signs and for Inf times 0. -/
def Sigma.value (g : Sigma) : FV × Nat :=
  let fl := if g.nv || (g.pos && g.neg) then flNV else 0
  if g.nan || (g.pos && g.neg) then (.nan, fl)
  else if g.pos then (.inf false, fl)
  else if g.neg then (.inf true, fl)
  else if g.v = 0 then (.fin g.allNeg 0 0, fl)
  else (.fin (decide (g.v < 0)) g.v.natAbs g.e, fl)

/-- The product of two scaled elements (R191). -/
def scaledProduct (fa a sa fb b sb : Nat) : FV × Nat :=
  let (x, f) := if isNarrow fa then mulFV (decodeF fa a) (decodeF 16 sa) else (decodeF fa a, 0)
  let (y, g) := if isNarrow fb then mulFV (decodeF fb b) (decodeF 16 sb) else (decodeF fb b, 0)
  let (p, h) := mulFV x y
  (p, f ||| g ||| h)

/-- An output of a block sum: the accumulator plus the exact sum, one rounding; an exact zero is −0 only when every part
is (R201, R378). -/
def elVdotBlk (rnd : Nat) (c : Nat) (g : Sigma) : Nat × Nat :=
  let (x, f) := g.value
  let (r, h) := addFV 0 (decodeF 13 c) x
  let (z, k) := roundF 13 rnd false r
  (z, f ||| h ||| k)

end Sys2Proof.Machine
end

