-- ==== Sys2Proof/Machine/VSfu.lean ====
section
/-! DEFINITION. The special functions (R203, R424, R425): the exact value to far more bits than any format holds, and the
results that the bound and the rounding mode leave, of which the part chooses one for each operand (log 5). -/

namespace Sys2Proof.Machine

open Sys2Proof

/-- Fraction bits of the fixed-point values below. -/
def sfuP : Nat := 640

/-- One. -/
def sfuOne : Nat := 2 ^ sfuP

/-- The Taylor sum of e^y, 0 ≤ y < 1, term by term. -/
def expTaylor (y : Nat) : Nat → Nat → Nat → Nat → Nat
  | 0, _, _, sum => sum
  | k + 1, n, term, sum =>
    let t := term * y / sfuOne / n
    expTaylor y k (n + 1) t (sum + t)

/-- e^y for 0 ≤ y < 1. -/
def expFix (y : Nat) : Nat := expTaylor y 140 1 sfuOne sfuOne

/-- The sum of r^(2j+1) / (2j+1) from a power of r on. -/
def atanhTaylor (r2 : Nat) : Nat → Nat → Nat → Nat → Nat
  | 0, _, _, sum => sum
  | k + 1, d, pow, sum => atanhTaylor r2 k (d + 2) (pow * r2 / sfuOne) (sum + pow / d)

/-- 2 · atanh r for 0 ≤ r ≤ 1/3. -/
def atanhFix (r : Nat) : Nat := 2 * atanhTaylor (r * r / sfuOne) 210 1 r 0

/-- ln 2 = 2 · atanh (1/3). -/
def ln2Fix : Nat := atanhFix (sfuOne / 3)

/-- 2^z for a fixed-point z, as a value (m, e) = m · 2^e. -/
def exp2Fix (z : Int) : Nat × Int :=
  let n := z / (sfuOne : Int)
  let f := (z % (sfuOne : Int)).toNat
  (expFix (f * ln2Fix / sfuOne), n - sfuP)

/-- A dyadic value as fixed point. -/
def toFix (neg : Bool) (m : Nat) (e : Int) : Int := signedMag neg (if 0 ≤ e + sfuP then m <<< (e + sfuP).toNat else 0)

/-- e^(-y) for a fixed-point y ≥ 0, in fixed point. -/
def expNegFix (y : Nat) : Nat :=
  let (m, e) := exp2Fix (-((y * sfuOne / ln2Fix : Nat) : Int))
  m >>> (-(e + sfuP)).toNat

/-- The Taylor sums of sine and cosine. -/
def trigTaylor (y2 : Int) : Nat → Nat → Int → Int → Int
  | 0, _, _, sum => sum
  | k + 1, n, term, sum =>
    let t := -(term * y2 / (sfuOne : Int)) / ((n + 1) * (n + 2) : Nat)
    trigTaylor y2 k (n + 2) t (sum + t)

/-- K of R203: C = K · 2^-97. -/
def trigK : Nat := 0xc90fdaa22168c234c4c6628b8

/-- y = x - k C of R203, in fixed point. -/
def trigReduce (neg : Bool) (m : Nat) (e : Int) : Int :=
  let q : Int := if e ≤ -97 then e else -97
  let mx := m <<< (e - q).toNat
  let c := trigK <<< (-97 - q).toNat
  let k := mx / c
  let r := mx - k * c
  let up := c < 2 * r || (2 * r == c && k % 2 == 1)
  let y : Int := if up then (r : Int) - c else r
  let y := y * (2 ^ (q + sfuP).toNat : Nat)
  if neg then -y else y

/-- What a function's exact value is: a representable special with its flags, an exact value, or one that lies strictly
between A and A + 1 units of 2^e. -/
inductive Sfu where
  | special (v : FV) (flags : Nat)
  | exact (v : FV)
  | near (neg : Bool) (a : Nat) (e : Int)
  deriving DecidableEq, Repr

/-- A fixed-point value that is not representable. -/
def nearFix (v : Int) : Sfu := .near (decide (v < 0)) v.natAbs (-(sfuP : Int))

/-- sin and cos of a finite operand (R203). -/
def sfuTrig (cosine neg : Bool) (m : Nat) (e : Int) : Sfu :=
  if m = 0 then .exact (if cosine then .fin false 1 0 else .fin neg 0 0)
  else
    let y := trigReduce neg m e
    let y2 := y * y / (sfuOne : Int)
    nearFix (if cosine then trigTaylor y2 90 0 sfuOne sfuOne else trigTaylor y2 90 1 y y)

/-- 2^x. -/
def sfuExp2 (neg : Bool) (m : Nat) (e : Int) : Sfu :=
  if m = 0 then .exact (.fin false 1 0)
  else if 12 ≤ (lg m : Int) + e then .near false 1 (if neg then -5000 else 5000)
  else
    let z := toFix neg m e
    if z % (sfuOne : Int) = 0 then .exact (.fin false 1 (z / (sfuOne : Int)))
    else (let (a, g) := exp2Fix z; .near false a g)

/-- log2 x. -/
def sfuLog2 (neg : Bool) (m : Nat) (e : Int) : Sfu :=
  if m = 0 then .special (.inf true) flDZ
  else if neg then .special .nan flNV
  else
    let n : Int := e + lg m
    let x := m <<< (sfuP - lg m)
    if x = sfuOne then .exact (intFV n)
    else nearFix (n * (sfuOne : Int) + (atanhFix ((x - sfuOne) * sfuOne / (x + sfuOne)) * sfuOne / ln2Fix : Nat))

/-- tanh x. -/
def sfuTanh (neg : Bool) (m : Nat) (e : Int) : Sfu :=
  if m = 0 then .exact (.fin neg 0 0)
  else if 7 ≤ (lg m : Int) + e then .near neg (sfuOne - 1) (-(sfuP : Int))
  else
    let t := expNegFix (2 * (toFix false m e).toNat)
    .near neg ((sfuOne - t) * sfuOne / (sfuOne + t)) (-(sfuP : Int))

/-- 1 / (1 + e^-x). -/
def sfuSigm (neg : Bool) (m : Nat) (e : Int) : Sfu :=
  if m = 0 then .exact (.fin false 1 (-1))
  else if 8 ≤ (lg m : Int) + e then (if neg then .near false 1 (-(sfuP : Int)) else .near false (sfuOne - 1) (-(sfuP : Int)))
  else
    let t := expNegFix (toFix false m e).toNat
    .near false ((if neg then t else sfuOne) * sfuOne / (sfuOne + t)) (-(sfuP : Int))

/-- A function of an operand: vsin 0, vcos 1, vexp2 2, vlog2 3, vtanh 4, vsigm 5 (R203, R425). -/
def sfuValue (fn : Nat) (x : FV) : Sfu :=
  match x with
  | .nan => .special .nan 0
  | .inf neg =>
    (match fn with
    | 0 => .special .nan flNV
    | 1 => .special .nan flNV
    | 2 => .exact (if neg then .fin false 0 0 else .inf false)
    | 3 => if neg then .special .nan flNV else .exact (.inf false)
    | 4 => .exact (.fin neg 1 0)
    | _ => .exact (if neg then .fin false 0 0 else .fin false 1 0))
  | .fin neg m e =>
    match fn with
    | 0 => sfuTrig false neg m e
    | 1 => sfuTrig true neg m e
    | 2 => sfuExp2 neg m e
    | 3 => sfuLog2 neg m e
    | 4 => sfuTanh neg m e
    | _ => sfuSigm neg m e

/-- The bound of R424 in ulp: at most 1 in fp16 and bf16. -/
def sfuBound (fn fmt : Nat) : Nat := if fmt == 13 && (fn ≤ 1 || fn == 4 || fn == 5) then 2 else 1

/-- A count of the result's quantum lies on the side that the mode demands of an exact value between k and k + 1. -/
def sfuSide (mode : Nat) (neg : Bool) (k c : Int) : Bool :=
  match mode with
  | 1 => c ≤ k && -k ≤ c
  | 2 => if neg then k < c else c ≤ k
  | 3 => if neg then c ≤ k else k < c
  | _ => true

/-- The results that R424 allows for an exact value strictly between a · 2^e and (a + 1) · 2^e: those within the bound, in ulp of the
exact value, also in the binade below it, whose quantum is half as large. -/
def sfuAllowed (fn fmt mode : Nat) (neg : Bool) (a : Nat) (e : Int) : List Nat :=
  let sh := shapeOf fmt
  let emin : Int := 1 - (sh.bias : Int)
  let qu : Int := (lg a : Int) + e - sh.fb
  let low := qu ≤ emin - sh.fb
  let q : Int := if low then emin - sh.fb else qu - 1
  let k : Int := if e ≤ q then ((a >>> (q - e).toNat : Nat) : Int) else ((a <<< (e - q).toNat : Nat) : Int)
  let n := if low then sfuBound fn fmt else 2 * sfuBound fn fmt
  let cs : List Int := (List.range (2 * n)).map (fun (d : Nat) => k + 1 - (n : Int) + (d : Int))
  (cs.filter (sfuSide mode neg k)).filterMap (fun c =>
    let r := roundF fmt 0 false (.fin (neg != decide (c < 0)) c.natAbs q)
    if r.2 == 0 then some r.1 else none)

/-- One of the results that R424 allows for an exact value strictly between a · 2^e and (a + 1) · 2^e, with the flags of its rounding
(R196). -/
def sfuPick (fn : Nat) (k : El) (bits : Nat) (neg : Bool) (a : Nat) (e : Int) : Nat × Nat :=
  let (b, fl) := roundF k.fr k.rnd false (.fin neg (2 * a + 1) (e - 1))
  if fl &&& flOF != 0 then (b, fl)
  else
    let rs := sfuAllowed fn k.fr k.rnd neg a e
    (rs.getD (Config.sfu fn k.fr k.rnd bits % rs.length) b, fl)

/-- An element of a special function: its bits and flags. NX is set when the result is not exact; OF and UF follow R196;
the part takes one of the allowed results, the same for the same operand, format and mode. -/
def elSfu (fn : Nat) (k : El) (bits : Nat) : Nat × Nat :=
  let x := decodeF k.fa bits
  let range := match x with
    | .fin _ m e => if fn ≤ 1 && m != 0 && 20 ≤ (lg m : Int) + e then flRANGE else 0
    | .inf _ => if fn ≤ 1 then flRANGE else 0
    | .nan => 0
  match sfuValue fn x with
  | .special .nan fl => (canonNaN k.fr, fl ||| range)
  | .special v fl => ((roundF k.fr k.rnd false v).1, fl)
  | .exact v =>
    let (b, fl) := roundF k.fr k.rnd false v
    (match v with
    -- an exact power of two below the format's quantum
    | .fin neg m e => if fl &&& flNX != 0 then sfuPick fn k bits neg 0 (e + lg m + 1) else (b, fl ||| range)
    | _ => (b, fl ||| range))
  | .near neg a e => let (b, fl) := sfuPick fn k bits neg a e; (b, fl ||| range)

/-- vsin. -/
def elVsin (k : El) (a : Nat) : Nat × Nat := elSfu 0 k a
/-- vcos. -/
def elVcos (k : El) (a : Nat) : Nat × Nat := elSfu 1 k a
/-- vexp2. -/
def elVexp2 (k : El) (a : Nat) : Nat × Nat := elSfu 2 k a
/-- vlog2. -/
def elVlog2 (k : El) (a : Nat) : Nat × Nat := elSfu 3 k a
/-- vtanh. -/
def elVtanh (k : El) (a : Nat) : Nat × Nat := elSfu 4 k a
/-- vsigm. -/
def elVsigm (k : El) (a : Nat) : Nat × Nat := elSfu 5 k a

end Sys2Proof.Machine
end

