-- ==== Sys2Proof/Machine/VMem.lean ====
section
/-! DEFINITION. Running the vector memory instructions of an element group: the reads they ask for, the writes they hand
to the order machine, and the instructions that act at once (R380 to R400, R410, R411, R421). -/

namespace Sys2Proof.Machine

open Sys2Proof

/-- What running a slot over the elements of a group comes to: a state with its results, the lowest element that faults, or
reads that have to perform first. -/
inductive SlotRes where
  | ok (s : State)
  | bad (i : Nat) (f : AFault)
  | wait (reads : List Acc)

/-- The engine of a slot. -/
def SlotX.eng (x : SlotX) (s : State) : Eng := s.engAt x.c x.e

/-- Element `i` of width `w` of the group at a register. -/
def SlotX.get (x : SlotX) (s : State) (r : VReg) (w i : Nat) : Nat := (s.coreAt x.c).vget (x.eng s).vmap r.toNat w i

/-- Write elements of width `w` of the group at a register number. -/
def SlotX.put (x : SlotX) (s : State) (r w : Nat) (outs : List (Nat × Nat)) : State :=
  let m := (x.eng s).vmap
  s.updCore x.c (fun k => outs.foldl (fun k o => k.vput m r w o.1 o.2) k)

/-- The elements of a range, ascending. -/
def rangeFrom (lo hi : Nat) : List Nat := (List.range (hi - lo)).map (fun d => lo + d)

/-- Element `i` is active under the slot's mask field (R360). -/
def SlotX.act (x : SlotX) (s : State) (i : Nat) : Bool := (x.eng s).v.active x.f i

/-- The elements of a range that make an access or are computed: active, and below VL − PAD. -/
def SlotX.live (x : SlotX) (s : State) (lo hi : Nat) : List Nat :=
  (rangeFrom lo (Nat.min hi x.q.n)).filter (x.act s)

/-- An element that an agnostic policy may set to ones (R360). -/
def SlotX.leave (x : SlotX) (s : State) (policy : Bool) (w i : Nat) : List (Nat × Nat) :=
  if policy && agnostic (s.recOf x.c).det s.freeCtr x.j i then [(i, 2 ^ w - 1)] else []

/-- What is written to the destination elements of a range: the values of active elements, and what the policies give
the others. `on` says which elements are active. -/
def SlotX.outs (x : SlotX) (s : State) (w lo hi : Nat) (on : Nat → Bool) (val : Nat → Option Nat) : List (Nat × Nat) :=
  (rangeFrom lo hi).flatMap (fun i =>
    if i < x.q.n then
      if on i then (match val i with | some v => [(i, v)] | none => []) else x.leave s (vtMa x.vt) w i
    else x.leave s (vtTa x.vt) w i)

/-- One free number is taken. -/
def State.freed (s : State) : State := { s with freeCtr := s.freeCtr + 1 }

/-- Raise flags on the slot's engine (R200). -/
def SlotX.flags (x : SlotX) (s : State) (fl : Nat) : State :=
  if fl = 0 then s else s.updEng x.c x.e (fun g => g.raise fl)

/-- Write bits of a mask register. -/
def SlotX.putMasks (x : SlotX) (s : State) (m : Nat) (bs : List (Nat × Bool)) : State :=
  s.updV x.c x.e (fun v => bs.foldl (fun v b => v.putMask m b.1 b.2) v)

/-- Bits of a destination mask: the values of active elements; masked-off bits follow MA (R361). -/
def SlotX.maskOuts (x : SlotX) (s : State) (lo hi : Nat) (val : Nat → Bool) : List (Nat × Bool) :=
  (rangeFrom lo (Nat.min hi x.q.n)).flatMap (fun i =>
    if x.act s i then [(i, val i)] else (x.leave s (vtMa x.vt) 1 i).map (fun o => (o.1, true)))

/-! ### Places (R381 to R384) -/

/-- The space of the slot's elements. -/
def SlotX.sp (x : SlotX) : Space := slotSpace x.v

/-- The watchpoints that do not fire at an element (R269). -/
def SlotX.skip (x : SlotX) (i : Nat) : Nat := if x.q.start == some i then x.q.skip else 0

/-- The checks of R384 at element `i` and its place. -/
def SlotX.place (x : SlotX) (s : State) (i : Nat) (sp : Space) (addr len : Nat) (rd wr : Bool) : Except AFault Loc :=
  let sup := (x.eng s).tr.priv
  if addr % len != 0 then .error (.trap 4 (misInfo addr len))
  else
    match s.resolve x.c sup sp addr len rd wr with
    | .error f => .error f
    | .ok l =>
      if wr && sp == .g && s.headerHit (s.recOf x.c).part sup addr len then .error (.freeze 6 addr)
      else
        match s.judge x.c (x.skip i) (!sup) l addr len rd wr with
        | some f => .error f
        | none => if wr && s.followHit (s.recOf x.c).part sup addr l len then .error (.trap 0x0c (poisonInfo addr l.code)) else .ok l

/-- An access of the slot that waits in the order machine. -/
def SlotX.acc (x : SlotX) (s : State) (k : AccKind) (sp : Space) (addr len data : Nat) (l : Loc) : Acc :=
  { seq := x.q.seq + x.j, kind := k, cls := x.f.cls.toNat, aq := x.f.aq, rl := x.f.rl, sp := sp, addr := addr,
    bytes := len, data := data, cmp := 0, pc := x.q.pc, sup := (x.eng s).tr.priv, loc := some l, vec := true, skip := 0,
    faulted := false, gone := false, elem := 0, of_ := 1 }

/-- A touched range at a place. -/
def touchAt (sp : Space) (addr len : Nat) (l : Loc) : Touch := { sp := sp, sup := true, addr := addr, len := len, loc := some l }

/-- The waiting accesses of the thread let the slot act on ranges at once (R163). -/
def SlotX.free (x : SlotX) (s : State) (ts : List Touch) : Bool :=
  s.accsAllow x.c x.e (x.q.seq + x.j) x.f.cls.toNat x.f.rl ts

/-- A read that a slot needs: its element, key, space, address and length, and whether it sets a link. -/
structure Need where
  i : Nat
  key : Nat
  sp : Space
  addr : Nat
  len : Nat
  link : Bool
  deriving DecidableEq, Repr

/-- The value of a read by its key. -/
def Fly.value (f : Fly) (key : Nat) : Option Nat := (f.got.find? (fun x => x.1 == key)).map (fun x => x.2)

/-- An element by its key waits already. -/
def SlotX.asked (x : SlotX) (s : State) (key : Nat) : Bool :=
  (x.eng s).accs.any (fun a => a.seq == x.q.seq + x.j && a.isV && a.kind.key == key)

/-- ECODE 0x0c for an address of a space (R265). -/
def spacePoison (sp : Space) (addr : Nat) : AFault := .trap 0x0c (poisonInfo addr (if sp == .s then 1 else 0))

/-- Reads that have not landed: the lowest element that faults, or those to ask for, or nothing. -/
def SlotX.reads (x : SlotX) (s : State) (have_ : Nat → Bool) : List Need → Except (Nat × AFault) (Bool × List Acc)
  | [] => .ok (false, [])
  | n :: rest =>
    if have_ n.key then x.reads s have_ rest
    else if x.q.bad.contains n.key then .error (n.i, spacePoison n.sp n.addr)
    else if x.asked s n.key then (x.reads s have_ rest).map (fun r => (true, r.2))
    else
      match x.place s n.i n.sp n.addr n.len true false with
      | .error f => .error (n.i, f)
      | .ok l =>
        (x.reads s have_ rest).map (fun r =>
          (true, x.acc s (.vload n.key n.link) n.sp n.addr n.len (x.q.plan x.j).ep l :: r.2))

/-- Reads that faulted below stay faults; reads that miss make the slot wait; otherwise it goes on. -/
def SlotX.afterReads (x : SlotX) (s : State) (have_ : Nat → Bool) (ns : List Need) (go : SlotRes) : SlotRes :=
  match x.reads s have_ ns with
  | .error (i, f) => .bad i f
  | .ok (true, as) => .wait as
  | .ok (false, _) => go

/-! ### Loads (R380 to R384, R386 to R388, R390, R421) -/

/-- The key of element `i` of the slot. -/
def SlotX.key (x : SlotX) (i : Nat) : Nat := 8 * i + x.j

/-- The elements of a range that make their own access: for fp4, each pair with a live one, under its even number (R382). -/
def SlotX.units (x : SlotX) (s : State) (lo hi : Nat) : List Nat :=
  let es := x.live s lo hi
  if x.wv < 8 then ((es.map (fun i => i / 2 * 2)).foldl (fun l i => insertNat i l) []) else es

/-- The reads of an element-access load. -/
def SlotX.loadNeeds (x : SlotX) (s : State) (lo hi : Nat) : List Need :=
  (x.units s lo hi).map (fun i =>
    { i := i, key := x.key i, sp := x.sp, addr := (elemAddr (s.coreAt x.c) (x.eng s).vmap x.q x.j x.v i).toNat,
      len := elemLen x.q, link := x.op == .vgl })

/-- Write the destination of a load from the reads that have landed. -/
def SlotX.landed (x : SlotX) (s : State) (f : Fly) (lo hi : Nat) : State :=
  let val (i : Nat) : Option Nat :=
    if x.wv < 8 then (f.value (x.key (i / 2 * 2))).map (fun b => if i % 2 = 0 then b % 16 else b / 16 % 16)
    else f.value (x.key i)
  (x.put s x.f.vd.toNat x.wv (x.outs s x.wv lo hi (x.act s) val)).freed

/-- vld, vlds, vldx, vgl. -/
def SlotX.runLoad (x : SlotX) (s : State) (f : Fly) (lo hi : Nat) : SlotRes :=
  x.afterReads s (fun k => (f.value k).isSome) (x.loadNeeds s lo hi) (.ok (x.landed s f lo hi))

/-- A field of the slot's parameter block. -/
def SlotX.blk (x : SlotX) (off len : Nat) : Nat := fieldLE (slice x.q.blk (64 * x.j) 64) off len

/-- A space code of a parameter block: 0 G, 1 S. -/
def spaceNo (n : Nat) : Space := if n = 1 then .s else .g

/-- The block of `vld.ipb` breaks a limit of R386. -/
def ipbBad (bs : List Byte) : Bool :=
  let n (o l : Nat) : Nat := fieldLE bs o l
  1 < n 0 1 || 1 < n 1 1 || 1 < n 2 1 || 20 < n 3 1 || n 4 4 != 0 || n 8 8 % 8 != 0 || 2 ^ 48 ≤ n 16 8 ||
    !zeroBytes bs 32 32 || (n 0 1 == 1 && !zeroBytes bs 1 31)

/-- The reads of `vld.ipb` in paged mode: each element's table entry, and behind it the element (R387). -/
def SlotX.ipbNeeds (x : SlotX) (s : State) (f : Fly) (lo hi : Nat) : List Need :=
  let sh := x.blk 3 1
  (x.live s lo hi).map (fun i =>
    let j := x.blk 16 8 + i
    let tk := x.key i + 4
    match f.value tk with
    | none =>
      { i := i, key := tk, sp := spaceNo (x.blk 1 1), addr := (x.blk 8 8 + 8 * (j / 2 ^ sh)) % 2 ^ 64, len := 8, link := false }
    | some base =>
      { i := i, key := x.key i, sp := spaceNo (x.blk 2 1),
        addr := (base + x.blk 24 8 + j % 2 ^ sh * (x.wv / 8)) % 2 ^ 64, len := x.wv / 8, link := false })

/-- vld.ipb in paged mode. -/
def SlotX.runPaged (x : SlotX) (s : State) (f : Fly) (lo hi : Nat) : SlotRes :=
  x.afterReads s (fun k => (f.value k).isSome) (x.ipbNeeds s f lo hi) (.ok (x.landed s f lo hi))

/-- The feed of a thread. -/
def Inst.feed (n : Inst) (e : EngId) : List Byte := n.feeds.toList.getD e.val []

/-- Change the feed of a thread. -/
def Inst.updFeed (n : Inst) (e : EngId) (f : List Byte → List Byte) : Inst :=
  { n with feeds := n.feeds.set (e.val % 4) (f (n.feeds[e.val % 4]'(Nat.mod_lt _ (by decide)))) (Nat.mod_lt _ (by decide)) }

/-- vld.ipb in feed mode: bytes for every element below VL − PAD, active or not; they leave the feed as the group commits
(R388). -/
def SlotX.runFeed (x : SlotX) (s : State) (lo hi : Nat) : SlotRes :=
  let e := x.wv / 8
  let bs := (s.instAt x.c).feed x.e
  let top := Nat.max lo (Nat.min hi x.q.n)
  let need := (top - lo) * e
  if bs.length < need then
    if x.q.expired then .bad (lo + bs.length / e) (.trap 0x13 (wordN (7 + 13 * 256))) else .wait []
  else
    let val (i : Nat) : Option Nat := some (numLE (slice bs ((i - lo) * e) e))
    let t := x.put s x.f.vd.toNat x.wv (x.outs s x.wv lo hi (x.act s) val)
    .ok ((t.updInst x.c (fun n => n.updFeed x.e (fun b => b.drop need))).freed)

/-- vld.ipb (R386). -/
def SlotX.runIpb (x : SlotX) (s : State) (f : Fly) (lo hi : Nat) : SlotRes :=
  if x.blk 0 1 = 1 then x.runFeed s lo hi else x.runPaged s f lo hi

/-- The first index of segment `j` (R418). -/
def SlotX.segAt (x : SlotX) (j : Nat) : Nat := Nat.min (x.q.seg.getD j 0).toNat x.q.n

/-- One past the last index of segment `j`. -/
def SlotX.segEnd (x : SlotX) (j : Nat) : Nat := if j = 63 then x.q.n else x.segAt (j + 1)

/-- The segment of an index, if it lies in one. -/
def SlotX.segOf (x : SlotX) (i : Nat) : Option Nat := (List.range 64).find? (fun j => x.segAt j ≤ i && i < x.segEnd j)

/-- The base of a segment, once its table entry has been read (R421). -/
def SlotX.segBase (x : SlotX) (j : Nat) : Option Nat := (x.q.seen.find? (fun y => y.1 == 8 * j + 4 + x.j)).map (fun y => y.2)

/-- The elements of `vsegld` that make an access: those of a segment. -/
def SlotX.segLive (x : SlotX) (s : State) (lo hi : Nat) : List Nat := (x.live s lo hi).filter (fun i => (x.segOf i).isSome)

/-- The reads of `vsegld`: a segment's table entry once, with its lowest active element, and each element. -/
def SlotX.segNeeds (x : SlotX) (s : State) (lo hi : Nat) : List Need :=
  (x.segLive s lo hi).map (fun i =>
    let j := (x.segOf i).getD 0
    match x.segBase j with
    | none => { i := i, key := 8 * j + 4 + x.j, sp := x.sp, addr := ((x.q.sc x.j 0) + wordN (8 * j)).toNat, len := 8, link := false }
    | some b =>
      { i := i, key := x.key i, sp := x.sp, addr := (b + (i - x.segAt j) * (x.wv / 8)) % 2 ^ 64, len := x.wv / 8, link := false })

/-- Keep the first read of each key. -/
def firstKeys : List Need → List Nat → List Need
  | [], _ => []
  | n :: rest, seen => if seen.contains n.key then firstKeys rest seen else n :: firstKeys rest (n.key :: seen)

/-- vsegld (R421): indices in no segment make no access and follow the masked-off rule. -/
def SlotX.runSegld (x : SlotX) (s : State) (f : Fly) (lo hi : Nat) : SlotRes :=
  let on (i : Nat) : Bool := x.act s i && (x.segOf i).isSome
  x.afterReads s (fun k => (f.value k).isSome) (firstKeys (x.segNeeds s lo hi) [])
    (.ok (x.put s x.f.vd.toNat x.wv (x.outs s x.wv lo hi on (fun i => f.value (x.key i)))).freed)

/-- vld.z: the tile as it stands (R390). -/
def SlotX.runLdZ (x : SlotX) (s : State) (lo hi : Nat) : SlotRes :=
  let k := s.coreAt x.c
  let w := k.winZ (s.fgAt x.c)
  let t := bitsOf (vmods x.f) 11 6
  let r := bitsOf (vmods x.f) 5 0
  let off (i : Nat) : Nat := (w.1 + t) * blkZ + ((r + i / 64) * 64 + i % 64) * 4
  match (x.live s lo hi).find? (fun i => w.2 ≤ t || poisoned (k.bufZ.bad blkZ) 8 (off i) 4) with
  | some i =>
    if w.2 ≤ t then .bad lo (.freeze 7 (t * blkZ + r * 256)) else .bad i (.trap 0x0c (poisonInfo (off i - w.1 * blkZ) 6))
  | none =>
    let val (i : Nat) : Option Nat := some (numLE (k.bufZ.readBytes blkZ (off i) 4))
    .ok ((x.put s x.f.vd.toNat 32 (x.outs s 32 lo hi (x.act s) val)).freed)

/-! ### Stores (R383, R389) -/

/-- The place at which an element of the convoy writes, once its group has committed: the one found before (R396). -/
def QConvoy.placed (q : QConvoy) (key : Nat) : Option Loc :=
  match q.fly with
  | f :: _ => if f.cut.isSome then (f.locs.find? (fun p => p.1 == key)).map (fun p => p.2) else none
  | [] => none

/-- The place at which element `i` of a store, `vsc` or `vamo` writes. -/
def SlotX.aim (x : SlotX) (s : State) (i addr : Nat) (rd : Bool) : Except AFault Loc :=
  match x.q.placed (x.key i) with
  | some l => .ok l
  | none => x.place s i x.sp addr (elemLen x.q) rd true

/-- Keep the places of a slot's elements until their group has committed. -/
def SlotX.keepLocs (x : SlotX) (s : State) (ls : List (Nat × Loc)) : State :=
  s.updEng x.c x.e (fun g => g.ofHead x.q.seq (fun q =>
    { q with fly := match q.fly with | f :: more => { f with locs := f.locs ++ ls } :: more | [] => [] }))

/-- The data of an element, or of an fp4 pair from its even element (R382). -/
def SlotX.datum (x : SlotX) (s : State) (i : Nat) : Nat :=
  if x.wv < 8 then x.get s x.f.vd 4 i + 16 * x.get s x.f.vd 4 (i + 1) else x.get s x.f.vd x.wv i

/-- The writes of a store: the lowest element that faults, or all of them. -/
def SlotX.writes (x : SlotX) (s : State) : List Nat → Except (Nat × AFault) (List Acc)
  | [] => .ok []
  | i :: rest =>
    let a := (elemAddr (s.coreAt x.c) (x.eng s).vmap x.q x.j x.v i).toNat
    match x.aim s i a false with
    | .error f => .error (i, f)
    | .ok l =>
      match x.writes s rest with
      | .error e => .error e
      | .ok as => .ok ({ x.acc s .store x.sp a (elemLen x.q) (x.datum s i) l with elem := i } :: as)

/-- The place of an element of `vst.x`: an offset of the data or scale rows of a claimed slot of the window (R389). -/
def SlotX.placeX (x : SlotX) (s : State) (off len : Nat) : Except AFault Loc :=
  let n := s.instAt x.c
  let w := (s.coreAt x.c).winX (s.fgAt x.c)
  if 0xa0000 < off + len || w.2 ≤ xSlotOf off then .error (.freeze 7 off)
  else if !(n.xslot (xSlotOf off)).claimed then .error (.trap 0x0f (wordN (xSlotOf off)))
  else
    let l := Loc.x x.c (xPhys w.1 off)
    if s.badWrite l len then .error (.trap 0x0c (poisonInfo off 3)) else .ok l

/-- The writes of `vst.x`. -/
def SlotX.writesX (x : SlotX) (s : State) : List Nat → Except (Nat × AFault) (List Acc)
  | [] => .ok []
  | i :: rest =>
    let a := ((x.q.sc x.j 0) + wordN (if x.wv < 8 then i / 2 else i * (x.wv / 8))).toNat
    match (match x.q.placed (x.key i) with | some l => Except.ok l | none => x.placeX s a (elemLen x.q)) with
    | .error f => .error (i, f)
    | .ok l =>
      match x.writesX s rest with
      | .error e => .error e
      | .ok as => .ok ({ x.acc s .storeX .s a (elemLen x.q) (x.datum s i) l with elem := i } :: as)

/-- A slot scatters: `vsc` and `vamo`. -/
def slotScatters (v : VSlot) : Bool := v.op == .vsc || v.op == .vamo

/-- The registers of a group of width `w` bits at a register. -/
def QConvoy.regsAt (q : QConvoy) (r : VReg) (w : Nat) : List Nat := (List.range (groupSize q.vtype w)).map (fun k => r.toNat + k)

/-- Where the elements of slots lie does not hang on the results of a `vsc` or `vamo` in front of them: `rs` are the registers, and 32
more than their numbers the masks, that hang on those results. -/
def QConvoy.aimsFree (q : QConvoy) : List Nat → List (VSlot × Nat) → Bool
  | _, [] => true
  | rs, (v, j) :: rest =>
    let p := q.plan j
    let bw := vtBw q.vtype
    let index := if indexed v.op then q.regsAt v.f.vs2 (fmtBits p.fb bw) else []
    let hangs := slotOrders v && (rs.contains (32 + v.f.mask.toNat) || index.any rs.contains)
    let wrote := if v.op == .vsc then [32 + v.f.vs3.toNat] else if v.op == .vamo then q.regsAt v.f.vd q.wv
      else if slotOrders v then [] else (32 + v.f.vd.toNat) :: q.regsAt v.f.vd (fmtBits p.fr bw)
    !hangs && q.aimsFree (if rs.isEmpty && !slotScatters v then rs else wrote ++ rs) rest

/-- The elements of the convoy's `vsc` or `vamo` perform one by one, after its group has committed (R395). Where the places of a memory
slot behind it hang on its results, and with them its faults, a group performs as it commits (log 42). -/
def QConvoy.staged (q : QConvoy) : Bool := q.slots.any slotScatters && q.aimsFree [] q.slots.zipIdx

/-- A later slot of the convoy is a `vsc` or a `vamo` that performs as its group commits: the stores of the group perform before it. -/
def SlotX.atOnce (x : SlotX) : Bool := !x.q.staged && (x.q.slots.drop (x.j + 1)).any slotScatters

/-- The front group of the convoy has not committed yet, and scatters when it has. -/
def SlotX.beforeScatter (x : SlotX) : Bool :=
  x.q.staged && !x.q.scattering

/-- Hand the writes of elements to the order machine, or let them perform now; in a convoy that scatters, not before its group has
committed. -/
def SlotX.handOver (x : SlotX) (s : State) (es : List Nat) (as : List Acc) : SlotRes :=
  if x.beforeScatter then .ok (x.keepLocs s ((es.zip as).map (fun p => (x.key p.1, p.2.loc.getD (.g 0)))))
  else if x.atOnce then
    if !x.free s (as.map (fun a => touchAt a.sp a.addr a.bytes (a.loc.getD (.g 0)))) then .wait []
    else
      .ok (as.foldl (fun s a =>
        match a.kind, a.loc with
        | .storeX, _ => s.writeX x.c false (s.fgAt x.c) a.addr (bytesLE a.bytes a.data)
        | _, some l => s.writeAt x.c a.sup l a.addr a.bytes a.data
        | _, none => s) s)
  else .ok (s.updEng x.c x.e (fun g => { g with accs := g.accs ++ as }))

/-- vst, vsts, vstx. -/
def SlotX.runStore (x : SlotX) (s : State) (lo hi : Nat) : SlotRes :=
  let es := x.units s lo hi
  match x.writes s es with
  | .error (i, f) => .bad i f
  | .ok as => x.handOver s es as

/-- vst.x. -/
def SlotX.runStX (x : SlotX) (s : State) (lo hi : Nat) : SlotRes :=
  let es := x.units s lo hi
  match x.writesX s es with
  | .error (i, f) => .bad i f
  | .ok as => x.handOver s es as

/-! ### Scatter-conditional and atomics (R391 to R396) -/

/-- The places of an indexed access that acts at once: the lowest element that faults, or all. -/
def SlotX.placesOf (x : SlotX) (s : State) (rd : Bool) : List Nat → Except (Nat × AFault) (List (Nat × Nat × Loc))
  | [] => .ok []
  | i :: rest =>
    let a := (elemAddr (s.coreAt x.c) (x.eng s).vmap x.q x.j x.v i).toNat
    match (if x.q.bad.contains (x.key i) then .error (spacePoison x.sp a) else x.place s i x.sp a (elemLen x.q) rd true) with
    | .error f => .error (i, f)
    | .ok l =>
      match x.placesOf s rd rest with
      | .error e => .error e
      | .ok ps => .ok ((i, a, l) :: ps)

/-- One element of `vsc`: written if its line holds the thread's link, whose own tag stays (R391, R393). -/
def SlotX.scatter (x : SlotX) (s : State) (p : Nat × Nat × Loc) : State :=
  let (i, a, l) := p
  let ep := (x.eng s).epoch.toNat
  let mr := x.f.vs3.toNat
  if s.linkHeld x.c x.e ep l then
    let t := s.writeAt x.c (x.eng s).tr.priv l a (elemLen x.q) (x.get s x.f.vd x.wv i)
    x.putMasks (t.setLink x.c x.e ep l) mr [(i, true)]
  else x.putMasks s mr [(i, false)]

/-- vsc, before its group commits: its faults, and the elements where they perform at once. -/
def SlotX.runSc (x : SlotX) (s : State) (lo hi : Nat) : SlotRes :=
  match x.placesOf s false (x.live s lo hi) with
  | .error (i, f) => .bad i f
  | .ok ps =>
    if x.q.staged then .ok (x.keepLocs s (ps.map (fun p => (x.key p.1, p.2.2))))
    else if !x.free s (ps.map (fun p => touchAt x.sp p.2.1 (elemLen x.q) p.2.2)) then .wait []
    else
      let off := (rangeFrom lo (Nat.min hi x.q.n)).flatMap (fun i =>
        if x.act s i then [] else (x.leave s (vtMa x.vt) 1 i).map (fun o => (o.1, true)))
      .ok ((x.putMasks (ps.foldl (fun s p => x.scatter s p) s) x.f.vs3.toNat off).freed)

/-- One element of `vamo` performs, as one atomic element (R159, R395). -/
def SlotX.atomic (x : SlotX) (s : State) (p : Nat × Nat × Loc) : State :=
  let (i, a, l) := p
  let n := elemLen x.q
  let (old, s) := s.readAt l n
  let (new, fl) := vamoNew (vaop x.f) x.fv x.wv old (x.get s x.f.vs3 x.wv i) (x.get s x.f.vd x.wv i)
  let s := (s.writeAt x.c (x.eng s).tr.priv l a n new).setLink x.c x.e (x.q.plan x.j).ep l
  x.flags (x.put s x.f.vd.toNat x.wv [(i, old)]) fl

/-- vamo, before its group commits: its faults (R396), and the elements in ascending order where they perform at once. -/
def SlotX.runAmo (x : SlotX) (s : State) (lo hi : Nat) : SlotRes :=
  match x.placesOf s true (x.live s lo hi) with
  | .error (i, f) => .bad i f
  | .ok ps =>
    if x.q.staged then .ok (x.keepLocs s (ps.map (fun p => (x.key p.1, p.2.2))))
    else if !x.free s (ps.map (fun p => touchAt x.sp p.2.1 (elemLen x.q) p.2.2)) then .wait []
    else
      let t := ps.foldl (fun s p => x.atomic s p) s
      .ok (x.put t x.f.vd.toNat x.wv (x.outs s x.wv lo hi (x.act s) (fun _ => none))).freed

/-- The elements of a `vsc` or `vamo` that are to perform: the lowest that faults, or the accesses. -/
def SlotX.asks (x : SlotX) (s : State) : List Nat → Except (Nat × AFault) (List Acc)
  | [] => .ok []
  | i :: rest =>
    let a := (elemAddr (s.coreAt x.c) (x.eng s).vmap x.q x.j x.v i).toNat
    if x.q.bad.contains (x.key i) then .error (i, spacePoison x.sp a)
    else
      match x.asks s rest with
      | .error e => .error e
      | .ok as =>
        if x.asked s (x.key i) then .ok as
        else
          match x.aim s i a (x.op == .vamo) with
          | .error f => .error (i, f)
          | .ok l =>
            if x.op == .vamo then
              .ok ({ x.acc s (.vamo (x.key i) (vaop x.f) x.fv (x.q.plan x.j).ep) x.sp a (elemLen x.q) (x.get s x.f.vs3 x.wv i) l with
                cmp := x.get s x.f.vd x.wv i } :: as)
            else .ok (x.acc s (.vsc (x.key i)) x.sp a (elemLen x.q) (x.get s x.f.vd x.wv i) l :: as)

/-- The results of a `vsc` or `vamo` whose elements have performed: the mask of those that wrote, or the old values, with flags
(R393, R394). -/
def SlotX.scattered (x : SlotX) (s : State) (f : Fly) (lo hi : Nat) : State :=
  let got (i : Nat) : Nat := (f.value (x.key i)).getD 0
  let es := x.live s lo hi
  -- a thread that has lost its registers keeps no result of a group that was committed before (R62, R397)
  if (x.eng s).v.lost then s
  else if x.op == .vsc then
    (x.putMasks s x.f.vs3.toNat (x.maskOuts s lo hi (fun i => got i == 1))).freed
  else
    let fl := es.foldl (fun fl i =>
      fl ||| (vamoNew (vaop x.f) x.fv x.wv (got i) (x.get s x.f.vs3 x.wv i) (x.get s x.f.vd x.wv i)).2) 0
    x.flags (x.put s x.f.vd.toNat x.wv (x.outs s x.wv lo hi (x.act s) (fun i => some (got i)))).freed fl

/-- A committed group of a `vsc` or `vamo`: its elements perform in any order, with `.ord` one after another; then its results are
written (R164, R385, R395). -/
def SlotX.runScatter (x : SlotX) (s : State) (f : Fly) (lo hi : Nat) : SlotRes :=
  match (x.live s lo hi).filter (fun i => (f.value (x.key i)).isNone) with
  | [] => .ok (x.scattered s f lo hi)
  | i :: more =>
    match x.asks s (if x.op == .vamo && vord x.f then [i] else i :: more) with
    | .error (j, e) => .bad j e
    | .ok as => .wait as

/-! ### Waiting on memory (R398) -/

/-- The location of an element now holds another value than its latest read: a write, or the device whose register it is, has changed
it (log 49). -/
def State.changed (s : State) (l : Loc) (len v : Nat) : Bool := (s.readAt l len).1 != v

/-- The reads that `vwait` asks for: each active element once, and again after a write to it while it is unsatisfied. -/
def SlotX.polls (x : SlotX) (s : State) : List Nat → List Acc
  | [] => []
  | i :: rest =>
    let a := (elemAddr (s.coreAt x.c) (x.eng s).vmap x.q x.j x.v i).toNat
    let more := x.polls s rest
    if x.asked s (x.key i) || x.q.satisfied (s.coreAt x.c) (x.eng s).vmap x.j x.v i then more
    else
      match x.place s i x.sp a (elemLen x.q) true false with
      | .error _ => more
      | .ok l =>
        let due := match x.q.latest x.j i with | none => true | some v => s.changed l (elemLen x.q) v
        if due then x.acc s (.vload (x.key i) false) x.sp a (elemLen x.q) 0 l :: more else more

/-- vwait over the element that commits next: satisfied, or expired with the value of its latest read. -/
def SlotX.runWait (x : SlotX) (s : State) (lo hi : Nat) : SlotRes :=
  match x.live s lo hi with
  | [] => .ok (x.put s x.f.vd.toNat x.wv (x.outs s x.wv lo hi (x.act s) (fun _ => none))).freed
  | i :: _ =>
    let a := (elemAddr (s.coreAt x.c) (x.eng s).vmap x.q x.j x.v i).toNat
    match (x.q.latest x.j i).filter (fun v => x.q.expired || condBits x.wv (condOf (vaop x.f)) v (x.get s x.f.vd x.wv i)) with
    | some v => .ok (x.put s x.f.vd.toNat x.wv (x.outs s x.wv lo hi (x.act s) (fun _ => some v))).freed
    | none =>
      match x.place s i x.sp a (elemLen x.q) true false with
      | .error f => .bad i f
      | .ok _ =>
        if x.q.bad.contains (x.key i) then .bad i (spacePoison x.sp a) else .wait (x.polls s (x.live s lo x.q.n))

/-! ### Memory to memory (R399, R400) -/

/-- What `vmm` refuses at issue (R400): an address or count that is not a multiple of 8, a count above the limit, ranges
that intersect. -/
def SlotX.vmmFault (x : SlotX) : Option AFault :=
  let d := (x.q.sc x.j 0).toNat
  let a := (x.q.sc x.j 1).toNat
  let n := (x.q.sc x.j 2).toNat
  let copy := x.op == .vmmCopy
  firstFault [when (d % 8 != 0) (.trap 4 (misInfo d 8)), when (copy && a % 8 != 0) (.trap 4 (misInfo a 8)),
    when (n % 8 != 0) (.trap 4 (misInfo n 8)), when (0x7fffff8 < n) x.ill, when (copy && overlaps d n a n) x.ill]

/-- The writes of `vmm`. -/
def SlotX.vmmWrites (x : SlotX) (s : State) (val : Nat → Nat) : List Nat → Except (Nat × AFault) (List Acc)
  | [] => .ok []
  | i :: rest =>
    let a := ((x.q.sc x.j 0) + wordN (8 * i)).toNat
    match x.place s i x.sp a 8 false true with
    | .error f => .error (i, f)
    | .ok l =>
      match x.vmmWrites s val rest with
      | .error e => .error e
      | .ok as => .ok ({ x.acc s .store x.sp a 8 (val i) l with elem := i } :: as)

/-- vmm.copy: each element is read, then written. -/
def SlotX.runCopy (x : SlotX) (s : State) (f : Fly) (lo hi : Nat) : SlotRes :=
  let ns := (rangeFrom lo hi).map (fun i =>
    ({ i := i, key := x.key i, sp := x.sp, addr := ((x.q.sc x.j 1) + wordN (8 * i)).toNat, len := 8, link := false } : Need))
  match x.vmmWrites s (fun i => (f.value (x.key i)).getD 0) (rangeFrom lo hi) with
  | .error (i, e) =>
    (match x.reads s (fun k => (f.value k).isSome) ns with
    | .error (j, g) => if j ≤ i then .bad j g else .bad i e
    | .ok _ => .bad i e)
  | .ok as => x.afterReads s (fun k => (f.value k).isSome) ns (x.handOver s [] as)

/-- vmm.fill. -/
def SlotX.runFill (x : SlotX) (s : State) (lo hi : Nat) : SlotRes :=
  match x.vmmWrites s (fun _ => (x.q.sc x.j 1).toNat) (rangeFrom lo hi) with
  | .error (i, f) => .bad i f
  | .ok as => x.handOver s [] as

/-! ### The merge of runs in memory (R215 to R217, R410, R411) -/

/-- The block of `vmrgs` breaks a limit of R410. -/
def mrgsBad (bs : List Byte) : Bool :=
  let n (o l : Nat) : Nat := fieldLE bs o l
  let fmt := n 0 1
  let pay := bitN (n 1 1) 1
  fmt == 0 || fmt == 8 || fmt == 14 || 15 < fmt || 3 < n 1 1 || 3 < n 2 1 || (fmt != 15 && n 2 1 != 0) || 3 < n 3 1 ||
    (!pay && n 3 1 != 0) || n 4 4 != 0 || 16777215 < n 8 4 + n 12 4 || (!pay && !zeroBytes bs 40 24)

/-- Bytes of a key and of a payload. -/
def SlotX.mrgsKey (x : SlotX) : Nat := fmtBits (x.blk 0 1) (x.blk 2 1) / 8
/-- Bytes of a payload. -/
def SlotX.mrgsPay (x : SlotX) : Nat := 2 ^ x.blk 3 1
/-- The instruction moves payloads. -/
def SlotX.mrgsHasPay (x : SlotX) : Bool := bitN (x.blk 1 1) 1

/-- What `vmrgs` refuses at issue (R410). -/
def SlotX.mrgsFault (x : SlotX) : Option AFault :=
  let k := x.mrgsKey
  let p := x.mrgsPay
  let na := x.blk 8 4
  let nb := x.blk 12 4
  let pay := x.mrgsHasPay
  let mis (o n : Nat) : Option AFault := when (x.blk o 8 % n != 0) (.trap 4 (misInfo (x.blk o 8) n))
  let outs := (x.blk 32 8, (na + nb) * k) :: (if pay then [(x.blk 56 8, (na + nb) * p)] else [])
  let ins := [(x.blk 16 8, na * k), (x.blk 24 8, nb * k)] ++ (if pay then [(x.blk 40 8, na * p), (x.blk 48 8, nb * p)] else [])
  let hit (a b : Nat × Nat) : Bool := a.2 != 0 && b.2 != 0 && overlaps a.1 a.2 b.1 b.2
  firstFault ([when (mrgsBad x.q.blk) x.ill, mis 16 k, mis 24 k, mis 32 k] ++
    (if pay then [mis 40 p, mis 48 p, mis 56 p] else []) ++
    [when (outs.any (fun o => ins.any (hit o)) || (match outs with | [a, b] => hit a b | _ => false)) x.ill])

/-- A read of `vmrgs` made for output `o`: element `n` of a run, its key or its payload. Its key in `seen` is 8 n for run A and
8 n + 4 for run B, and that of a payload lies 2^28 higher. -/
def SlotX.mrgsNeed (x : SlotX) (o : Nat) (inA pay : Bool) (n : Nat) : Need :=
  let len := if pay then x.mrgsPay else x.mrgsKey
  let base := x.blk ((if pay then 40 else 16) + if inA then 0 else 8) 8
  { i := o, key := 8 * n + (if inA then 0 else 4) + (if pay then 2 ^ 28 else 0), sp := x.sp, addr := (base + n * len) % 2 ^ 64,
    len := len, link := false }

/-- A read that has performed. -/
def SlotX.mrgsVal (x : SlotX) (n : Need) : Option Nat := (x.q.seen.find? (fun y => y.1 == n.key)).map (fun y => y.2)

/-- The positions in both runs, which stand in `seen` under the keys 2 and 3. -/
def QConvoy.mrgsPos (q : QConvoy) (side : Nat) : Nat := ((q.seen.find? (fun y => y.1 == 2 + side)).map (fun y => y.2)).getD 0

/-- The merge takes its next output from run A, by the keys at both positions (R215). -/
def SlotX.mrgsTakesA (x : SlotX) (a b va vb : Nat) : Bool :=
  if b = x.blk 12 4 then true
  else if a = x.blk 8 4 then false
  else !keyLt (x.blk 0 1) (8 * x.mrgsKey) (bitN (x.blk 1 1) 0) vb va

/-- The positions in both runs behind the first `o` outputs, by a search over the sources; a key that cannot be read counts as 0
(R216; log 93). No watchpoint sees the search. -/
def SlotX.mrgsSeek (x : SlotX) (s : State) : Nat → Nat × Nat
  | 0 => (0, 0)
  | o + 1 =>
    let (a, b) := x.mrgsSeek s o
    let peek (inA : Bool) (n : Nat) : Nat :=
      let d := x.mrgsNeed o inA false n
      match s.resolve x.c (x.eng s).tr.priv d.sp d.addr d.len true false with
      | .ok l => (s.readAt l d.len).1
      | .error _ => 0
    if x.mrgsTakesA a b (peek true a) (peek false b) then (a + 1, b) else (a, b + 1)

/-- Reads of `vmrgs` ahead of those that the next output needs: of the keys and payloads that the outputs left in its element group can
take (R95, R411); in a DET launch none, as the groups come in order (R106). -/
def SlotX.mrgsAhead (x : SlotX) (s : State) (o hi a b : Nat) : List Acc :=
  let ns (inA : Bool) (n top : Nat) : List Need :=
    (rangeFrom n (Nat.min top (n + if (s.recOf x.c).det then 0 else hi - o))).flatMap (fun i =>
      x.mrgsNeed o inA false i :: (if x.mrgsHasPay then [x.mrgsNeed o inA true i] else []))
  (ns true a (x.blk 8 4) ++ ns false b (x.blk 12 4)).flatMap (fun n =>
    match x.reads s (fun _ => (x.mrgsVal n).isSome) [n] with
    | .ok (_, as) => as
    | .error _ => [])

/-- The writes of output `o` of `vmrgs`: its key, and its payload if there is one. -/
def SlotX.mrgsWrites (x : SlotX) (s : State) (o key : Nat) (pay : Option Nat) : Except AFault (List Acc) :=
  let put (base len v : Nat) : Except AFault Acc :=
    let at_ := (base + o * len) % 2 ^ 64
    match x.place s o x.sp at_ len false true with
    | .error f => .error f
    | .ok l => .ok { x.acc s .store x.sp at_ len v l with elem := o }
  match put (x.blk 32 8) x.mrgsKey key with
  | .error f => .error f
  | .ok k =>
    match pay with
    | none => .ok [k]
    | some v => (match put (x.blk 56 8) x.mrgsPay v with | .error f => .error f | .ok p => .ok [k, p])

/-- Output `o` of `vmrgs`, in an element group that ends below `hi`: its reads, then its writes (R411). -/
def SlotX.runMrgs (x : SlotX) (s : State) (o hi : Nat) : SlotRes :=
  let a := x.q.mrgsPos 0
  let b := x.q.mrgsPos 1
  let have_ (k : Nat) : Bool := x.q.seen.any (fun y => y.1 == k)
  let na := x.mrgsNeed o true false a
  let nb := x.mrgsNeed o false false b
  match x.reads s have_ ((if a = x.blk 8 4 then [] else [na]) ++ (if b = x.blk 12 4 then [] else [nb])) with
  | .error (i, f) => .bad i f
  | .ok (true, as) =>
    .wait (as ++ (x.mrgsAhead s o hi a b).filter (fun y => !as.any (fun z => z.kind.key == y.kind.key)))
  | .ok (false, _) =>
    let va := (x.mrgsVal na).getD 0
    let vb := (x.mrgsVal nb).getD 0
    let takeA := x.mrgsTakesA a b va vb
    let np := x.mrgsNeed o takeA true (if takeA then a else b)
    match x.reads s have_ (if x.mrgsHasPay then [np] else []) with
    | .error (i, f) => .bad i f
    | .ok (true, as) => .wait as
    | .ok (false, _) =>
      match x.mrgsWrites s o (if takeA then va else vb) (if x.mrgsHasPay then some ((x.mrgsVal np).getD 0) else none) with
      | .error f => .bad o f
      | .ok as =>
        let used (k : Nat) : Bool := k == 2 || k == 3 || k == np.key || k == (if takeA then na.key else nb.key)
        .ok (s.updEng x.c x.e (fun g =>
          { g.ofHead x.q.seq (fun q =>
              { q with seen := [(2, if takeA then a + 1 else a), (3, if takeA then b else b + 1)] ++ q.seen.filter (fun y => !used y.1) }) with
            accs := g.accs ++ as }))

end Sys2Proof.Machine
end

