-- ==== Sys2Proof/Machine/VSort.lean ====
section
/-! DEFINITION. The sort unit: `vsortr`, `vchk`, `vmerge`, `vinter`, `vuniq`, `vrank` and `vpart` (R205 to R216, R401 to
R409, R412). -/

namespace Sys2Proof.Machine

open Sys2Proof

/-- Change the tags of the slot's thread; in raw view no tag changes (R461). -/
def SlotX.retags (x : SlotX) (s : State) (f : Tags → Tags) : State :=
  if (x.eng s).tr.raw then s else s.updV x.c x.e (fun v => { v with tags := f v.tags })

/-- Element `i` of a run that begins at a register (R205). -/
def SlotX.runGet (x : SlotX) (s : State) (r w i : Nat) : Nat :=
  (s.coreAt x.c).vget (x.eng s).vmap (r + vtG x.vt * (i / x.q.vl)) w (i % x.q.vl)

/-- Write elements of a run (R205). -/
def SlotX.runPut (x : SlotX) (s : State) (r w : Nat) (outs : List (Nat × Nat)) : State :=
  let m := (x.eng s).vmap
  s.updCore x.c (fun k => outs.foldl (fun k o => k.vput m (r + vtG x.vt * (o.1 / x.q.vl)) w (o.1 % x.q.vl) o.2) k)

/-- What the tail policy gives the elements from `lo` to the end of a group of `n` registers (R360). -/
def SlotX.tailOuts (x : SlotX) (s : State) (n w lo : Nat) : List (Nat × Nat) :=
  if vtTa x.vt then (rangeFrom lo (n * (x.eng s).vmap.len / w)).flatMap (x.leave s true w) else []

/-- The tails of a destination group of `n` registers, from element `lo` on. -/
def SlotX.tails (x : SlotX) (s : State) (r n w lo : Nat) : State :=
  match x.tailOuts s n w lo with
  | [] => s
  | os => x.put s r w os

/-- The tails of each configured group of a run of `n` registers (R205, R360). -/
def SlotX.runTails (x : SlotX) (s : State) (r n w : Nat) : State :=
  let g := vtG x.vt
  (List.range (n / g)).foldl (fun s j => x.tails s (r + g * j) g w x.q.vl) s

/-- Number a list. -/
def numbered (l : List Nat) : List (Nat × Nat) := l.zipIdx.map (fun p => (p.2, p.1))

/-- Put a key with its payload behind every key that it does not rank before (R209). -/
def insertKey (lt : Nat → Nat → Bool) (x : Nat × Nat) : List (Nat × Nat) → List (Nat × Nat)
  | [] => [x]
  | y :: ys => if lt x.1 y.1 then x :: y :: ys else y :: insertKey lt x ys

/-- Keys with their payloads in stable key order (R209). -/
def sortKeys (lt : Nat → Nat → Bool) (l : List (Nat × Nat)) : List (Nat × Nat) :=
  l.foldl (fun acc x => insertKey lt x acc) []

/-- No key ranks before the one in front of it. -/
def inOrder (lt : Nat → Nat → Bool) : List Nat → Bool
  | [] => true
  | [_] => true
  | a :: b :: rest => !lt b a && inOrder lt (b :: rest)

/-- SORT of a direction. -/
def sortCode (desc : Bool) : Nat := if desc then 2 else 1

/-- Link a key group to its payload group in place (R404). The keys are no payload of another group, their old payload is free,
and the payload group is neither a run nor another's payload (R210). -/
def Tags.link (t : Tags) (vk vpa n : Nat) : Tags :=
  let t := (List.range n).foldl (fun t i => Tags.unkey (Tags.unpay t (vk + i)) (vk + i)) t
  let t := (List.range n).foldl (fun t i => Tags.touch t (vpa + i)) t
  let t := (List.range n).foldl (fun t i =>
    Tags.upd t (vk + i) (fun y => (y &&& ~~~ 0x3f800) ||| mkTag false false vpa true 0 0 0 0)) t
  (List.range n).foldl (fun t i => Tags.upd t (vpa + i) (fun y => (y &&& 0x4000f) ||| 0x20000)) t

/-- The tags of a destination run and of its payload group, after their writes (R213, R404, R406). -/
def Tags.setSorted (t : Tags) (vd span fmt sort : Nat) (pay : Option (Nat × Nat)) : Tags :=
  let n := 2 ^ span
  let t := Tags.write t vd n fmt
  let t := match pay with | some (p, f) => Tags.write t p n f | none => t
  let t := Tags.setRun t vd span fmt sort (pay.map (fun p => p.1))
  match pay with | some (p, f) => Tags.setPayload t p n f | none => t

/-- vsortr (R404). -/
def SlotX.runSortr (x : SlotX) (s : State) : SlotRes :=
  let p := x.q.plan x.j
  let wk := x.bits p.fa
  let wp := x.bits p.fc
  let pay := x.f.vs2 != 0
  let desc := vbit16 x.f
  let g := vtG x.vt
  let n := x.q.n
  let src := (List.range n).map (fun i => (x.get s x.f.vs1 wk i, if pay then x.get s x.f.vs3 wp i else 0))
  let out := sortKeys (keyLt p.fa wk desc) src
  let pads (w : Nat) : List (Nat × Nat) := if vtTa x.vt then (rangeFrom n x.q.vl).flatMap (x.leave s true w) else []
  let t := x.put s x.f.vd.toNat wk (numbered (out.map (fun o => o.1)) ++ pads wk)
  let t := x.tails t x.f.vd.toNat g wk x.q.vl
  let t := if pay then x.tails (x.put t x.f.vs2.toNat wp (numbered (out.map (fun o => o.2)) ++ pads wp)) x.f.vs2.toNat g wp x.q.vl
    else t
  let t := x.retags t (fun t =>
    Tags.setSorted (if pay then Tags.link t x.f.vs1.toNat x.f.vs3.toNat g else t) x.f.vd.toNat (vtGrp x.vt) p.fa (sortCode desc)
      (if pay then some (x.f.vs2.toNat, p.fc) else none))
  .ok t.freed

/-- vchk (R405). -/
def SlotX.runChk (x : SlotX) (s : State) : SlotRes :=
  let p := x.q.plan x.j
  let wk := x.bits p.fa
  let desc := vbit16 x.f
  let ks := (List.range x.q.n).map (fun i => x.get s x.f.vs1 wk i)
  if inOrder (keyLt p.fa wk desc) ks then
    .ok (x.retags s (fun t => (List.range (vtG x.vt)).foldl (fun t i =>
      Tags.upd (Tags.unpay t (x.f.vs1.toNat + i)) (x.f.vs1.toNat + i) (fun y =>
        (y &&& ~~~ 0x207f0) ||| mkTag false false 0 false i (vtGrp x.vt) (sortCode desc) 0)) t))
  else .ok s

/-- vpart (R409). -/
def SlotX.runPart (x : SlotX) (s : State) : SlotRes :=
  let p := x.q.plan x.j
  let w := x.bits p.fa
  let piv := (x.q.sc x.j 1).toNat % 2 ^ w
  let xs := (List.range x.q.n).map (fun i => x.get s x.f.vs1 w i)
  let lt (y : Nat) : Bool := keyLt p.fa w (vbit16 x.f) y piv
  let pads := if vtTa x.vt then (rangeFrom x.q.n x.q.vl).flatMap (x.leave s true w) else []
  let t := x.put s x.f.vd.toNat w (numbered (xs.filter lt ++ xs.filter (fun y => !lt y)) ++ pads)
  let t := x.tails t x.f.vd.toNat (vtG x.vt) w x.q.vl
  .ok (x.retags t (fun t => Tags.write t x.f.vd.toNat (vtG x.vt) p.fa)).freed

/-- The outputs of a merge, from positions in both runs, as (side, index): true for A (R215). -/
def mergePicks (lt : Nat → Nat → Bool) (ka kb : Nat → Nat) (na nb : Nat) : Nat → Nat → Nat → List (Bool × Nat)
  | 0, _, _ => []
  | n + 1, a, b =>
    let takeA := if b = nb then true else if a = na then false else !lt (kb b) (ka a)
    if takeA then (true, a) :: mergePicks lt ka kb na nb n (a + 1) b
    else (false, b) :: mergePicks lt ka kb na nb n a (b + 1)

/-- The outputs of an intersection: indices of A (R407). -/
def interPicks (lt : Nat → Nat → Bool) (ka kb : Nat → Nat) (na nb : Nat) : Nat → Nat → Nat → List (Bool × Nat)
  | 0, _, _ => []
  | n + 1, a, b =>
    if na ≤ a || nb ≤ b then []
    else if lt (ka a) (kb b) then interPicks lt ka kb na nb n (a + 1) b
    else if lt (kb b) (ka a) then interPicks lt ka kb na nb n a (b + 1)
    else (true, a) :: interPicks lt ka kb na nb n (a + 1) (b + 1)

/-- The outputs of `vuniq`: the first key of each run of equal keys (R407). -/
def uniqPicks (lt : Nat → Nat → Bool) (ka : Nat → Nat) (na : Nat) : List (Bool × Nat) :=
  ((List.range na).filter (fun a => a == 0 || lt (ka (a - 1)) (ka a))).map (fun a => (true, a))

/-- The fill key (R407). -/
def fillKey (f w : Nat) (desc : Bool) : Nat :=
  if isFloat f then canonNaN f
  else if isSigned f then (if desc then 2 ^ (w - 1) else 2 ^ (w - 1) - 1)
  else if desc then 0 else 2 ^ w - 1

/-- What the merging instructions have in common: keys and payloads of the outputs picked, `lo` to `hi` - 1 of them; the outputs
behind those picked take the fill key (R406, R407). With the last one come the tails and the tags. -/
def SlotX.emitRun (x : SlotX) (s : State) (lo hi total span : Nat) (picks : List (Bool × Nat)) : SlotRes :=
  let p := x.q.plan x.j
  let t0 := (x.eng s).tagsNow
  let wk := x.bits p.fa
  let wp := x.bits p.fc
  let pay := x.f.vs3 != 0
  let sort := tgSort (Tags.at_ t0 x.f.vs1.toNat)
  let pa := (payOf t0 x.f.vs1).toNat
  let pb := (payOf t0 x.f.vs2).toNat
  let key (y : Bool × Nat) : Nat := x.runGet s (if y.1 then x.f.vs1.toNat else x.f.vs2.toNat) wk y.2
  let pld (y : Bool × Nat) : Nat := x.runGet s (if y.1 then pa else pb) wp y.2
  let gap := total - picks.length
  let keys := picks.map key ++ List.replicate gap (fillKey p.fa wk (sort == 2))
  let pays := picks.map pld ++ List.replicate gap 0
  let from_ (l : List Nat) : List (Nat × Nat) := (numbered l).filter (fun o => lo ≤ o.1 && o.1 < hi)
  let n := 2 ^ span
  let t := x.runPut s x.f.vd.toNat wk (from_ keys)
  let t := if pay then x.runPut t x.f.vs3.toNat wp (from_ pays) else t
  if hi < total then .ok t
  else
  let t := x.runTails t x.f.vd.toNat n wk
  let t := if pay then x.runTails t x.f.vs3.toNat n wp else t
  .ok (x.retags t (fun t =>
    Tags.setSorted t x.f.vd.toNat span p.fa sort (if pay then some (x.f.vs3.toNat, p.fc) else none))).freed

/-- The keys of the run at a register: how many there are (R205, R406). -/
def SlotX.runLen (x : SlotX) (t : Tags) (r : VReg) : Nat := runSpan t r / vtG x.vt * x.q.vl

/-- The order of the run at vs1. -/
def SlotX.runLt (x : SlotX) (t : Tags) : Nat → Nat → Bool :=
  keyLt (x.q.plan x.j).fa (x.bits (x.q.plan x.j).fa) (tgSort (Tags.at_ t x.f.vs1.toNat) == 2)

/-- A key of a run. -/
def SlotX.runKey (x : SlotX) (s : State) (r : VReg) (i : Nat) : Nat := x.runGet s r.toNat (x.bits (x.q.plan x.j).fa) i

/-- vmerge, outputs `lo` to `hi` - 1 (R406). -/
def SlotX.runMerge (x : SlotX) (s : State) (lo hi : Nat) : SlotRes :=
  let t := (x.eng s).tagsNow
  let n := x.runLen t x.f.vs1
  x.emitRun s lo hi (2 * n) (tgSpan (Tags.at_ t x.f.vs1.toNat) + 1)
    (mergePicks (x.runLt t) (x.runKey s x.f.vs1) (x.runKey s x.f.vs2) n n (2 * n) 0 0)

/-- vinter (R407). -/
def SlotX.runInter (x : SlotX) (s : State) : SlotRes :=
  let t := (x.eng s).tagsNow
  let na := x.runLen t x.f.vs1
  let nb := x.runLen t x.f.vs2
  x.emitRun s 0 na na (tgSpan (Tags.at_ t x.f.vs1.toNat))
    (interPicks (x.runLt t) (x.runKey s x.f.vs1) (x.runKey s x.f.vs2) na nb (na + nb) 0 0)

/-- vuniq (R407). -/
def SlotX.runUniq (x : SlotX) (s : State) : SlotRes :=
  let t := (x.eng s).tagsNow
  let na := x.runLen t x.f.vs1
  x.emitRun s 0 na na (tgSpan (Tags.at_ t x.f.vs1.toNat)) (uniqPicks (x.runLt t) (x.runKey s x.f.vs1) na)

/-- vrank (R408). -/
def SlotX.runRank (x : SlotX) (s : State) : SlotRes :=
  let t := (x.eng s).tagsNow
  let ks := (List.range (x.runLen t x.f.vs1)).map (x.runKey s x.f.vs1)
  let d := x.grp x.f.vd 32
  let rank (i : Nat) : Nat := (ks.filter (fun k => x.runLt t k (x.get s x.f.vs2 (x.bits (x.q.plan x.j).fa) i))).length
  let u := x.put s x.f.vd.toNat 32 ((List.range x.q.vl).map (fun i => (i, rank i)))
  let u := x.tails u x.f.vd.toNat d.count 32 x.q.vl
  .ok (x.retags u (fun t => Tags.write t x.f.vd.toNat d.count 6)).freed

end Sys2Proof.Machine
end

