-- ==== Sys2Proof/Machine/VXlane.lean ====
section
/-! DEFINITION. The cross-lane unit: reductions, scans, segments and permutes (R202, R413 to R423). -/

namespace Sys2Proof.Machine

open Sys2Proof

/-- A value in an accumulator format: a float, or an integer of 64 bits (R202). -/
inductive AccV where
  | f (v : FV)
  | i (v : Int)
  deriving DecidableEq, Repr

/-- A reduction's source format, operation code and rounding mode (R401). -/
structure Red where
  fmt : Nat
  op : Nat
  rnd : Nat
  deriving DecidableEq, Repr

/-- Integers of the accumulator: i64 or unsigned 64 (R202). -/
def Red.wrap (r : Red) (v : Int) : Int :=
  let n := unsignedOf 64 v
  if isSigned r.fmt then signedOf 64 n else (n : Int)

/-- The identity of the operation (R202). -/
def Red.ident (r : Red) : AccV :=
  if isFloat r.fmt then .f (match r.op with | 0 => .fin false 0 0 | 1 => .inf false | _ => .inf true)
  else
    .i (match r.op with
      | 1 => (intRange r.fmt).2
      | 2 => (intRange r.fmt).1
      | 3 => r.wrap (-1)
      | _ => 0)

/-- An element widened without rounding (R202, R413). -/
def Red.load (r : Red) (bits : Nat) : AccV := if isFloat r.fmt then .f (decodeF r.fmt bits) else .i (intVal r.fmt bits)

/-- One step, with its flags (R202, R413). -/
def Red.step (r : Red) (a b : AccV) : AccV × Nat :=
  match a, b with
  | .f x, .f y =>
    (match r.op with
    | 0 =>
      let (z, f) := addFV r.rnd x y
      let (n, g) := roundF 13 r.rnd false z
      (.f (decodeF 13 n), f ||| g)
    | 1 => (.f (minmaxFV false x y), 0)
    | _ => (.f (minmaxFV true x y), 0))
  | .i x, .i y =>
    let u (v : Int) : Nat := unsignedOf 64 v
    (.i (match r.op with
      | 0 => r.wrap (x + y)
      | 1 => if x ≤ y then x else y
      | 2 => if x ≤ y then y else x
      | 3 => r.wrap ((u x &&& u y : Nat) : Int)
      | 4 => r.wrap ((u x ||| u y : Nat) : Int)
      | _ => r.wrap ((u x ^^^ u y : Nat) : Int)), 0)
  | _, _ => (a, 0)

/-- The accumulator converted to a format: f32 or 64 bits for a result, the source format for a scan (R414, R415). -/
def Red.store (r : Red) (fmt : Nat) (v : AccV) : Nat × Nat :=
  match v with
  | .f x => roundF fmt r.rnd false x
  | .i x => (unsignedOf (fmtBits fmt 3) x, 0)

/-- A running accumulation, left to right (R202). -/
def Red.seqFrom (r : Red) (acc : AccV) (fl : Nat) : List AccV → AccV × Nat
  | [] => (acc, fl)
  | x :: xs =>
    let (a, g) := r.step acc x
    r.seqFrom a (fl ||| g) xs

/-- Combine pairs at distance `h`, over the first `h` elements of a list of 2h. -/
def Red.halve (r : Red) (xs : List AccV) (h : Nat) : List AccV × Nat :=
  let zs := (xs.take h).zip (xs.drop h)
  (zs.map (fun p => (r.step p.1 p.2).1), zs.foldl (fun fl p => fl ||| (r.step p.1 p.2).2) 0)

/-- The passes of `.tree` over a list of 2^n elements (R202). -/
def Red.treeFrom (r : Red) : Nat → List AccV → Nat → AccV × Nat
  | 0, xs, fl => (xs.headD r.ident, fl)
  | n + 1, xs, fl =>
    let (ys, g) := r.halve xs (2 ^ n)
    r.treeFrom n ys (fl ||| g)

/-- log2 of the least power of two not below a count. -/
def lgUp (n : Nat) : Nat := if n ≤ 1 then 0 else lg (n - 1) + 1

/-- A whole reduction (R202); none gives the identity (R414). -/
def Red.reduce (r : Red) (tree : Bool) (xs : List AccV) : AccV × Nat :=
  match xs with
  | [] => (r.ident, 0)
  | x :: rest =>
    if tree then r.treeFrom (lgUp xs.length) (xs ++ List.replicate (2 ^ lgUp xs.length - xs.length) r.ident) 0
    else r.seqFrom x 0 rest

/-- One pass of a `.tree` scan at distance `d`; `same i` says that a step may be made at index i (R415, R420). -/
def Red.scanPass (r : Red) (d : Nat) (same : Nat → Bool) (xs : List AccV) : List AccV × Nat :=
  let ps := xs.zipIdx.map (fun p =>
    if d ≤ p.2 && same p.2 then r.step (xs.getD (p.2 - d) r.ident) p.1 else (p.1, 0))
  (ps.map (fun p => p.1), ps.foldl (fun fl p => fl ||| p.2) 0)

/-- The passes of a `.tree` scan. `same d i` says that i - d lies in the segment of i. -/
def Red.scanTree (r : Red) (same : Nat → Nat → Bool) : Nat → Nat → List AccV → Nat → List AccV × Nat
  | 0, _, xs, fl => (xs, fl)
  | n + 1, d, xs, fl =>
    let (ys, g) := r.scanPass d (same d) xs
    r.scanTree same n (2 * d) ys (fl ||| g)

/-- A `.seq` scan; `first i` says that a segment begins at index i. -/
def Red.scanSeq (r : Red) (first : Nat → Bool) (acc : AccV) (i : Nat) : List AccV → List AccV × Nat
  | [] => ([], 0)
  | x :: xs =>
    let (a, g) := if i = 0 || first i then (x, 0) else r.step acc x
    let (ys, h) := r.scanSeq first a (i + 1) xs
    (a :: ys, g ||| h)

/-- The slot's reduction. -/
def SlotX.red (x : SlotX) : Red := { fmt := (x.q.plan x.j).fa, op := vcond x.f, rnd := vrnd x.f }

/-- The source of a reduction or scan: masked-off and padded elements take the identity (R413). -/
def SlotX.redSrc (x : SlotX) (s : State) : List AccV :=
  let r := x.red
  (List.range x.q.vl).map (fun i => if i < x.q.n && x.act s i then r.load (x.get s x.f.vs1 (x.bits r.fmt) i) else r.ident)

/-- vred: the scalar destination lands (R414). -/
def SlotX.runRed (x : SlotX) (s : State) : SlotRes :=
  let r := x.red
  let (v, fl) := r.reduce (!vseq x.f) (x.redSrc s)
  let out := (r.store (if isFloat r.fmt then 13 else fmtB) v).1
  .ok (x.flags (s.updEng x.c x.e (fun g => g.land x.f.vd (wordN out))) fl)

/-- Write the outputs `lo` to `hi` - 1 of a scan (R415, R416); with the last come the tail and the flags of every step (R413). `on`
says which elements are active. -/
def SlotX.scanOut (x : SlotX) (s : State) (lo hi : Nat) (on : Nat → Bool) (ys : List AccV) (fl : Nat) : SlotRes :=
  let r := x.red
  let w := x.bits r.fmt
  let val (i : Nat) : Nat × Nat := r.store r.fmt (ys.getD i r.ident)
  let fl := (x.outs s w 0 x.q.n on (fun i => some i)).foldl (fun fl o => if on o.1 then fl ||| (val o.1).2 else fl) fl
  let t := (x.put s x.f.vd.toNat w (x.outs s w lo hi on (fun i => some (val i).1))).freed
  if hi < x.q.vl then .ok t
  else .ok (x.flags (x.tails t x.f.vd.toNat (x.scanGrp w).count w x.q.vl) fl).freed

/-- vscan (R415). -/
def SlotX.runScan (x : SlotX) (s : State) (lo hi : Nat) : SlotRes :=
  let r := x.red
  let xs := x.redSrc s
  let (ys, fl) := if vseq x.f then r.scanSeq (fun _ => false) r.ident 0 xs
    else r.scanTree (fun _ _ => true) (lgUp xs.length) 1 xs 0
  x.scanOut s lo hi (x.act s) ys fl

/-- vsegred: output j is the reduction of segment j (R419). -/
def SlotX.runSegred (x : SlotX) (s : State) : SlotRes :=
  let r := x.red
  let fo := if isFloat r.fmt then 13 else 7
  let wo := if isFloat r.fmt then 32 else 64
  let xs := x.redSrc s
  let res := (List.range 64).map (fun j =>
    r.reduce (!vseq x.f) ((xs.take (x.segEnd j)).drop (x.segAt j)))
  let n := (x.grp x.f.vd wo).count
  let t := x.put s x.f.vd.toNat wo (numbered (res.map (fun v => (r.store (if isFloat r.fmt then 13 else fmtB) v.1).1)))
  let t := x.tails t x.f.vd.toNat n wo 64
  let fl := res.foldl (fun fl v => fl ||| v.2) 0
  .ok (x.flags (x.retags t (fun t => Tags.write t x.f.vd.toNat n fo)) fl).freed

/-- vsegscan: a scan within each segment; indices in no segment follow the masked-off rule (R420). -/
def SlotX.runSegscan (x : SlotX) (s : State) (lo hi : Nat) : SlotRes :=
  let r := x.red
  let xs := x.redSrc s
  let same (d i : Nat) : Bool := match x.segOf i with | some j => d ≤ i && x.segAt j ≤ i - d | none => false
  let first (i : Nat) : Bool := match x.segOf i with | some j => x.segAt j == i | none => true
  let (ys, fl) := if vseq x.f then r.scanSeq first r.ident 0 xs else r.scanTree same (lgUp xs.length) 1 xs 0
  x.scanOut s lo hi (fun i => x.act s i && (x.segOf i).isSome) ys fl

/-! ### Permutes (R422, R423) -/

/-- Write the elements `lo` to `hi` - 1 of the destination of a permute; the tail comes with the last. -/
def SlotX.permPut (x : SlotX) (s : State) (hi : Nat) (outs : List (Nat × Nat)) : SlotRes :=
  let w := x.bits (x.q.plan x.j).fa
  let t := (x.put s x.f.vd.toNat w outs).freed
  if hi < x.q.vl then .ok t else .ok (x.tails t x.f.vd.toNat (x.grp x.f.vd w).count w x.q.vl).freed

/-- The elements `lo` to `hi` - 1 of the destination of a permute, by the values of active elements. -/
def SlotX.permOut (x : SlotX) (s : State) (lo hi : Nat) (on : Nat → Bool) (val : Nat → Option Nat) : SlotRes :=
  x.permPut s hi (x.outs s (x.bits (x.q.plan x.j).fa) lo hi on val)

/-- An element of the permute's source. -/
def SlotX.src (x : SlotX) (s : State) (i : Nat) : Nat := x.get s x.f.vs1 (x.bits (x.q.plan x.j).fa) i

/-- vperm. -/
def SlotX.runPerm (x : SlotX) (s : State) (lo hi : Nat) : SlotRes :=
  let fx := (x.q.plan x.j).fb
  x.permOut s lo hi (x.act s) (fun i =>
    let k := (indexVal (s.coreAt x.c) (x.eng s).vmap x.f.vs2.toNat fx (vtBw x.vt) i).toInt
    let k := if isSigned fx then k else ((k % (2 : Int) ^ 64).toNat : Int)
    some (if 0 ≤ k && k < x.q.n then x.src s k.toNat else 0))

/-- vslide. -/
def SlotX.runSlide (x : SlotX) (s : State) (lo hi : Nat) : SlotRes :=
  let k := if x.f.form == 2 then (vimm x.f).toNat else (x.q.sc x.j 1).toNat
  x.permOut s lo hi (x.act s) (fun i =>
    if vbit16 x.f then some (if i + k < x.q.n then x.src s (i + k) else 0)
    else if k ≤ i then some (x.src s (i - k)) else none)

/-- vrev. -/
def SlotX.runRev (x : SlotX) (s : State) (lo hi : Nat) : SlotRes :=
  x.permOut s lo hi (x.act s) (fun i => some (x.src s (x.q.n - 1 - i)))

/-- vcompress: the mask selects; the elements behind the selected ones follow the tail rule. -/
def SlotX.runCompress (x : SlotX) (s : State) (lo hi : Nat) : SlotRes :=
  let w := x.bits (x.q.plan x.j).fa
  let sel := ((List.range x.q.n).filter (x.act s)).map (x.src s)
  x.permPut s hi ((rangeFrom lo hi).flatMap (fun i =>
    match sel[i]? with | some v => [(i, v)] | none => x.leave s (vtTa x.vt) w i))

/-- vexpand: unselected elements follow the masked-off rule. -/
def SlotX.runExpand (x : SlotX) (s : State) (lo hi : Nat) : SlotRes :=
  x.permOut s lo hi (x.act s) (fun i => some (x.src s ((List.range i).filter (x.act s)).length))

end Sys2Proof.Machine
end

