-- ==== Sys2Proof/Machine/VQueue.lean ====
section
/-! DEFINITION. The vector queue: what its head finds when it begins, its faults, and its leaving (R94, R96, R98, R114,
R117, R213, R267, R285). -/

namespace Sys2Proof.Machine

open Sys2Proof

/-- The head of a thread's vector queue. -/
def State.headOf (s : State) (c : CoreId) (e : EngId) : Option QConvoy := (s.engAt c e).v.vq.head?

/-- Change the head of a thread's vector queue. -/
def State.updHead (s : State) (c : CoreId) (e : EngId) (f : QConvoy → QConvoy) : State :=
  s.updV c e (fun v => match v.vq with | [] => v | q :: rest => { v with vq := f q :: rest })

/-! ### Beginning (R98, R114, R117) -/

/-- What a head finds before any check of its own: its registers at hand, another thread's first-use trap to wait for, or
ECODE 0x0a with its cause. -/
inductive Avail where
  | here
  | wait
  | gone (cause : Nat)
  deriving DecidableEq, Repr

/-- A first-use trap of the instance is open (R114). -/
def Inst.firstUseOpen (n : Inst) : Bool := n.engs.any (fun g => match g.aside with | some a => a.firstUse | none => false)

/-- A group of the parked instance still scatters into the register file (R397). -/
def Core.scattering (k : Core) : Bool := k.parked.live && k.parked.engs.any (fun g => g.v.vq.any QConvoy.scattering)

/-- The vector registers of a thread are at hand, unless it lacks them. -/
def State.avail (s : State) (c : CoreId) (e : EngId) : Avail :=
  let g := s.engAt c e
  if g.tr.raw then .here
  else if !(s.coreAt c).owns then
    (if (s.instAt c).firstUseOpen || (s.coreAt c).scattering then .wait else .gone 1)
  else if g.v.len = 0 then .gone 2
  else if g.v.lost then .gone 3
  else .here

/-! ### Faults (R96, R267) -/

/-- The line in which an element of a thread found uncorrectable data, by EINFO: its links break (R265, R391). -/
def State.foundIn (s : State) (c : CoreId) (e : EngId) (f : AFault) : State :=
  match f with
  | .trap 0x0c info =>
    let addr := info.toNat / 2 ^ 12
    let sp := match info.toNat / 256 % 16 with | 0 => some Space.g | 1 => some Space.s | _ => none
    (match sp.map (fun sp => s.resolve c (s.engAt c e).tr.priv sp addr 1 false false) with
    | some (.ok l) => s.breakLinks l
    | _ => s)
  | _ => s

/-- The head of a thread's queue stops at element `i`: everything below has committed, the rest is discarded, and the trap
is raised at its header; or its thread freezes, with the convoy at its head. -/
def State.convoyFault (s : State) (c : CoreId) (e : EngId) (q : QConvoy) (i : Nat) (f : AFault) : State :=
  let s := ((s.updHead c e (fun q => { q with prog := i })).updV c e (fun v => { v with vstart := i })).foundIn c e f
  match f with
  | .freeze code addr => s.freezeEng c e code addr
  | .trap code info =>
    ((s.updHead c e (fun q => { q with start := none, fly := [], skip := 0 })).updEng c e Eng.stopHead).raiseTrap c e
      { code := code, info := info, epc := q.pc, src := 1, conv := true, seq := q.seq, acc := none,
        fired := firedOf (if q.start == some i then q.skip else 0) code info, elem := none }

/-- The head meets vector state that is unavailable; the mark of R117 is taken once. -/
def State.unavailable (s : State) (c : CoreId) (e : EngId) (q : QConvoy) (cause : Nat) : State :=
  let s := if cause = 3 then s.updV c e (fun v => { v with lost := false }) else s
  s.convoyFault c e q q.prog (.trap 0x0a (wordN cause))

/-- The head of a thread that runs would begin, and meets the first-use trap (R114). -/
def State.meetsFirstUse (s : State) (c : CoreId) (e : EngId) : Bool :=
  let g := s.engAt c e
  g.running && !g.frozen && (match g.v.vq.head? with | some q => q.start.isNone | none => false) && s.avail c e == .gone 1

/-- The head of a thread finds its vector state unavailable. The first-use trap is taken by the lowest thread that has come to it
(R114). -/
def State.lacks (s : State) (c : CoreId) (e : EngId) (q : QConvoy) (cause : Nat) : State :=
  if cause != 1 then s.unavailable c e q cause
  else
    match (List.range 4).find? (fun t => s.meetsFirstUse c (Fin.ofNat 5 t)) with
    | none => s.unavailable c e q cause
    | some t =>
      match s.headOf c (Fin.ofNat 5 t) with
      | some p => s.unavailable c (Fin.ofNat 5 t) p cause
      | none => s

/-! ### Leaving -/

/-- The marks at the front of a queue clear the tags and go (R213). -/
def dropMarks (t : Tags) : List QConvoy → Tags × List QConvoy
  | [] => (t, [])
  | q :: rest => if q.isMark then dropMarks (Tags.clearAll t) rest else (t, q :: rest)

/-- The head retires: VSTART becomes 0, and what waited only for it goes on (R10, R94). -/
def Eng.retireHead (g : Eng) : Eng :=
  let (t, vq) := dropMarks g.v.tags (g.v.vq.drop 1)
  { g with
    fences := if vq.isEmpty && g.accs.isEmpty then [] else g.fences,
    v := { g.v with vq := vq, tags := t, vstart := 0, waitSince := none } }

/-! ### Trace records (R285, R464) -/

/-- The elements of a group that a slot accesses, with their addresses, before the slot runs. -/
def SlotX.wentTo (x : SlotX) (s : State) (f : Fly) (lo hi : Nat) : List (Nat × Nat) :=
  match x.op with
  | .vldIpb =>
    if x.blk 0 1 = 1 then []
    else
      (x.live s lo hi).map (fun i =>
        (i, ((f.value (x.key i + 4)).getD 0 + x.blk 24 8 + (x.blk 16 8 + i) % 2 ^ x.blk 3 1 * (x.wv / 8)) % 2 ^ 64))
  | .vsegld =>
    (x.segLive s lo hi).map (fun i =>
      let j := (x.segOf i).getD 0
      (i, ((x.segBase j).getD 0 + (i - x.segAt j) * (x.wv / 8)) % 2 ^ 64))
  | .vmmCopy | .vmmFill => (rangeFrom lo hi).map (fun i => (i, (x.q.sc x.j 0).toNat + 8 * i))
  | .vmrgs => (rangeFrom lo hi).map (fun i => (i, (x.blk 32 8 + i * x.mrgsKey) % 2 ^ 64))
  | _ => (x.live s lo hi).map (fun i => (i, (elemAddr (s.coreAt x.c) (x.eng s).vmap x.q x.j x.v i).toNat))

/-- Note where a slot's elements go, while memory records are on. -/
def SlotX.note (x : SlotX) (s0 : State) (f : Fly) (lo hi : Nat) (s : State) : State :=
  if (s.coreAt x.c).trc.getLsbD 62 && slotIsMem x.op then
    s.updHead x.c x.e (fun q => { q with went := q.went ++ (x.wentTo s0 f lo hi).map (fun p => (8 * p.1 + x.j, p.2)) })
  else s

/-- A slot's record counts as a store: it writes memory. -/
def slotStores (op : VOp) : Bool := vunit op == 5 || vunit op == 10 || op == .vamo || op == .vmrgs

/-- The records of the memory instructions of a convoy that completes or faults: the elements since it began, with their
offsets from the base. -/
def State.traceConvoy (s : State) (c : CoreId) (e : EngId) (q : QConvoy) : State :=
  if !(s.coreAt c).trc.getLsbD 62 then s
  else
    (q.slots.zipIdx).foldl (fun s vj =>
      if slotIsMem vj.1.op then
        let base := q.sc vj.2 0
        let es := (q.went.filter (fun p => p.1 % 8 == vj.2)).map (fun p => (p.1 / 8, (p.2 : Int) - (base.toNat : Int)))
        s.traceMem c e q.pc base vj.1.f.cls.toNat (slotStores vj.1.op) es
      else s) s

end Sys2Proof.Machine
end

