-- ==== Sys2Proof/Machine/Abound.lean ====
section
/-! DEFINITION. `abound`: the bounds of the blocks of a context against a query, and the list of the best of them (R235,
R241 to R244, R447, R448). -/

namespace Sys2Proof.Machine

open Sys2Proof

/-! ### Block-table entries (R235, R241) -/

/-- What an entry says: nothing that counts, a spilled block, an allocated frame, or a malformed entry. -/
inductive Entry where
  | empty
  | spilled
  | frame (slot num : Nat)
  | bad
  deriving DecidableEq, Repr

/-- ADDR of an entry. -/
def entryAddr (w : Nat) : Nat := bitsOf w 51 12 * 4096

/-- Judge an entry of an enabled pool (R241). -/
def Pool.entry (p : Pool) (w : Nat) : Entry :=
  if bitsOf w 63 52 != 0 || bitsOf w 11 2 != 0 || (bitN w 0 && bitN w 1) then .bad
  else if bitN w 1 then .spilled
  else if !bitN w 0 then .empty
  else
    match p.locate (entryAddr w) with
    | some (i, f, 0) => if (p.frame i f).isSome then .frame i f else .bad
    | _ => .bad

/-- What `abound` and `agather` find in an entry: while no pool is enabled and while a disable runs, one with V = 0 (R235, R241). -/
def Pool.reads (p : Pool) (w : Nat) : Entry := if p.en && !p.busy then p.entry w else .empty

/-- The mark that `seen` keeps for a block whose frame is referenced: the frame's address, and the physical address of the
entry that was read; 0 for a block without a reference (R242). -/
def refMark (frameVa entryPa : Nat) : Nat := frameVa + 1 + 2 ^ 64 * entryPa

/-- The references of a running `abound`, as block, frame address and physical address of the entry (R242). -/
def QConvoy.refs (q : QConvoy) : List (Nat × Nat × Nat) :=
  if q.abound.isNone then []
  else (q.seen.reverse.zipIdx).filterMap (fun x =>
    if x.1.1 = 0 then none else some (x.2, x.1.1 % 2 ^ 64 - 1, x.1.1 / 2 ^ 64))

/-! ### The bound of a block (R243) -/

/-- A product in which 0 times an infinity is 0. -/
def boundMul (a b : FV) : FV :=
  match a, b with
  | .fin _ 0 _, .inf _ => .fin false 0 0
  | .inf _, .fin _ 0 _ => .fin false 0 0
  | _, _ => (mulFV a b).1

/-- The term of a channel. -/
def boundTerm (q lo hi : FV) : FV := if q.isNaN then .inf false else minmaxFV true (boundMul q lo) (boundMul q hi)

/-- The bound of a block from its terms. -/
def boundOf (ts : List FV) : Nat :=
  let g := ts.foldl (fun g t => g.add (t, 0)) Sigma.zero
  (roundF 13 3 false (if g.pos then .inf false else g.value.1)).1

/-! ### The block and the query (R243, R244) -/

/-- A field of the parameter block. -/
def QConvoy.ab (q : QConvoy) (off len : Nat) : Nat := fieldLE q.blk off len

/-- The bytes of a query element. -/
def aboundQsz (qfmt : Nat) : Nat := if qfmt = 12 then 2 else 4

/-- A block of `abound` is malformed (R244); `nh` is given while a pool is enabled. -/
def aboundBad (bs : List Byte) (nh : Option Nat) : Bool :=
  let n (o l : Nat) : Nat := fieldLE bs o l
  n 0 4 = 0 || 65536 < n 0 4 || !(n 24 1 == 12 || n 24 1 == 13) || (match nh with | some h => h ≤ n 25 1 | none => false) ||
    15 < n 26 1 || 1 < n 27 1 || !zeroBytes bs 28 100 || n 8 8 % 8 != 0 || n 16 8 % aboundQsz (n 24 1) != 0

/-- The slot that stands for `abound` in the operations over register groups. -/
def aboundSlot (c : CoreId) (e : EngId) (q : QConvoy) (a : Abound) : SlotX :=
  { c := c, e := e, q := q, j := 0,
    v := { op := .vsortr, f := { vd := a.vd, vs1 := 0, vs2 := 0, vs3 := 0, mask := 0, neg := false, cls := 0, aq := false,
                                 rl := false, form := 0, mods := 0 } } }

/-- The checks of `abound` at issue (R244, R351, R448). -/
def aboundFault (x : SlotX) (a : Abound) (len regs : Nat) : Option AFault :=
  let g := vtG x.vt
  firstFault [
    when (!vtypeOk x.vt len || a.vd.toNat % g != 0 || regs < a.vd.toNat + 2 * g || 1024 < x.q.vl) (.trap 1 a.word),
    when (x.wv != 32) (mixed x.fv x.fv)]

/-- An S range that an instruction of a thread reads for itself: its bytes and its place, nothing while an earlier access of the thread
holds the read back, or what it meets (R163, R384). -/
def State.ownS (s : State) (c : CoreId) (e : EngId) (seq cls : Nat) (rl : Bool) (off len : Nat) :
    Except AFault (Option (List Byte × Touch)) :=
  match s.sLoc c (s.engAt c e).tr.priv off len with
  | .error f => .error f
  | .ok l =>
    let t := touchAt .s off len l
    if !s.accsAllow c e seq cls rl [t] then .ok none
    else if s.badRead l len then .error (.trap 0x0c (poisonInfo off 1))
    else .ok (some (s.readLoc l len, t))

/-! ### One block after another (R242) -/

/-- Read a range of G for the Assayer: its bytes, and what the read of a device register leaves (R474). -/
def State.aboundG (s : State) (c : CoreId) (sup : Bool) (va len : Nat) : Except AFault (List Byte × State) :=
  match s.xlate c sup va len permR with
  | .error f => .error f
  | .ok pa => s.readAny c pa len va

/-- The read of the entry of block `j`: the mark of the reference that it takes in the same instant, 0 for none (R242). -/
def State.aboundEntry (s : State) (c : CoreId) (e : EngId) (q : QConvoy) (word : Word) (j : Nat) : Except AFault (Nat × State) :=
  let sup := (s.engAt c e).tr.priv
  let p := s.poolOf (s.recOf c).part
  let at_ := (q.ab 8 8 + 8 * (q.ab 4 4 + j)) % 2 ^ 64
  match s.xlate c sup at_ 8 permR with
  | .error f => .error f
  | .ok pa =>
    match s.readAny c pa 8 at_ with
    | .error f => .error f
    | .ok (bs, s) =>
      match p.reads (numLE bs) with
      | .bad => .error (.trap 1 word)
      | .frame i f => .ok (refMark (p.frameVa i f) pa, s)
      | _ => .ok (0, s)

/-- The units of a key header that bounding a block reads, as addresses and lengths: `filled`, and then the summaries of a block in
which a token is filled (R238, R243). -/
def Pool.boundUnits (p : Pool) (o filled : Nat) : List (Nat × Nat) :=
  (o + 8, 8) :: (if filled = 0 then [] else (List.range (2 * p.dh)).map (fun k => (o + 64 + 2 * k, 2)))

/-- The bound of a block from the units of its header that have been read: twice the bits plus 1 where it is eligible, 0 otherwise. -/
def QConvoy.boundFrom (q : QConvoy) (p : Pool) (o : Nat) (val : Nat → Nat) : Nat :=
  let qs := q.blk.drop 128
  let sz := aboundQsz (q.ab 24 1)
  if val (o + 8) = 0 then 0
  else
    2 * boundOf ((List.range p.dh).map (fun ch =>
      boundTerm (decodeF (q.ab 24 1) (fieldLE qs (sz * ch) sz)) (decodeF 12 (val (o + 64 + 2 * ch)))
        (decodeF 12 (val (o + 64 + 2 * p.dh + 2 * ch))))) + 1

/-- The head goes on with the block whose frame it holds: a unit of its key header is read, any of those that are left, or its bound
is formed (R161, R242, R243). -/
def State.aboundHeader (s : State) (c : CoreId) (e : EngId) (q : QConvoy) (f : Fly) : Except AFault State :=
  let p := s.poolOf (s.recOf c).part
  let o := ((q.seen.headD (0, 0)).1 % 2 ^ 64 - 1) + p.blockOff false (q.ab 25 1)
  let val (a : Nat) : Nat := ((f.got.find? (fun x => x.1 == a)).map (fun x => x.2)).getD 0
  let has (a : Nat) : Bool := f.got.any (fun x => x.1 == a)
  let left := (p.boundUnits o (val (o + 8))).filter (fun u => !has u.1)
  let (u, s) := s.anyOf left
  match u with
  | none =>
    .ok (s.updHead c e (fun q =>
      { q with fly := [], seen := match q.seen with | [] => [] | (m, _) :: r => (m, q.boundFrom p o val) :: r }))
  | some u =>
    match s.aboundG c (s.engAt c e).tr.priv u.1 u.2 with
    | .error x => .error x
    | .ok (bs, s) => .ok (s.updHead c e (fun q => { q with fly := [{ f with got := (u.1, numLE bs) :: f.got }] }))

/-- The next step on the blocks of the head (R242). -/
def State.aboundNext (s : State) (c : CoreId) (e : EngId) (q : QConvoy) (word : Word) : Except AFault State :=
  match q.fly with
  | f :: _ => s.aboundHeader c e q f
  | [] =>
    let j := q.seen.length
    match s.aboundEntry c e q word j with
    | .error x => .error x
    | .ok (m, s) =>
      .ok (s.updHead c e (fun q => { q with
        seen := (m, 0) :: q.seen, fly := if m = 0 then [] else [{ lo := j, hi := j + 1, lg := 0, got := [], cut := none, stage := 0, locs := [] }] }))

/-- The result: the best eligible blocks in stable descending order, its tags, and the number of eligible blocks (R243). -/
def State.aboundEnd (s : State) (c : CoreId) (e : EngId) (q : QConvoy) (a : Abound) : State :=
  let x := aboundSlot c e q a
  let all := (q.seen.reverse.zipIdx).filterMap (fun y => if y.1.2 % 2 = 1 then some (y.1.2 / 2, y.2) else none)
  let top := (sortKeys (keyLt 13 32 true) all).take q.vl
  let gap := q.vl - top.length
  let keys := top.map (fun t => t.1) ++ List.replicate gap 0xff800000
  let pays := top.map (fun t => t.2) ++ List.replicate gap 0xffffffff
  let g := vtG x.vt
  let vp := a.vd.toNat + g
  let s := x.tails (x.put s a.vd.toNat 32 (numbered keys)) a.vd.toNat g 32 q.vl
  let s := x.tails (x.put s vp 32 (numbered pays)) vp g 32 q.vl
  let s := x.retags s (fun t => Tags.setSorted t a.vd.toNat (vtGrp x.vt) 13 2 (some (vp, 6)))
  (s.updEng c e (fun h => (h.land a.rd (wordN all.length)).retireHead)).freed

/-- The query of an `abound` whose block is `bs`, where a pool is enabled: its bytes, once its block has been judged against the pool;
nothing while an earlier access of the thread holds its read back (R243, R244). -/
def State.aboundQuery (s : State) (c : CoreId) (e : EngId) (q : QConvoy) (a : Abound) (bs : List Byte) :
    Except AFault (Option (List Byte)) :=
  let p := s.poolOf (s.recOf c).part
  if !p.en then .ok (some [])
  else if aboundBad bs (some p.nh) then .error (.trap 1 a.word)
  else
    match s.ownS c e q.seq (fieldLE bs 26 1) (bitN (fieldLE bs 27 1) 0) (fieldLE bs 16 8) (p.dh * aboundQsz (fieldLE bs 24 1)) with
    | .error f => .error f
    | .ok y => .ok (y.map (fun z => z.1))

/-- What an `abound` reads before it begins, its block and its query, by the class that the block gives: their bytes, nothing while an
earlier access of the thread holds them back, or what its checks find (R163, R243, R244). -/
def State.aboundRead (s : State) (c : CoreId) (e : EngId) (q : QConvoy) (a : Abound) : Except AFault (Option (List Byte)) :=
  let g := s.engAt c e
  match aboundFault (aboundSlot c e q a) a g.vmap.len g.vregsNow with
  | some f => .error f
  | none =>
    -- no class is 16: until the block has been read, its class holds nothing back
    match s.ownS c e q.seq 16 false a.blk.toNat 128 with
    | .error f => .error f
    | .ok none => .ok none
    | .ok (some (bs, t)) =>
      if aboundBad bs none then .error (.trap 1 a.word)
      else if !s.accsAllow c e q.seq (fieldLE bs 26 1) (bitN (fieldLE bs 27 1) 0) [t] then .ok none
      else
        match s.aboundQuery c e q a bs with
        | .error f => .error f
        | .ok y => .ok (y.map (fun qs => bs ++ qs))

/-- The head, an `abound` that has not begun: its checks, its block, and its query (R243, R244). -/
def State.aboundBegin (s : State) (c : CoreId) (e : EngId) (q : QConvoy) (a : Abound) : State :=
  match s.aboundRead c e q a with
  | .error f => s.convoyFault c e q 0 f
  | .ok none => s
  | .ok (some bs) => s.updHead c e (fun q => { q with start := some 0, blk := bs, seen := [] })

/-- One step of the head, an `abound`: it begins, bounds its next block, or writes its result. -/
def State.aboundStep (s : State) (c : CoreId) (e : EngId) (q : QConvoy) (a : Abound) : State :=
  if s.dies[dieOf c].assayerFrozen then s
  else
    match s.avail c e with
    | .wait => s
    | .gone n => s.lacks c e q n
    | .here =>
      if q.start.isNone then s.aboundBegin c e q a
      else
        let p := s.poolOf (s.recOf c).part
        if q.fly.isEmpty && q.ab 0 4 ≤ q.seen.length then s.aboundEnd c e q a
        else if !p.en then s.updHead c e (fun q => { q with seen := (0, 0) :: q.seen })
        else if q.blk.length != 128 + p.dh * aboundQsz (q.ab 24 1) then
          -- the pool has been enabled since (R244)
          (match s.aboundQuery c e q a (q.blk.take 128) with
          | .error f => s.convoyFault c e q 0 f
          | .ok none => s
          | .ok (some qs) => s.updHead c e (fun q => { q with blk := q.blk.take 128 ++ qs }))
        else
          match s.aboundNext c e q a.word with
          | .ok s => s
          | .error (.trap code info) => s.convoyFault c e q 0 (.trap code info)
          | .error (.freeze code addr) =>
            (s.updDie (dieOf c) (fun d => { d with assayerFrozen := true })).notifyFreeze code (s.recOf c).part
              (masterWord 7 (dieOf c).val 0) addr

/-- ABOUND: enters the vector queue as a convoy of its own, with its operands (R447, R448). -/
def execAbound (rd rs1 : SReg) (vd : VReg) (stl : Stl) (s : State) : Res :=
  let g := s.me
  let i : Instr := .abound rd rs1 vd stl
  let a := s.rg rs1
  let n := vtG g.vtypeNow
  if s.isCaller || rd == 0 || vd.toNat % n != 0 || g.vregsNow < vd.toNat + 2 * n then s.illegal i
  else if a.toNat % 128 != 0 then .next (s.trapMe 0x04 (misInfo a.toNat 128))
  else if 16 ≤ (g.v.vq.filter (fun q => !q.isMark)).length then s.stall
  else
    let q : QConvoy := { clearMark g.pc g.seq with
      vl := g.vlNow, vtype := g.vtypeNow, abound := some { word := faultWord i, rd := rd, vd := vd, blk := a } }
    .next ((s.updMe (fun h => { h.setPend rd true with v := { h.v with vq := h.v.vq ++ [q] } })).finish 4 stl [])

end Sys2Proof.Machine
end

