-- ==== Sys2Proof/Machine/Crypto.lean ====
section
/-! DEFINITION. SHA-256, HMAC, HKDF and ECDSA over P-256, which R43, R44 and R55 name and FIPS 180-4, RFC 2104, RFC 5869
and FIPS 186-5 define (log 27). -/

namespace Sys2Proof.Machine

open Sys2Proof

/-! ### SHA-256 -/

/-- A word of SHA-256. -/
abbrev W32 := BitVec 32

/-- The first 64 primes, from whose roots the constants come (FIPS 180-4). -/
def shaPrimes : List Nat :=
  [2, 3, 5, 7, 11, 13, 17, 19, 23, 29, 31, 37, 41, 43, 47, 53, 59, 61, 67, 71, 73, 79, 83, 89, 97, 101, 103, 107, 109, 113, 127, 131] ++
  [137, 139, 149, 151, 157, 163, 167, 173, 179, 181, 191, 193, 197, 199, 211, 223, 227, 229, 233, 239, 241, 251, 257, 263, 269, 271,
   277, 281, 283, 293, 307, 311]

/-- The `e`-th root of a number, rounded down, from `r` on by its low `k` bits. -/
def rootFrom (e n : Nat) : Nat → Nat → Nat
  | 0, r => r
  | k + 1, r => match Nat.ble ((r + 2 ^ k) ^ e) n with
    | true => rootFrom e n k (r + 2 ^ k)
    | false => rootFrom e n k r

/-- The first 32 bits of the fraction of the `e`-th root of a number below 2 ^ (3 e). -/
def rootWord (e p : Nat) : W32 := BitVec.ofNat 32 (rootFrom e (p * 2 ^ (32 * e)) 35 0)

/-- The round constants: of the cube roots of the primes. -/
def shaK : List W32 := shaPrimes.map (rootWord 3)

/-- The working variables. -/
structure Sha where
  a : W32
  b : W32
  c : W32
  d : W32
  e : W32
  f : W32
  g : W32
  h : W32
  deriving DecidableEq, Repr

/-- The initial hash value: of the square roots of the first eight primes. -/
def Sha.init : Sha :=
  let root (i : Nat) : W32 := rootWord 2 (shaPrimes.getD i 0)
  { a := root 0, b := root 1, c := root 2, d := root 3, e := root 4, f := root 5, g := root 6, h := root 7 }

/-- One round with its constant and schedule word. -/
def Sha.round (x : Sha) (k w : W32) : Sha :=
  let s1 := x.e.rotateRight 6 ^^^ x.e.rotateRight 11 ^^^ x.e.rotateRight 25
  let ch := (x.e &&& x.f) ^^^ (~~~ x.e &&& x.g)
  let t1 := x.h + s1 + ch + k + w
  let s0 := x.a.rotateRight 2 ^^^ x.a.rotateRight 13 ^^^ x.a.rotateRight 22
  let maj := (x.a &&& x.b) ^^^ (x.a &&& x.c) ^^^ (x.b &&& x.c)
  { a := t1 + s0 + maj, b := x.a, c := x.b, d := x.c, e := x.d + t1, f := x.e, g := x.f, h := x.g }

/-- Add two hash values word by word. -/
def Sha.add (x y : Sha) : Sha :=
  { a := x.a + y.a, b := x.b + y.b, c := x.c + y.c, d := x.d + y.d, e := x.e + y.e, f := x.f + y.f, g := x.g + y.g,
    h := x.h + y.h }

/-- The number that bytes hold, big-endian. -/
def numBE (bs : List Byte) : Nat := bs.foldl (fun n b => 256 * n + b.toNat) 0

/-- The big-endian bytes of a number. -/
def bytesBE (len n : Nat) : List Byte := (bytesLE len n).reverse

/-- The next words of the schedule: a window of 16 words, and how many rounds are left. -/
def Sha.rounds (x : Sha) (win : List W32) : List W32 → Sha
  | [] => x
  | k :: ks =>
    let w (i : Nat) : W32 := win.getD i 0
    let r0 := (w 1).rotateRight 7 ^^^ (w 1).rotateRight 18 ^^^ (w 1 >>> 3)
    let r1 := (w 14).rotateRight 17 ^^^ (w 14).rotateRight 19 ^^^ (w 14 >>> 10)
    (x.round k (w 0)).rounds (win.drop 1 ++ [r1 + w 9 + r0 + w 0]) ks

/-- The words of a block. -/
def shaWords : Nat → List Byte → List W32
  | 0, _ => []
  | n + 1, bs => BitVec.ofNat 32 (numBE (bs.take 4)) :: shaWords n (bs.drop 4)

/-- Hash blocks of 64 bytes. -/
def shaBlocks (x : Sha) : Nat → List Byte → Sha
  | 0, _ => x
  | n + 1, bs => shaBlocks (x.add (x.rounds (shaWords 16 (bs.take 64)) shaK)) n (bs.drop 64)

/-- A message padded to whole blocks. -/
def shaPad (bs : List Byte) : List Byte :=
  bs ++ [0x80] ++ List.replicate ((119 - bs.length % 64) % 64) 0 ++ bytesBE 8 (8 * bs.length)

/-- SHA-256: 32 bytes. -/
def sha256 (bs : List Byte) : List Byte :=
  let p := shaPad bs
  let x := shaBlocks Sha.init (p.length / 64) p
  [x.a, x.b, x.c, x.d, x.e, x.f, x.g, x.h].flatMap (fun w => bytesBE 4 w.toNat)

/-- HMAC-SHA-256. -/
def hmac256 (key msg : List Byte) : List Byte :=
  let k := if 64 < key.length then sha256 key else key
  let k := k ++ List.replicate (64 - k.length) 0
  sha256 (k.map (· ^^^ 0x5c) ++ sha256 (k.map (· ^^^ 0x36) ++ msg))

/-- HKDF-SHA-256 with no salt: the first 32 bytes of output (log 27). -/
def hkdf32 (ikm info : List Byte) : List Byte := hmac256 (hmac256 (List.replicate 32 0) ikm) (info ++ [1])

/-! ### P-256 -/

/-- The prime of the field. -/
def p256 : Nat := 0xffffffff00000001000000000000000000000000ffffffffffffffffffffffff
/-- The order of the group. -/
def n256 : Nat := 0xffffffff00000000ffffffffffffffffbce6faada7179e84f3b9cac2fc632551
/-- The constant term of the curve. -/
def b256 : Nat := 0x5ac635d8aa3a93e7b3ebbd55769886bc651d06b0cc53b0f63bce3c3e27d2604b

/-- A point: none is the neutral element. -/
abbrev Point := Option (Nat × Nat)

/-- The base point. -/
def g256 : Point :=
  some (0x6b17d1f2e12c4247f8bce6e563a440f277037d812deb33a0f4a13945d898c296,
        0x4fe342e2fe1a7f9b8ee7eb4a7c0f9e162bce33576b315ececbb6406837bf51f5)

/-- a ^ e mod m over the low `k` bits of the exponent. -/
def powMod (m : Nat) : Nat → Nat → Nat → Nat
  | 0, _, _ => 1 % m
  | k + 1, a, e => (if e % 2 = 1 then a else 1) * powMod m k (a * a % m) (e / 2) % m

/-- The inverse modulo a prime. -/
def invMod (m a : Nat) : Nat := powMod m 256 (a % m) (m - 2)

/-- The sum of two points. -/
def addPt (x y : Point) : Point :=
  match x, y with
  | none, y => y
  | x, none => x
  | some (x1, y1), some (x2, y2) =>
    if x1 = x2 && (y1 + y2) % p256 = 0 then none
    else
      let l := if x1 = x2 then (3 * x1 * x1 + (p256 - 3)) * invMod p256 (2 * y1) % p256
        else (y2 + p256 - y1) * invMod p256 (x2 + p256 - x1) % p256
      let x3 := (l * l + 2 * p256 - x1 - x2) % p256
      some (x3, (l * (x1 + p256 - x3) + p256 - y1) % p256)

/-- A multiple of a point, over the low `k` bits of the scalar. -/
def mulPt : Nat → Nat → Point → Point
  | 0, _, _ => none
  | k + 1, e, x =>
    let y := mulPt k (e / 2) (addPt x x)
    if e % 2 = 1 then addPt x y else y

/-- The public key of 64 bytes for a private scalar (R43). -/
def pubOf (d : Nat) : List Byte :=
  match mulPt 256 d g256 with
  | some (x, y) => bytesBE 32 x ++ bytesBE 32 y
  | none => List.replicate 64 0

/-- A public key names a point of the curve. -/
def onCurve (x y : Nat) : Bool :=
  x < p256 && y < p256 && y * y % p256 == (x * x * x + (p256 - 3) * x + b256) % p256

/-- A signature over a message verifies under a public key (R43). -/
def verifyP256 (key msg sig : List Byte) : Bool :=
  let x := numBE (key.take 32)
  let y := numBE (key.drop 32)
  let r := numBE (sig.take 32)
  let s := numBE (sig.drop 32)
  if r = 0 || n256 ≤ r || s = 0 || n256 ≤ s || !onCurve x y || key.length != 64 || sig.length != 64 then false
  else
    let e := numBE (sha256 msg)
    let w := invMod n256 s
    match addPt (mulPt 256 (e * w % n256) g256) (mulPt 256 (r * w % n256) (some (x, y))) with
    | some (px, _) => px % n256 == r
    | none => false

/-- A signature with a private scalar and a number for the signature, 64 bytes (R43). -/
def signP256 (d k : Nat) (msg : List Byte) : List Byte :=
  let k := k % (n256 - 1) + 1
  match mulPt 256 k g256 with
  | none => List.replicate 64 0
  | some (x, _) =>
    let r := x % n256
    bytesBE 32 r ++ bytesBE 32 (invMod n256 k * (numBE (sha256 msg) + r * d) % n256)

/-- A key's hash (R43). -/
def keyHash (key : List Byte) : List Byte := sha256 key

/-- The private scalar of the device key, from a seed: R44 gives no order of the bytes of the HKDF output, which the model reads
big-endian (log 84). -/
def deviceKey (seed : List Byte) : Nat :=
  let info : List Byte := "VX-AB320 device key".toList.map (fun c => BitVec.ofNat 8 c.toNat)
  numBE (hkdf32 seed info) % (n256 - 1) + 1

end Sys2Proof.Machine
end

