-- ==== Sys2Proof/Machine/Issue.lean ====
section
/-! DEFINITION. What stands between an engine's program counter and the effect of its instruction: fetch, the checks of
the decoder, the scoreboard, and what holds an engine (R119, R141, R143, R267, R283, R297 to R305, R309, R320). -/

namespace Sys2Proof.Machine

open Sys2Proof

/-! ### The scalar registers an instruction reads and writes (R304) -/

/-- A scalar register as the scoreboard numbers it. -/
def regNo (r : SReg) : Nat := r.toNat
/-- A predicate as the scoreboard numbers it. -/
def predNo (p : PReg) : Nat := 32 + p.toNat

/-- The scalar registers that a slot names as sources. -/
def slotScalars (v : VSlot) : List Nat :=
  let row := vrow v.op
  (if row.a == .sca then [v.f.vs1.toNat] else []) ++ (if bUse row v.f.form == .sca then [v.f.vs2.toNat] else []) ++
    (if row.c == .sca then [v.f.vs3.toNat] else [])

/-- The registers and predicates that an instruction reads. `stripd` names the pointers of `vstrip` (R293). An event and
a lone vector instruction read none here; `speek` does not wait for its status register (R143). -/
def instrReads (stripd : Word) : Instr → List Nat
  | .add _ a b _ | .sub _ a b _ | .mul _ a b _ | .mulh _ a b _ | .mulhn _ a b _ | .div _ a b _ | .divn _ a b _
  | .rem _ a b _ | .remn _ a b _ | .and _ a b _ | .or _ a b _ | .xor _ a b _ | .shl _ a b _ | .shr _ a b _
  | .sra _ a b _ | .min _ a b _ | .max _ a b _ | .minn _ a b _ | .maxn _ a b _ => [regNo a, regNo b]
  | .clz _ a _ | .ctz _ a _ | .popc _ a _ | .mov _ a _ => [regNo a]
  | .sel _ p a b _ => [predNo p, regNo a, regNo b]
  | .cmpEq _ a b _ | .cmpNe _ a b _ | .cmpLt _ a b _ | .cmpGe _ a b _ | .cmpLtn _ a b _ | .cmpGen _ a b _ =>
    [regNo a, regNo b]
  | .pand _ a b _ | .por _ a b _ => [predNo a, predNo b]
  | .pnot _ a _ => [predNo a]
  | .addi _ a _ _ | .andi _ a _ _ | .ori _ a _ _ | .xori _ a _ _ | .shli _ a _ _ | .shri _ a _ _ | .srai _ a _ _ =>
    [regNo a]
  | .lih rd _ _ _ => [regNo rd]
  | .cmpiEq _ a _ _ | .cmpiNe _ a _ _ | .cmpiLt _ a _ _ | .cmpiGe _ a _ _ | .cmpiLtn _ a _ _ | .cmpiGen _ a _ _ =>
    [regNo a]
  | .ld f _ | .ldn f _ => [regNo f.base]
  | .st f _ => [regNo f.r, regNo f.base]
  | .amoCas f _ => [f.rd.toNat, regNo f.base, f.rs2.toNat]
  | .amoAdd f _ | .amoMin f _ | .amoMax f _ | .amoSwap f _ | .amoAnd f _ | .amoOr f _ => [regNo f.base, f.rs2.toNat]
  | .bp p _ _ => [predNo p]
  | .jr a _ => [regNo a]
  | .ret _ => [31]
  | .ueret _ => [24]
  | .vstrip rs _ _ => regNo rs :: (stripRegs stripd).map regNo
  | .barInit _ a _ _ | .barArrive _ a _ _ | .barTwait _ _ a _ => [regNo a]
  | .fork _ a _ _ => [regNo a]
  | .launch _ a _ => [regNo a]
  | .crWr a _ _ | .crSet a _ _ | .crClr a _ _ => [regNo a]
  | .tlbinv a _ | .unfreeze _ a _ | .psample a _ => [regNo a]
  | .mma f _ | .mmar f _ | .mreel f _ => [regNo f.rb]
  | .mdrain f _ => [regNo f.rs1]
  | .sstrm _ a _ _ _ => [regNo a]
  | .rtpush a _ _ | .rdisp a _ _ | .rcombPart a _ _ | .rcombFin a _ _ | .rgenRetire a _ _ => [regNo a]
  | .rgenOpen n a b _ _ => [regNo n, regNo a, regNo b]
  | .abound _ a _ _ | .agather _ a _ _ _ => [regNo a]
  | .kvalloc _ a b _ _ | .kvevict _ a b _ _ | .kvinv _ a b _ _ => [regNo a, regNo b]
  | .kvfree _ a _ _ | .kvpin _ a _ _ | .kvunpin _ a _ _ => [regNo a]
  | .sctab a _ => [regNo a]
  | .sop _ h a b _ => [regNo h, regNo a, regNo b]
  | .sreg _ a _ => [regNo a]
  | .vcfg f _ => [regNo f.rs1]
  | .convoy slots _ => slots.flatMap slotScalars
  | _ => []

/-- The scalar registers and predicates that an instruction writes, or puts under the load scoreboard. -/
def instrWrites (stripd : Word) : Instr → List Nat
  | .add d _ _ _ | .sub d _ _ _ | .mul d _ _ _ | .mulh d _ _ _ | .mulhn d _ _ _ | .div d _ _ _ | .divn d _ _ _
  | .rem d _ _ _ | .remn d _ _ _ | .and d _ _ _ | .or d _ _ _ | .xor d _ _ _ | .shl d _ _ _ | .shr d _ _ _
  | .sra d _ _ _ | .min d _ _ _ | .max d _ _ _ | .minn d _ _ _ | .maxn d _ _ _ => [regNo d]
  | .clz d _ _ | .ctz d _ _ | .popc d _ _ | .mov d _ _ => [regNo d]
  | .sel d _ _ _ _ => [regNo d]
  | .addi d _ _ _ | .andi d _ _ _ | .ori d _ _ _ | .xori d _ _ _ | .shli d _ _ _ | .shri d _ _ _ | .srai d _ _ _ =>
    [regNo d]
  | .li d _ _ | .lih d _ _ _ => [regNo d]
  | .ld f _ | .ldn f _ => [regNo f.r]
  | .amoAdd f _ | .amoMin f _ | .amoMax f _ | .amoSwap f _ | .amoCas f _ | .amoAnd f _ | .amoOr f _ => [f.rd.toNat]
  | .call _ _ => [31]
  | .vstrip rs _ _ => regNo rs :: (stripRegs stripd).map regNo
  | .barTwait d _ _ _ | .barTest d _ _ => [regNo d]
  | .launch d _ _ | .ident d _ _ | .clk d _ | .crRd d _ _ | .unfreeze d _ _ => [regNo d]
  | .sstrm d _ _ _ _ | .speek d _ _ => [regNo d]
  | .abound d _ _ _ | .agather d _ _ _ _ => [regNo d]
  | .kvalloc d _ _ _ _ | .kvevict d _ _ _ _ | .kvinv d _ _ _ _ | .kvfree d _ _ _ | .kvpin d _ _ _
  | .kvunpin d _ _ _ => [regNo d]
  | .sbegin d _ _ => [regNo d]
  | .vcfg f _ => [regNo f.rd]
  | .convoy slots _ => slots.flatMap slotDest
  | _ => []

/-! ### What holds an engine -/

/-- The address of the replay sequencer (R260, log 20). -/
def replayLr : Word := 0xfff0000000000000 ||| (Config.replayLow.zeroExtend 64 <<< 2)

/-- An abort stops the engine's issue at its next instruction boundary (R260); in a trap it waits for `eret` (R263). -/
def Eng.aborting (g : Eng) : Bool :=
  !g.tr.trap &&
    match g.task with
    | some t => (match t.abort with | some a => a.at_ != .inHandler || g.pc == replayLr | none => false)
    | none => false

/-- The device is halted for a core: by the debug port, or by a die's temperature (R40, R282). -/
def State.haltedAt (s : State) (c : CoreId) : Bool := s.hub.halted || (s.coreAt c).halted

/-! ### Fetch (R299, R300) -/

/-- The bytes of a code line as an earlier fetch of the instance read it, if one did (R179). -/
def Inst.line (n : Inst) (pa : Nat) : Option (List Byte) := (n.lines.find? (fun x => x.1 == pa / 64 * 64)).map (·.2)

/-- A fetch that reads memory keeps its line of 64 bytes, which later fetches of the instance may use (R179). -/
def State.keepLine (s : State) (pa : Nat) : State :=
  let at_ := pa / 64 * 64
  s.updInst s.core (fun n =>
    { n with lines := (at_, s.mem.readBytes at_ 64) :: n.lines.filter (fun x => x.1 != at_) })

/-- The core may have read any line of the program at any time before it is asked for: it keeps a line, or none (R179). -/
def State.prefetch (s : State) : State :=
  let (n, s) := s.free
  let at_ := Config.number n / 64 * 64
  s.updInst s.core (fun i =>
    { i with lines := if Config.choice n then (at_, s.mem.readBytes at_ 64) :: i.lines.filter (fun x => x.1 != at_) else i.lines })

/-- One word of code in memory: as it stands now, or as an earlier fetch read it, which R179 allows where a write has come
between. -/
def State.codeWord (s : State) (pa : Nat) (va : Word) : Except AFault (List Byte × State) :=
  match s.readPhys (s.partOf s.core) pa 4 va.toNat with
  | .error f => .error f
  | .ok bs =>
    match (s.instAt s.core).line pa with
    | none => .ok (bs, s.keepLine pa)
    | some old => if Config.choice (s.freeCtr * 2 ^ 64 + pa) then .ok (bs, s.keepLine pa) else .ok (slice old (pa % 64) 4, s)

/-- One word at an address of the executing engine's program, with what the fetch leaves: the translation in the TLB, the code
line, and what a read of a device register does (R153, R179, R474). -/
def State.fetchWord (s : State) (va : Word) : Except AFault (List Byte × State) :=
  match s.xlate s.core s.sup va.toNat 4 permX with
  | .error f => .error f
  | .ok pa =>
    let s := s.tlbFill s.core s.sup va.toNat
    if devBase ≤ pa then
      let (v, s) := s.devRead pa 4
      .ok (bytesLE 4 v, s)
    else s.codeWord pa va

/-- Words from an address on. -/
def State.fetchWords (s : State) (va : Word) : Nat → Except AFault (List Byte × State)
  | 0 => .ok ([], s)
  | n + 1 =>
    match s.fetchWord va with
    | .error f => .error f
    | .ok (bs, s) => (match s.fetchWords (va + 4) n with | .error f => .error f | .ok (rest, s) => .ok (bs ++ rest, s))

/-- The bytes of the instruction at the program counter: its first word, its alignment if it is a header, then the
words it has (R299, R300). -/
def State.fetchInstr (s : State) : Except AFault (List Byte × State) :=
  let pc := s.me.pc
  match s.fetchWord pc with
  | .error f => .error f
  | .ok (bs, s) =>
    let w := firstWord bs
    if (fld w 26 6).toNat == 0x3f && pc.toNat % 8 != 4 then .error (.trap 0x04 (misInfo pc.toNat 8))
    else
      match s.fetchWords (pc + 4) (insnBytes w / 4 - 1) with
      | .error f => .error f
      | .ok (rest, s) => .ok (bs ++ rest, s.prefetch)

/-- Make an engine the one that executes. -/
def State.select (s : State) (c : CoreId) (e : EngId) : State := { s with core := c, eng := e }

/-- An engine comes to a handler's `halt` in the ck in which another one has ended its launch: both ends arise in that ck (R271). -/
def State.haltToo (s : State) (c : CoreId) (e : EngId) : Bool :=
  let g := s.engAt c e
  let l := s.launchAt (s.instAt c).launch
  l.status == 1 && l.fatalAt == s.clk && g.tr.priv && g.tr.trap &&
    match (s.select c e).fetchInstr with
    | .ok (bs, _) => (match decode (g.pc.toNat % 8 == 4) bs with | .ok (.halt _, _) => true | _ => false)
    | .error _ => false

/-- An engine may issue: it runs, waits for nothing, its stall count has run, and neither a pre-emption, a trap nor an abort is due
(R107, R119, R267, R304). -/
def State.mayIssue (s : State) (c : CoreId) (e : EngId) : Bool :=
  let n := s.instAt c
  let g := s.engAt c e
  n.live && g.running && !g.frozen && g.wait == .none && g.sopWait.isNone && !n.ending &&
    (!(s.launchAt n.launch).stopping || s.haltToo c e) &&
    !(s.coreAt c).preReq && !s.haltedAt c && !g.aborting && (g.tr.trap || g.traps.isEmpty) && g.cyc ≤ s.clk

/-- The breakpoint comparator that fires at the program counter (R269, R283). -/
def State.breakpoint (s : State) : Option Nat :=
  (List.range 4).find? (fun n =>
    let b := (s.coreAt s.core).bp.toList.getD n 0
    b.getLsbD 63 && b.getLsbD (58 + s.eng.val) && (b &&& 0xffffffffffffc) == s.me.pc && !s.me.skip.testBit n)

/-! ### The decoder's checks (R309, R320) -/

/-- Only the Caller issues the instruction (R309). -/
def callerOnly : Instr → Bool
  | .fork _ _ _ _ | .rendez _ _ | .launch _ _ _ | .vquad _ _ | .mclaimX _ _ | .mclaimXScl _ _ | .mclaimW _ _
  | .mreleaseX _ _ | .mreleaseW _ _ | .mzero _ _ _ | .mqprio _ _ | .mmodeStd _ _ | .mmodeRed _ _ | .mma _ _ | .mmar _ _
  | .mreel _ _ | .mdrain _ _ | .sstrm _ _ _ _ _ | .speek _ _ _ | .ssusp _ _ _ | .sres _ _ _ | .skill _ _ _
  | .snote _ _ _ | .rtpush _ _ _ | .rdisp _ _ _ | .rcombPart _ _ _ | .rcombFin _ _ _ | .rgenOpen _ _ _ _ _
  | .rgenRetire _ _ _ | .agather _ _ _ _ _ | .kvalloc _ _ _ _ _ | .kvfree _ _ _ _ | .kvpin _ _ _ _ | .kvunpin _ _ _ _
  | .kvevict _ _ _ _ _ | .kvinv _ _ _ _ _ => true
  | _ => false

/-- Only vector threads issue the instruction (R309). -/
def threadOnly : Instr → Bool
  | .convoy _ _ | .vcfg _ _ | .vreshape _ _ | .vstrip _ _ _ | .abound _ _ _ _ => true
  | _ => false

/-- The first slot that names a vector register at or above VREGS (R320). -/
def vregsBad (n : Nat) (slots : List VSlot) : Option VSlot :=
  slots.find? (fun v => (slotVRegs v.op v.f).any (fun r => n ≤ r))

/-- The first slot that names a vector register at or above VREGS, where no slot before it is illegal (R320). -/
def vregsEarly (n : Nat) (lone : Bool) : List (Nat × BitVec 64) → Option Word
  | [] => none
  | (u, v) :: rest =>
    match decodeSlot u v with
    | .error _ => none
    | .ok s =>
      if !lone && slotAlone s.op then none
      else if (slotVRegs s.op s.f).any (fun r => n ≤ r) then some v
      else vregsEarly n lone rest

/-- ECODE 0x01 for a convoy that the engine does not permit: its header on a Caller, then VREGS (R299, R320). -/
def State.headerFault (s : State) (bs : List Byte) : Option Word :=
  let w := firstWord bs
  if (fld w 26 6).toNat != 0x3f then none
  else if s.isCaller then some (w.zeroExtend 64)
  else if (hdrReason w).isSome then none
  else vregsEarly s.me.vregsNow (hdrCount w == 1) (hdrSlots w (words64 (hdrCount w) (bs.drop 4)))

/-- ECODE 0x01 for an instruction that the engine does not permit (R309, R320). -/
def State.engineFault (s : State) (i : Instr) : Option Word :=
  if (callerOnly i && !s.isCaller) || (threadOnly i && s.isCaller) then some (faultWord i) else none

/-- The code that an instruction raises by what R343 forbids and R323 reserves to the supervisor, which comes before its operands are
looked at (R320). -/
def State.accessFault (s : State) (i : Instr) : Option Nat :=
  match i with
  | .crRd _ num _ => s.crFault num.toNat false
  | .crWr _ num _ | .crSet _ num _ | .crClr _ num _ => s.crFault num.toNat true
  | .eret _ | .unfreeze _ _ _ => if s.sup then none else some 3
  | .ident _ sel _ => if 8 < sel.toNat then some 1 else if sel == 7 && !s.sup then some 3 else none
  | _ => none

/-! ### The scoreboard (R141, R143, R304, R305) -/

/-- Of the sources whose fixed latency has not run, the entry of the one that is ready last (R304, R305). -/
def Eng.early (g : Eng) (clk : Nat) (reads : List Nat) : Option Lat :=
  (g.lat.filter (fun l => reads.contains l.reg && clk < l.ready)).foldl
    (fun b l => match b with | none => some l | some k => if k.ready < l.ready then some l else b) none

/-- EINFO of an undersized stall count: the count given and the count needed (R265, log 19). -/
def Lat.info (l : Lat) (clk : Nat) : Word := wordN (l.stl % 8 + Nat.min 7 (l.stl + (l.ready - clk)) * 8)

/-- A status word stands in the register that a number names now. -/
def Eng.statIn (g : Eng) (t : StatReg) (reads : List Nat) : Bool :=
  reads.contains t.reg.toNat && t.shadow == g.shadowed t.reg.toNat

/-- The landed status word that a read finds in error: its register (R143). -/
def Eng.badStatus (g : Eng) (reads : List Nat) : Option StatReg :=
  g.stats.find? (fun t => g.statIn t reads && fieldW (g.rd t.reg) 63 62 == 3)

/-- The status words that an instruction reads count as read. -/
def Eng.markRead (g : Eng) (reads : List Nat) : Eng :=
  { g with stats := g.stats.map (fun t => if g.statIn t reads then { t with read := true } else t) }

/-- The register that an instruction reads without waiting for it and without a fault (R143). -/
def instrPeeks : Instr → List Nat
  | .speek _ a _ => [regNo a]
  | _ => []

/-! ### The front of a step -/

/-- The scoreboard's checks, and the status words read, of a decoded instruction (R141, R143, R304, R305). -/
def State.operandsReady (s : State) (i : Instr) : Except State (Instr × State) :=
  let g := s.me
  let reads := instrReads g.v.stripd i
  let regs := reads ++ instrWrites g.v.stripd i
  if regs.any (fun r => r < 32 && g.held (BitVec.ofNat 5 r)) then .error s
  else
    match g.early s.clk (reads ++ instrPeeks i) with
    | some l =>
      if g.sbchk then .error (s.trapMe 0x0b (l.info s.clk))
      else .error (s.updMe (fun g => { g with cyc := l.ready + 2 }))
    | none =>
      match g.badStatus reads with
      | some t =>
        .error ((s.updMe (fun g => g.markRead reads)).trapMe 0x13
          (wordN (t.port.val + fieldW (g.rd t.reg) 61 56 * 256)))
      | none => .ok (i, s.updMe (fun g => g.markRead reads))

/-- The checks of the decoder on the bytes that have been fetched (R320): the instruction, or the state of an engine that traps. -/
def State.decoded (s : State) (bs : List Byte) : Except State Instr :=
  match s.breakpoint with
  | some n => .error (s.trapMe 0x15 (wordN n))
  | none =>
    match s.headerFault bs with
    | some w => .error (s.trapMe 0x01 w)
    | none =>
      match decode (s.me.pc.toNat % 8 == 4) bs with
      | .error .short => .error s
      | .error .headerAlign => .error (s.trapMe 0x04 (misInfo s.me.pc.toNat 8))
      | .error (.illegal _ info) => .error (s.trapMe 0x01 info)
      | .error (.rounding i info) =>
        (match s.engineFault i with
        | some w => .error (s.trapMe 0x01 w)
        | none => .error (s.trapMe 0x02 info))
      | .ok (i, _) =>
        match s.engineFault i with
        | some w => .error (s.trapMe 0x01 w)
        | none =>
          match s.accessFault i with
          | some code => .error (s.trapMe code (faultWord i))
          | none => .ok i

/-- Everything up to the effect of the instruction at the program counter of the executing engine: the instruction with
the state in which it takes effect, or the state of an engine that traps, freezes or waits. -/
def State.front (s : State) : Except State (Instr × State) :=
  match s.fetchInstr with
  | .error f => .error (s.deliver s.core s.eng f)
  | .ok (bs, s) =>
    match s.decoded bs with
    | .error t => .error t
    | .ok i => s.operandsReady i

end Sys2Proof.Machine
end

