-- ==== Sys2Proof/Machine/VGroup.lean ====
section
/-! DEFINITION. Element groups: what a slot does with the elements of a group, how the head of a vector queue begins, how
its groups issue and commit, the arbiter of the lane groups, and a convoy's entry (R94 to R106, R277, R281, R359 to R379,
R398, R475). -/

namespace Sys2Proof.Machine

open Sys2Proof

/-! ### Element-wise slots (R359 to R379) -/

/-- The second operand of element `i`: a scalar, an immediate, or the vector element (R359). -/
def SlotX.operandB (x : SlotX) (s : State) (fb i : Nat) : Nat :=
  if x.f.form == 1 then (x.q.sc x.j 1).toNat % 2 ^ x.wv
  else if x.f.form == 2 then (immVal x.fv x.wv (vimm x.f)).getD 0
  else x.get s x.f.vs2 (x.bits fb) i

/-- The formats of the slot's plan. -/
def SlotX.el (x : SlotX) : El :=
  let p := x.q.plan x.j
  { fa := p.fa, fb := p.fb, fc := p.fc, fr := p.fr, bw := vtBw x.vt, rnd := vrnd x.f }

/-- The elements of a narrow format under one scale byte (R189, R376). -/
def perScale (f : Nat) : Nat := if f == 8 then 8 else 4

/-- A scale byte of the group of scales at register `r`. -/
def SlotX.scaleAt (x : SlotX) (s : State) (r f i : Nat) : Nat :=
  (s.coreAt x.c).vget (x.eng s).vmap r 8 (i / perScale f)

/-- Element `i` of `vcvt` (R376). -/
def SlotX.cvtAt (x : SlotX) (s : State) (k : El) (i a : Nat) : Nat × Nat :=
  let f := if isNarrow k.fr then k.fr else k.fa
  let scale := if x.f.vs2 == 0 then 0x60 else x.scaleAt s x.f.vs2.toNat f i
  let band := if x.f.vs3 == 0 then FV.fin false 1 0 else decodeF 12 ((x.q.sc x.j 2).toNat % 65536)
  elVcvt k (vsat x.f) scale band a

/-- The result of an element-wise slot at element `i`: bits and flags. -/
def SlotX.element (x : SlotX) (s : State) (i : Nat) : Nat × Nat :=
  let k := x.el
  let a := x.get s x.f.vs1 (x.bits k.fa) i
  let b := x.operandB s k.fb i
  let c := x.get s x.f.vs3 (x.bits k.fc) i
  match x.op with
  | .vadd => elVadd k a b
  | .vsub => elVsub k a b
  | .vadds => elVadds k a b
  | .vsubs => elVsubs k a b
  | .vmul => elVmul k a b
  | .vmin => elVmin k a b
  | .vmax => elVmax k a b
  | .vabs => elVabs k a
  | .vneg => elVneg k a
  | .vnot => elVnot k a
  | .vand => elVand k a b
  | .vor => elVor k a b
  | .vxor => elVxor k a b
  | .vshl => elVshl k a b
  | .vshr => elVshr k a b
  | .vsra => elVsra k a b
  | .vdiv => elVdiv k a b
  | .vsqrt => elVsqrt k a
  | .vrsqrt => elVrsqrt k a
  | .vrcp => elVrcp k a
  | .vclass => elVclass k a
  | .vsel => elVsel (x.act s i) a b
  | .vmov => elVmov a
  | .vbcast => elVbcast b
  | .vid => elVid k i
  | .vfma => elVfma k a b c
  | .vfms => elVfms k a b c
  | .vfnma => elVfnma k a b c
  | .vwmac => elVwmac k a b (x.get s x.f.vd 32 i)
  | .vcvt => x.cvtAt s k i a
  | .vsin => elVsin k a
  | .vcos => elVcos k a
  | .vexp2 => elVexp2 k a
  | .vlog2 => elVlog2 k a
  | .vtanh => elVtanh k a
  | .vsigm => elVsigm k a
  | _ => (0, 0)

/-- An element-wise slot over a group. In `vsel` the mask selects, and every element is active (R371). -/
def SlotX.runEw (x : SlotX) (s : State) (lo hi : Nat) : State :=
  let on : Nat → Bool := if x.op == .vsel then fun _ => true else x.act s
  let rs := (rangeFrom lo (Nat.min hi x.q.n)).map (fun i => if on i then some (x.element s i) else none)
  let val (i : Nat) : Option Nat := (rs.getD (i - lo) none).map (fun r => r.1)
  let fl := rs.foldl (fun fl r => match r with | some y => fl ||| y.2 | none => fl) 0
  let w := x.bits (x.q.plan x.j).fr
  x.flags (x.put s x.f.vd.toNat w (x.outs s w lo hi on val)).freed fl

/-- vcmp over a group (R369). -/
def SlotX.runCmp (x : SlotX) (s : State) (lo hi : Nat) : State :=
  let k := x.el
  (x.putMasks s x.f.vd.toNat (x.maskOuts s lo hi (fun i =>
    elVcmp k (vcond x.f) (x.get s x.f.vs1 (x.bits k.fa) i) (x.operandB s k.fb i)))).freed

/-- vmand, vmor, vmnot over a group (R370). -/
def SlotX.runMask (x : SlotX) (s : State) (lo hi : Nat) : State :=
  let v := (x.eng s).v
  let a (i : Nat) : Bool := v.maskBit x.f.vs1.toNat i
  let b (i : Nat) : Bool := v.maskBit x.f.vs2.toNat i
  let val (i : Nat) : Bool :=
    match x.op with
    | .vmand => a i && b i
    | .vmor => a i || b i
    | _ => !a i
  (x.putMasks s x.f.vd.toNat (x.maskOuts s lo hi val)).freed

/-- The exact sum of a block (R378); a padded element counts as +0. -/
def SlotX.blockSum (x : SlotX) (s : State) (o : Nat) : Sigma :=
  let k := x.el
  let b := vtB x.vt
  (List.range b).foldl (fun g d =>
    let i := o * b + d
    if x.q.n ≤ i then g.add (.fin false 0 0, 0)
    else
      g.add (scaledProduct k.fa (x.get s x.f.vs1 (x.bits k.fa) i) (x.scaleAt s (x.f.vs1.toNat + vtG x.vt) k.fa i)
        k.fb (x.get s x.f.vs2 (x.bits k.fb) i) (x.scaleAt s (x.f.vs2.toNat + vtG x.vt) k.fb i))) Sigma.zero

/-- vdot.blk over a group: the outputs whose last source element it covers (R378, R379). -/
def SlotX.runDot (x : SlotX) (s : State) (lo hi : Nat) : State :=
  let b := vtB x.vt
  let os := rangeFrom (lo / b) (hi / b)
  let rs := (os.filter (x.act s)).map (fun o => (o, elVdotBlk (vrnd x.f) (x.get s x.f.vd 32 o) (x.blockSum s o)))
  let off := (os.filter (fun o => !x.act s o)).flatMap (x.leave s (vtMa x.vt) 32)
  x.flags (x.put s x.f.vd.toNat 32 (rs.map (fun r => (r.1, r.2.1)) ++ off)).freed (rs.foldl (fun fl r => fl ||| r.2.2) 0)

/-! ### A slot over a group -/

/-- What a slot does with the elements `lo` to `hi` - 1 of a group in flight. -/
def SlotX.run (x : SlotX) (s : State) (f : Fly) (lo hi : Nat) : SlotRes :=
  if slotAtEnd x.op && hi < x.q.tot then .ok s
  else
  match x.op with
  | .vcmp => .ok (x.runCmp s lo hi)
  | .vmand | .vmor | .vmnot => .ok (x.runMask s lo hi)
  | .vdotBlk => .ok (x.runDot s lo hi)
  | .vld | .vlds | .vldx | .vgl => x.runLoad s f lo hi
  | .vldIpb => x.runIpb s f lo hi
  | .vldZ => x.runLdZ s lo hi
  | .vst | .vsts | .vstx => x.runStore s lo hi
  | .vstX => x.runStX s lo hi
  | .vsc => x.runSc s lo hi
  | .vamo => x.runAmo s lo hi
  | .vwait => x.runWait s lo hi
  | .vsortr => x.runSortr s
  | .vchk => x.runChk s
  | .vmerge => x.runMerge s lo hi
  | .vinter => x.runInter s
  | .vuniq => x.runUniq s
  | .vrank => x.runRank s
  | .vpart => x.runPart s
  | .vmrgs => x.runMrgs s lo f.hi
  | .vred => x.runRed s
  | .vscan => x.runScan s lo hi
  | .vsegld => x.runSegld s f lo hi
  | .vsegred => x.runSegred s
  | .vsegscan => x.runSegscan s lo hi
  | .vperm => x.runPerm s lo hi
  | .vcompress => x.runCompress s lo hi
  | .vexpand => x.runExpand s lo hi
  | .vslide => x.runSlide s lo hi
  | .vrev => x.runRev s lo hi
  | .vmmCopy => x.runCopy s f lo hi
  | .vmmFill => x.runFill s lo hi
  | _ => .ok (x.runEw s lo hi)

/-- A slot's elements can be asked for before the slots in front of it have run: its addresses and its mask come from no
register of the group. -/
def SlotX.early (x : SlotX) : Bool := (x.op == .vld || x.op == .vlds) && x.f.mask == 0

/-- The reads that slots of a group in flight ask for ahead. -/
def aheadOf (c : CoreId) (e : EngId) (q : QConvoy) (s : State) (f : Fly) (lo hi : Nat) : List (VSlot × Nat) → List Acc
  | [] => []
  | (v, j) :: rest =>
    let x : SlotX := { c := c, e := e, q := q, j := j, v := v }
    let more := aheadOf c e q s f lo hi rest
    if x.early || (j = 0 && (v.op == .vld || v.op == .vlds || v.op == .vldx || v.op == .vgl)) then
      (match x.reads s (fun k => (f.value k).isSome) (x.loadNeeds s lo hi) with
      | .ok (_, as) => as ++ more
      | .error _ => more)
    else more

/-- Every slot of a convoy over a group, in order; each reads what the slots before it have written. -/
def runSlots (c : CoreId) (e : EngId) (q : QConvoy) (f : Fly) (lo hi : Nat) : List (VSlot × Nat) → State → SlotRes
  | [], s => .ok s
  | (v, j) :: rest, s =>
    let x : SlotX := { c := c, e := e, q := q, j := j, v := v }
    match x.run s f lo hi with
    | .ok t => runSlots c e q f lo hi rest (x.note s f lo hi t)
    | .bad i a => .bad i a
    | .wait as => .wait (as ++ aheadOf c e q s f lo hi rest)

/-! ### Beginning (R475) -/

/-- The instruction gives its thread a new epoch (R391). -/
def raisesEpoch (op : VOp) : Bool := op == .vgl || op == .vamo

/-- A thread's epoch rises by 1; as it wraps to 0, every tag of the engine goes (R391). -/
def State.raiseEpoch (s : State) (c : CoreId) (e : EngId) : State :=
  let n := (s.engAt c e).epoch + 1
  let s := s.updEng c e (fun g => { g with epoch := n })
  if n == 0 then { s with links := s.links.filter (fun l => !(l.core == c && !l.parkedInst && l.eng == e)) } else s

/-- Check the slots in order and plan them, with the widest operand. Overlaps are judged under the tags `t0` that the earlier convoys
left (R475), formats under those that the slots before each leave (R362). -/
def State.planSlots (s : State) (c : CoreId) (e : EngId) (q : QConvoy) (t0 : Tags) :
    Nat → List VSlot → Tags → List Grp → Except AFault (State × List Plan × Nat)
  | _, [], _, _ => .ok (s, [], 1)
  | j, v :: vs, t, dots =>
    let x : SlotX := { c := c, e := e, q := q, j := j, v := v }
    let d0 := x.desc s t0
    let d := x.desc s t
    match x.checks s d0 d dots with
    | some f => .error f
    | none =>
      let s' := if raisesEpoch v.op then s.raiseEpoch c e else s
      let t' := if (s.engAt c e).tr.raw || slotAtEnd v.op then t else x.retag t d
      match s'.planSlots c e q t0 (j + 1) vs t' (if v.op == .vdotBlk then d0.dst ++ dots else dots) with
      | .error f => .error f
      | .ok (u, ps, w) =>
        .ok (u, { fa := d.fa, fb := d.fb, fc := d.fc, fr := d.fr, ep := (s'.engAt c e).epoch.toNat, tagged := false,
                   regs := d.dst.flatMap (fun g => (List.range g.count).map (fun k => g.first + k)) } :: ps,
          Nat.max d.width w)

/-- The convoy runs with zero slip: units 7 and 8 (R105). -/
def QConvoy.noSlip (q : QConvoy) : Bool := q.slots.any (fun v => vunit v.op == 7 || vunit v.op == 8)

/-- The elements of an element group from the widest operand (R95); `vwait` commits element by element (R398), `vmm` in
groups of 16 (R399). -/
def QConvoy.groupElems (q : QConvoy) (width : Nat) : Nat :=
  let has (op : VOp) : Bool := q.slots.any (fun v => v.op == op)
  if has .vwait then 1
  else if has .vmmCopy || has .vmmFill then 16
  else if has .vmrgs then
    1024 / Nat.max (fmtBits (fieldLE q.blk 0 1) (fieldLE q.blk 2 1)) (if bitN (fieldLE q.blk 1 1) 1 then 8 * 2 ^ fieldLE q.blk 3 1 else 0)
  else 1024 / width

/-- The elements of a convoy: VL; the count of `vmm`; the outputs of a merge; the keys of run A (R399, R406, R407, R410). -/
def QConvoy.total (q : QConvoy) (c : CoreId) (e : EngId) (t : Tags) : Nat :=
  match q.slots with
  | v :: _ =>
    let n : Nat := ({ c := c, e := e, q := q, j := 0, v := v } : SlotX).runLen t v.f.vs1
    (match v.op with
    | .vmmCopy => (q.sc 0 2).toNat / 8
    | .vmmFill => (q.sc 0 2).toNat / 8
    | .vmrgs => fieldLE q.blk 8 4 + fieldLE q.blk 12 4
    | .vmerge => 2 * n
    | .vinter => n
    | .vuniq => n
    | _ => q.vl)
  | [] => q.vl

/-- A slot reads its parameter block: the bytes, or none for a slot that has no block; `none` while an earlier access of
the thread holds the read back (R386, R388, R410). -/
def SlotX.readBlk (x : SlotX) (s : State) : Except AFault (Option (List Byte)) :=
  let a := (x.q.sc x.j 0).toNat
  if !(x.op == .vldIpb || x.op == .vmrgs) then .ok (some (List.replicate 64 0))
  else if a % 64 != 0 then .error (.trap 4 (misInfo a 64))
  else
    match s.ownS x.c x.e (x.q.seq + x.j) x.f.cls.toNat x.f.rl a 64 with
    | .error f => .error f
    | .ok none => .ok none
    | .ok (some (bs, _)) =>
      let y : SlotX := { x with q := { x.q with blk := List.replicate (64 * x.j) 0 ++ bs } }
      let feed := fieldLE bs 0 1 = 1
      if x.op == .vldIpb && (ipbBad bs || (feed && (x.f.cls != 0 || x.f.aq || x.f.rl))) then .error x.ill
      else if x.op == .vmrgs && y.mrgsFault.isSome then .error (y.mrgsFault.getD x.ill)
      else .ok (some bs)

/-- The parameter blocks of a convoy, 64 bytes a slot. -/
def readBlks (s : State) (c : CoreId) (e : EngId) (q : QConvoy) : List (VSlot × Nat) → Except AFault (Option (List Byte))
  | [] => .ok (some [])
  | (v, j) :: rest =>
    match ({ c := c, e := e, q := q, j := j, v := v } : SlotX).readBlk s with
    | .error f => .error f
    | .ok none => .ok none
    | .ok (some bs) =>
      match readBlks s c e q rest with
      | .error f => .error f
      | .ok none => .ok none
      | .ok (some more) => .ok (some (bs ++ more))

/-- What `vmm` refuses before its first element. -/
def QConvoy.vmmBad (q : QConvoy) (c : CoreId) (e : EngId) : Option AFault :=
  match q.slots with
  | [v] =>
    if v.op == .vmmCopy || v.op == .vmmFill then ({ c := c, e := e, q := q, j := 0, v := v } : SlotX).vmmFault else none
  | _ => none

/-- The limit of a convoy runs from its first element group: `vwait`, and feeds (R388, R398). -/
def QConvoy.limit (q : QConvoy) (clk : Nat) : Option Nat :=
  match q.expiry with
  | some n => some n
  | none => if q.twait != 0 && q.slots.any (fun v => v.op == .vwait || v.op == .vldIpb) then some (clk + q.twait) else none

/-- A convoy as it begins, with its plans, its widest operand and its parameter blocks. What writes only at its end begins at element
0 again (R107); a merge of runs in memory finds its place in both (R216). -/
def QConvoy.begun (q : QConvoy) (s : State) (c : CoreId) (e : EngId) (ps : List Plan) (w : Nat) (bs : List Byte) : QConvoy :=
  let i := if q.atEnd then 0 else q.prog
  let q : QConvoy := { q with plans := ps, blk := bs, prog := i, start := some i, expiry := q.limit s.clk }
  let q : QConvoy := { q with grp := if q.grp = 0 then Nat.max 1 (q.groupElems w) else q.grp, tot := q.total c e (s.engAt c e).tagsNow }
  match q.slots with
  | v :: _ =>
    if v.op == .vmrgs then
      let (a, b) := ({ c := c, e := e, q := q, j := 0, v := v } : SlotX).mrgsSeek s i
      { q with seen := [(2, a), (3, b)] }
    else q
  | [] => q

/-- The head of a queue is checked and planned: a state in which it has begun, one in which it waits or has stopped. -/
def State.beginHead (s : State) (c : CoreId) (e : EngId) (q : QConvoy) : State :=
  let g := s.engAt c e
  let i := q.prog
  match s.avail c e with
  | .wait => s
  | .gone n => s.lacks c e q n
  | .here =>
    match (if q.plans.isEmpty then s.planSlots c e q g.tagsNow 0 q.slots g.tagsNow [] else .ok (s, q.plans, 1)) with
    | .error f => s.convoyFault c e q i f
    | .ok (t, ps, w) =>
      match q.vmmBad c e with
      | some f => s.convoyFault c e q i f
      | none =>
        match readBlks s c e q q.slots.zipIdx with
        | .error f => s.convoyFault c e q i f
        | .ok none => s
        | .ok (some bs) => t.updHead c e (fun q => q.begun s c e ps w bs)

/-! ### Lane errors (R277, R281) -/

/-- The lane of element `i` within its lane group (R277). -/
def laneOf (grp i : Nat) : Nat := if grp = 0 then 0 else 16 * (i % grp) / grp

/-- The mask field of the slot selects and does not mask: all its elements are active (R371, R423). -/
def slotSelects (op : VOp) : Bool := op == .vsel || op == .vcompress || op == .vexpand

/-- Some slot of the convoy has an active element `i`; the elements of the sort unit, of runs too, all are. -/
def QConvoy.anyActive (q : QConvoy) (v : VSt) (i : Nat) : Bool :=
  (i < q.n || q.tot != q.vl) && q.slots.any (fun x => slotSelects x.op || v.active x.f i)

/-- A lane's error in a group that a lane group executes: the element and the trap, by injection or by a failed check. -/
def State.laneFault (s : State) (c : CoreId) (e : EngId) (q : QConvoy) (lg lo hi : Nat) : Option (Nat × AFault) :=
  let k := s.coreAt c
  let v := (s.engAt c e).v
  let first (lane : Nat) : Option Nat :=
    if lane / 16 != lg then none
    else (rangeFrom lo hi).find? (fun i => laneOf q.grp i == lane % 16 && q.anyActive v i)
  match (if k.errinj.getLsbD 63 && k.errinj.getLsbD 62 then first (fieldW k.errinj 21 16) else none) with
  | some i => some (i, .trap 0x0d (wordN (2 ^ 63 + fieldW k.errinj 21 16)))
  | none =>
    match k.laneErr with
    | some lane => (match first lane with | some i => some (i, .trap 0x0d (wordN lane)) | none => none)
    | none => none

/-- The lane's error has been met: the injection is disarmed, or the failing check is over. -/
def Core.laneMet (k : Core) : Core :=
  if k.errinj.getLsbD 63 && k.errinj.getLsbD 62 then { k with errinj := k.errinj &&& 0x7fffffffffffffff }
  else { k with laneErr := none }

/-! ### Committing a group (R96) -/

/-- What trying to commit a group comes to: reads to ask for, or a state in which the elements below some place have
been written, with the fault that stopped it there. -/
inductive GroupRes where
  | wait (reads : List Acc)
  | done (s : State) (hi : Nat) (fault : Option AFault)

/-- A stop at element `i` of a convoy with `vdot.blk` falls back to its block's first element (R378). -/
def QConvoy.stopAt (q : QConvoy) (i : Nat) : Nat :=
  if q.slots.any (fun v => v.op == .vdotBlk) then i / vtB q.vtype * vtB q.vtype else i

/-- Run a group's elements from `lo` to `hi` - 1; a fault cuts it down to what lies below, slot by slot (R96). -/
def tryGroup (c : CoreId) (e : EngId) (q : QConvoy) (f : Fly) (s : State) : Nat → Nat → Option AFault → GroupRes
  | 0, _, stop => .done s f.lo stop
  | n + 1, hi, stop =>
    if hi ≤ f.lo && stop.isSome then .done s hi stop
    else
      match runSlots c e q f f.lo hi q.slots.zipIdx s with
      | .ok t => .done t hi stop
      | .bad i a => tryGroup c e q f s n (q.stopAt i) (some a)
      | .wait as => .wait as

/-- The convoy is a merge of runs in registers. -/
def QConvoy.merges (q : QConvoy) : Bool := q.slots.any (fun v => v.op == .vmerge)

/-- The tags that a convoy's slots leave, written with the first whole group that commits (R362); each group that follows makes its
destinations dirty (R115). -/
def State.tagHead (s : State) (c : CoreId) (e : EngId) (q : QConvoy) : State :=
  if (s.engAt c e).tr.raw then s
  else if q.plans.all (fun p => p.tagged) then
    s.updV c e (fun v => { v with tags :=
      (q.plans.flatMap (fun p => p.regs)).foldl (fun t r => Tags.upd t r (fun y => y ||| 0x40000)) v.tags })
  else
    let t := (q.slots.zipIdx).foldl (fun t vj =>
      let x : SlotX := { c := c, e := e, q := q, j := vj.2, v := vj.1 }
      if slotAtEnd vj.1.op then t else x.retag t (x.desc s t)) (s.engAt c e).v.tags
    (s.updV c e (fun v => { v with tags := t })).updHead c e (fun q =>
      { q with plans := q.plans.map (fun p => { p with tagged := true }) })

/-- What the tail policy gives the destinations of a convoy as it completes (R360, R378). -/
def State.tailHead (s : State) (c : CoreId) (e : EngId) (q : QConvoy) : State :=
  (q.slots.zipIdx).foldl (fun s vj =>
    let x : SlotX := { c := c, e := e, q := q, j := vj.2, v := vj.1 }
    let p := q.plan vj.2
    let row := vrow vj.1.op
    -- scans and permutes leave their tails with their last group, if they have one
    let own := slotAlone vj.1.op && vj.1.op != .vsegld && (q.tot != 0 || vunit vj.1.op != 8 || slotAtEnd vj.1.op)
    if own || row.d != .vec || vunit vj.1.op == 5 then s
    else
      let w := if vj.1.op == .vdotBlk then 32 else x.bits p.fr
      let n := if vj.1.op == .vdotBlk then Nat.max 1 (vtG x.vt * 32 / (x.wv * vtB x.vt))
        else if vj.1.op == .vscan || vj.1.op == .vsegscan then (x.scanGrp w).count else groupSize x.vt w
      let lo := if vj.1.op == .vdotBlk then q.vl / vtB x.vt else q.vl
      (x.tails s x.f.vd.toNat n w lo).freed) s

/-- The head has committed every element (R10). -/
def State.completeHead (s : State) (c : CoreId) (e : EngId) (q : QConvoy) : State :=
  ((s.tailHead c e q).traceConvoy c e ((s.headOf c e).getD q)).updEng c e Eng.retireHead

/-- A ck in which a lane group executes an element group (R286). -/
def Inst.busied (n : Inst) (lg : Nat) : Inst :=
  { n with busy := n.busy.set (lg % 4) ((n.busy[lg % 4]'(Nat.mod_lt _ (by decide))) + 1) (Nat.mod_lt _ (by decide)) }

/-- Elements that a lane group has executed (R286). -/
def Inst.counted (n : Inst) (lg elems : Nat) : Inst :=
  { n with elems := n.elems.set (lg % 4) ((n.elems[lg % 4]'(Nat.mod_lt _ (by decide))) + elems) (Nat.mod_lt _ (by decide)) }

/-- The front group of the head has committed below element `hi`: progress, tags with the first whole group, or the first output of a
merge (R213, R362), and counters; the convoy completes with its last element. -/
def State.committed (s : State) (c : CoreId) (e : EngId) (q : QConvoy) (f : Fly) (rest : List Fly) (hi : Nat) : State :=
  -- the last output of a merge leaves the tags of its run (R406)
  let s := if (if q.merges then decide (q.tot ≤ hi) else decide (hi < f.hi)) then s else s.tagHead c e q
  let s := s.updHead c e (fun q =>
    { q with prog := hi, stopped := false,
             fly := if hi < f.hi then { f with lo := hi, cut := none, stage := 0, locs := [] } :: rest else rest })
  let s := s.updInst c (fun n => n.counted f.lg (hi - f.lo))
  if q.tot ≤ hi then s.completeHead c e q else s

/-- Change the front group of a thread's head. -/
def State.updFront (s : State) (c : CoreId) (e : EngId) (u : Fly → Fly) : State :=
  s.updHead c e (fun q => { q with fly := match q.fly with | f :: more => u f :: more | [] => [] })

/-- Accesses of a thread join the order machine. -/
def State.giveAccs (s : State) (c : CoreId) (e : EngId) (as : List Acc) : State :=
  s.updEng c e (fun g => { g with accs := g.accs ++ as })

/-- What the slots of a committed group that scatters come to, run in turn: a state with their results, the stores that are to be handed
to the order machine, and the number of slots that have run. The slots run afresh until all elements have performed, so that a late
fault leaves no result behind (R396). -/
def stageSlots (c : CoreId) (e : EngId) (q : QConvoy) (f : Fly) (hi : Nat) :
    List (VSlot × Nat) → State → List Acc → SlotRes × List Acc × Nat
  | [], s, hs => (.ok s, hs, q.slots.length)
  | (v, j) :: rest, s, hs =>
    let x : SlotX := { c := c, e := e, q := q, j := j, v := v }
    let as := (s.engAt c e).accs
    match (if slotScatters v then x.runScatter s f f.lo hi else x.run s f f.lo hi) with
    | .ok t =>
      let new := (t.engAt c e).accs.drop as.length
      stageSlots c e q f hi rest (x.note s f f.lo hi (t.updEng c e (fun g => { g with accs := as })))
        (if j < f.stage then hs else hs ++ new)
    | .bad i a => (.bad i a, hs, j)
    | .wait more => (.wait more, hs, j)

/-- A committed group scatters on: its elements perform, and when all have, it is done. A late fault stops it at its element: those
below perform, and the group is cut there (R396). -/
def State.scatterHead (s : State) (c : CoreId) (e : EngId) (q : QConvoy) (f : Fly) (rest : List Fly) (cut : Nat) : State × Bool :=
  match stageSlots c e q f cut q.slots.zipIdx s [] with
  | (.ok t, hs, _) => ((t.giveAccs c e hs).committed c e q f rest cut, true)
  | (.wait as, hs, j) => ((s.giveAccs c e (hs ++ as)).updFront c e (fun g => { g with stage := Nat.max g.stage j }), false)
  | (.bad i a, hs, j) =>
    let t := (s.giveAccs c e hs).updFront c e (fun g => { g with stage := Nat.max g.stage j })
    if f.lo < i then (t.updFront c e (fun g => { g with cut := some i }), decide (i < cut))
    else ((t.traceConvoy c e q).convoyFault c e q f.lo a, false)

/-- The lowest group in flight of the head commits if it can: its results, tags and counters; a fault is raised once what
the convoy has handed to the order machine has performed (R384, R411). The flag says that something has changed. -/
def State.commitHead (s : State) (c : CoreId) (e : EngId) : State × Bool :=
  match s.headOf c e with
  | none => (s, false)
  | some q =>
    match q.start, q.fly with
    | some _, f :: rest =>
      match f.cut with
      | some cut => s.scatterHead c e q f rest cut
      | none =>
        let lane := s.laneFault c e q f.lg f.lo f.hi
        -- the outputs of a merge commit one by one (R107, R411)
        let top := if q.merges || q.slots.any (fun v => v.op == .vmrgs) then Nat.min f.hi (f.lo + 1) else f.hi
        let r := match lane with
          | some (i, a) => tryGroup c e q f s (q.slots.length + 2) (Nat.min top (q.stopAt i)) (some a)
          | none => tryGroup c e q f s (q.slots.length + 2) top none
        match r with
        | .wait as => (s.updEng c e (fun g => { g with accs := g.accs ++ as }), false)
        | .done t hi stop =>
          if stop.isNone || f.lo < hi then
            if q.staged then
              (s.updFront c e (fun g =>
                { g with cut := some hi, stage := 0,
                         locs := ((t.headOf c e).bind (fun q => q.fly.head?)).elim [] (fun y => y.locs) }), true)
            else (t.committed c e q f rest hi, true)
          else if (s.engAt c e).accs.any (fun b => q.has b && !b.isV) then
            (s.updHead c e (fun q => { q with stopped := true }), false)
          else
            let met := match lane with | some (_, b) => stop == some b | none => false
            let s := if met then s.updCore c Core.laneMet else s
            ((s.traceConvoy c e q).convoyFault c e q hi (stop.getD (.freeze 6 0)), false)
    | _, _ => (s, false)

/-- Groups of the head commit for as long as they can; of a merge, one output. -/
def State.settle (s : State) (c : CoreId) (e : EngId) : Nat → State
  | 0 => s
  | n + 1 =>
    match s.commitHead c e with
    | (t, true) =>
      -- a pre-emption can stop a merge behind any output (R107)
      if (s.headOf c e).any QConvoy.merges then t
      else if (t.headOf c e).map (fun q => q.seq) == (s.headOf c e).map (fun q => q.seq) then t.settle c e n else t
    | (t, false) => t

/-- Commits that one step can bring: every group in flight, each cut once by a fault. -/
def settleFuel : Nat := 64

/-! ### Issuing a group (R95, R104, R105) -/

/-- A convoy of no elements that has results all the same: what writes at its end, and a merge's tags (R404 to R409, R414, R419). -/
def QConvoy.emptyRun (q : QConvoy) : Bool := q.tot = 0 && (q.atEnd || q.merges)

/-- The next group of a head that has begun, if there is one: its elements. -/
def QConvoy.nextGroup (q : QConvoy) : Option (Nat × Nat) :=
  let lo := match q.fly.getLast? with | some f => f.hi | none => q.prog
  if q.tot ≤ lo then (if q.emptyRun && q.fly.isEmpty then some (0, 0) else none) else some (lo, Nat.min q.tot ((lo / Nat.max 1 q.grp + 1) * Nat.max 1 q.grp))

/-- The slip that a convoy of a thread may have (R104, R105); `vwait` is not ready while it waits (R398). -/
def QConvoy.slip (q : QConvoy) (g : Eng) : Nat := if q.noSlip || q.slots.any (fun v => v.op == .vwait) then 0 else g.v.lslip

/-- A group of the head issues on a lane group: its reads are asked for, and it commits if it can. -/
def State.issueGroup (s : State) (c : CoreId) (e : EngId) (lg lo hi : Nat) : State :=
  let f : Fly := { lo := lo, hi := hi, lg := lg, got := [], cut := none, stage := 0, locs := [] }
  let s := (s.updHead c e (fun q => { q with fly := q.fly ++ [f] })).updV c e (fun v =>
    { v with used := v.used + 1, waitSince := none })
  let s := s.updInst c (fun n => n.busied lg)
  let s := match s.headOf c e with
    | some q =>
      if q.fly.length ≤ 1 then s
      else
        let as := aheadOf c e q s f lo hi q.slots.zipIdx
        s.updEng c e (fun g => { g with accs := g.accs ++ as })
    | none => s
  s.settle c e settleFuel

/-- The next group of a head that has begun, or its completion where no element is left. -/
def State.advanceHead (s : State) (c : CoreId) (e : EngId) (lg : Nat) : State :=
  match s.headOf c e with
  | none => s
  | some q =>
    if q.start.isNone then s
    else
      match q.nextGroup with
      | some (lo, hi) => s.issueGroup c e lg lo hi
      | none => if q.fly.isEmpty then s.completeHead c e q else s

/-- The head of a thread takes a slot on a lane group: `abound` takes a step, a convoy begins or issues its next group. -/
def State.headStep (s : State) (c : CoreId) (e : EngId) (lg : Nat) : State :=
  match s.headOf c e with
  | none => s
  | some q =>
    match q.abound with
    | some a => (s.updV c e (fun v => { v with used := v.used + 1, waitSince := none })).aboundStep c e q a
    | none =>
      if q.start.isNone then
        let t := s.beginHead c e q
        match t.headOf c e with
        | some r => if r.start.isSome && r.seq == q.seq then t.advanceHead c e lg else t
        | none => t
      else s.advanceHead c e lg

/-! ### The arbiter (R101 to R103) -/

/-- The shared unit of a convoy, by its place in `Core.turn`: sort, special function, cross-lane, memory to memory. -/
def QConvoy.unit (q : QConvoy) : Option Nat :=
  if q.abound.isSome || q.slots.any (fun v => vunit v.op == 7) then some 0
  else if q.slots.any (fun v => vunit v.op == 9) then some 1
  else if q.slots.any (fun v => vunit v.op == 8) then some 2
  else if q.slots.any (fun v => vunit v.op == 10) then some 3
  else none

/-- A thread's number as an engine. -/
def threadId (t : Nat) : EngId := Fin.ofNat 5 (t % 4)

/-- A thread's head could take a slot but for the shared units: its operands are available, and its next group may issue (R102,
R104). -/
def State.headWants (s : State) (c : CoreId) (e : EngId) : Bool :=
  let g := s.engAt c e
  let n := s.instAt c
  n.live && !n.ending && g.running && !g.frozen && !(s.launchAt n.launch).stopping && !s.haltedAt c &&
    !(s.coreAt c).preReq &&
    match g.v.vq with
    | [] => false
    | q :: _ =>
      if let some a := q.abound then
        !(s.dies[dieOf c].assayerFrozen || s.avail c e == .wait) &&
          !(q.start.isNone && (match s.aboundRead c e q a with | .ok none => true | _ => false))
      else if q.start.isNone then s.avail c e != .wait && (match readBlks s c e q q.slots.zipIdx with | .ok none => false | _ => true)
      else q.fly.length ≤ q.slip g && (q.nextGroup.isSome || q.fly.isEmpty)

/-- The unit that a thread's head needs is free for it: it holds the unit, or no other does and its turn has come. -/
def State.unitFree (s : State) (c : CoreId) (e : EngId) : Bool :=
  match s.headOf c e with
  | none => false
  | some q =>
    match q.unit with
    | none => true
    | some u =>
      let needs (t : Nat) : Option QConvoy :=
        match s.headOf c (threadId t) with
        | some p => if p.unit == some u then some p else none
        | none => none
      let held := (List.range 4).any (fun t => threadId t != e && (match needs t with | some p => p.start.isSome | none => false))
      let last := (s.coreAt c).turn.toList.getD u 3
      let order := (List.range 4).map (fun d => (last + 1 + d) % 4)
      q.start.isSome || (!held && (order.find? (fun t => (needs t).isSome && s.headWants c (threadId t))) == some e.val)

/-- A thread's head is ready (R102). -/
def State.headReady (s : State) (c : CoreId) (e : EngId) : Bool := s.headWants c e && s.unitFree c e

/-- A ready head that has waited 224 ck without a slot (R102). -/
def State.starving (s : State) (c : CoreId) (e : EngId) : Bool :=
  match (s.engAt c e).v.waitSince with
  | some t => t + 224 ≤ s.clk
  | none => false

/-- The thread with the largest quota left, the lowest number on a tie. -/
def mostLeft (left : Nat → Nat) : List Nat → Option Nat
  | [] => none
  | t :: ts =>
    match mostLeft left ts with
    | some u => if left t < left u then some u else some t
    | none => some t

/-- The thread whose head takes lane group `lg` (R102). -/
def State.choose (s : State) (c : CoreId) (lg : Nat) : Option Nat :=
  let ready := (List.range 4).filter (fun t => s.headReady c (threadId t))
  let v (t : Nat) : VSt := (s.engAt c (threadId t)).v
  let home (t : Nat) : Bool := (v t).homes.contains lg
  let under (t : Nat) : Bool := (v t).used < (v t).quota
  match ready.find? (fun t => s.starving c (threadId t)) with
  | some t => some t
  | none =>
    match ready.find? (fun t => home t && under t) with
    | some t => some t
    | none =>
      match mostLeft (fun t => (v t).quota - (v t).used) (ready.filter under) with
      | some t => some t
      | none =>
        match ready.find? home with
        | some t => some t
        | none => ready.head?

/-- Note since when each head is ready. -/
def State.noteWaits (s : State) (c : CoreId) : State :=
  (List.range 4).foldl (fun s t =>
    let e := threadId t
    let r := s.headReady c e
    s.updV c e (fun v => { v with waitSince := if r then some (v.waitSince.getD s.clk) else none })) s

/-- The effective weight of a thread (R101). -/
def State.weight (s : State) (c : CoreId) (t : Nat) : Nat :=
  let n := s.instAt c
  let w := n.ven.toList.getD t 1
  if (s.recOf c).boost && (s.engAt c (threadId t)).taskOpen then 2 * w else w

/-- The quotas of a share window (R101). -/
def State.newWindow (s : State) (c : CoreId) : State :=
  let run := (List.range 4).filter (fun t => (s.engAt c (threadId t)).running)
  let sum := (run.map (s.weight c)).foldl (· + ·) 0
  let s := run.foldl (fun s t =>
    let q := Nat.max 1 (if sum = 0 then 0 else 1024 * s.weight c t / sum)
    s.updV c (threadId t) (fun v => { v with quota := q, used := 0 })) s
  s.updCore c (fun k => { k with share := s.clk / 256 })

/-- The share window of a core is over: its successor has not begun (R101). -/
def State.windowDue (s : State) (c : CoreId) : Bool := (s.instAt c).live && (s.coreAt c).share < s.clk / 256

/-- SHARE_WINDOW: a window of 256 ck begins (R101). -/
def execShareWindow (core : CoreId) (s : State) : Res :=
  if s.windowDue core then .next (s.newWindow core) else .next s

/-- The first lane group of a core that may choose in this ck: the live ones choose once each, in ascending order (R102). -/
def State.chooser (s : State) (c : CoreId) : Option Nat :=
  let k := s.coreAt c
  (liveGroups k.lanesOut).find? (fun g => k.slotCk != s.clk || k.slotLg ≤ g)

/-- A lane group of a core is still to choose in this ck, and finds a ready head. -/
def State.choiceDue (s : State) (c : CoreId) : Bool :=
  match s.chooser c with
  | none => false
  | some lg => (s.choose c lg).isSome

/-- Groups of a core's threads that can commit do. -/
def State.settleAll (s : State) (c : CoreId) : State :=
  (List.range 4).foldl (fun s t =>
    if (s.engAt c (threadId t)).frozen then s else s.settle c (threadId t) settleFuel) s

/-- A merge of a core has outputs that a lane group executes in this ck and that have not been written (R95, R107). -/
def State.mergeDue (s : State) (c : CoreId) : Bool :=
  let n := s.instAt c
  n.live && !n.stopped && (List.range 4).any (fun t =>
    !(s.engAt c (threadId t)).frozen && (s.headOf c (threadId t)).any (fun q => q.merges && !q.fly.isEmpty))

/-- A lane group takes the candidate of R102, and groups that can commit do. -/
def State.takeSlot (s : State) (c : CoreId) (lg : Nat) : State :=
  let s := if s.windowDue c then s.newWindow c else s
  let s := (s.noteWaits c).updCore c (fun k => { k with slotCk := s.clk, slotLg := lg + 1 })
  let s := match s.choose c lg with
    | none => s
    | some t =>
      let e := threadId t
      let s := match (s.headOf c e).bind QConvoy.unit with
        | some u => s.updCore c (fun k => { k with turn := k.turn.set (u % 4) t (Nat.mod_lt _ (by decide)) })
        | none => s
      s.headStep c e lg
  s.settleAll c

/-- ELEMENT_GROUP_ISSUE: a live lane group chooses, once in a ck and in its turn, or an output of a merge that it executes is written
(R95, R101, R102, R107). -/
def execElementGroupIssue (core : CoreId) (g : Fin 4) (s : State) : Res :=
  if !(s.instAt core).live then .next s
  else if s.chooser core == some g.val then .next (s.takeSlot core g.val)
  else if s.mergeDue core then .next (s.settleAll core)
  else .next s

/-! ### Elements performing (R160, R161) -/

/-- The engine's next waiting access by a test that may perform now. -/
def State.findPerform (s : State) (c : CoreId) (e : EngId) (p : Acc → Bool) : Option Nat :=
  (((s.engAt c e).accs.zipIdx).find? (fun a => p a.1 && s.mayPerform c e a.2)).map (fun a => a.2)

/-- Every access of a kind performs that may, one after another. -/
def State.performAll (s : State) (c : CoreId) (e : EngId) (p : Acc → Bool) : Nat → State
  | 0 => s
  | n + 1 =>
    match s.findPerform c e p with
    | some i => (s.performAcc c e i).performAll c e p n
    | none => s

/-- An element of an engine performs, and its thread's groups that can commit do. -/
def State.performElem (s : State) (c : CoreId) (e : EngId) (n : Nat) : State :=
  if s.mayPerform c e n then
    let t := s.performAcc c e n
    if e == callerId then t else t.settle c e settleFuel
  else s

/-! ### Limits (R388, R398) -/

/-- The ck in which the head's limit expires is over: what it waits for ends; what comes true in that ck still counts
(R174). -/
def State.expire (s : State) (c : CoreId) (e : EngId) (op : VOp) : State :=
  match s.headOf c e with
  | none => s
  | some q =>
    if q.slots.any (fun v => v.op == op) && (match q.expiry with | some t => decide (t < s.clk) | none => false) &&
        (s.instAt c).live && !(s.engAt c e).frozen then
      (s.updHead c e (fun q => { q with expired := true })).settle c e (q.tot + settleFuel)
    else s

/-- VWAIT_EXPIRY (R110, R398). -/
def execVwaitExpiry (core : CoreId) (e : EngId) (s : State) : Res := .next (s.expire core e .vwait)

/-- FEED_LIMIT_EXPIRY (R388). -/
def execFeedLimitExpiry (core : CoreId) (e : EngId) (s : State) : Res := .next (s.expire core e .vldIpb)

/-! ### Entering the queue (R94) -/

/-- The scalar operands of a slot as it enters: vs1, vs2, vs3 and vd. -/
def Eng.capture (g : Eng) (v : VSlot) : List Word := [g.rd v.f.vs1, g.rd v.f.vs2, g.rd v.f.vs3, g.rd v.f.vd]

/-- The queue entry of slots that enter now. -/
def Eng.entry (g : Eng) (slots : List VSlot) : QConvoy :=
  { clearMark g.pc g.seq with
    slots := slots, scal := slots.map g.capture, vl := g.vlNow, vtype := g.vtypeNow, twait := g.twait,
    seg := g.v.seg.toList, prog := if g.v.vq.isEmpty then g.v.vstart else 0,
    skip := g.skip / 16 * 16 }

/-- An entry joins a thread's queue; scalar results that it will write are held (R94). -/
def Eng.enqueue (g : Eng) (q : QConvoy) : Eng :=
  let g := (q.slots.flatMap slotDest).foldl (fun g r => g.setPend (BitVec.ofNat 5 r) true) g
  { g with v := { g.v with vq := g.v.vq ++ [q] } }

/-- The first slot that may not issue inside a task (R255). -/
def taskBad (g : Eng) (slots : List VSlot) : Option VSlot := if g.inTask then slots.find? (fun v => v.op == .vwait) else none

/-- CONVOY (R94): the convoy enters the vector queue of its thread. -/
def execConvoy (slots : List VSlot) (stl : Stl) (s : State) : Res :=
  let g := s.me
  if s.isCaller then s.illegal (.convoy slots stl)
  else
    match vregsBad g.vregsNow slots, taskBad g slots with
    | some v, _ => .next (s.trapMe 0x01 (encSlot v))
    | none, some v => .next (s.trapMe 0x01 (encSlot v))
    | none, none =>
      if 16 ≤ (g.v.vq.filter (fun q => !q.isMark)).length then s.stall
      else .next ((s.updMe (fun h => h.enqueue (h.entry slots))).finish (4 + 8 * slots.length) stl [])

end Sys2Proof.Machine
end

