-- ==== Sys2Proof/Machine/Tile.lean ====
section
/-! DEFINITION. The tile queues: how a command enters one, stops it, and leaves it (R120, R170, R265, R268, R426 to R428,
R450). -/

namespace Sys2Proof.Machine

open Sys2Proof

/-- A queue by its bit. -/
def tqOf (q : Bool) : Fin 2 := if q then 1 else 0

/-- A tile queue of the running instance of a core. -/
def State.tqAt (s : State) (c : CoreId) (q : Fin 2) : TileQ := (s.instAt c).tqs[q]

/-- Change a tile queue. -/
def State.updTq (s : State) (c : CoreId) (q : Fin 2) (f : TileQ → TileQ) : State := s.updInst c (fun n => n.updTq q f)

/-- An entry for a command that issues now. -/
def State.ent (s : State) (i : Instr) (a b c : Word) : TqEnt :=
  { cmd := i, pc := s.me.pc, seq := s.me.seq, a := a, b := b, c := c, begun := false, prog := 0, done := 0, reports := [],
    flags := 0, held := false, back := false }

/-- A command enters a queue of its Caller; while the queue is full the Caller waits (R120, R426). -/
def State.tqPush (s : State) (i : Instr) (q : Bool) (a b c : Word) (stl : Stl) (upd : Eng → Eng) : Res :=
  let k := tqOf q
  if 16 ≤ (s.tqAt s.core k).ents.length then s.stall
  else
    .next (((s.updTq s.core k (fun t => { t with ents := t.ents ++ [s.ent i a b c] })).updMe upd).finish
      (insnBytes ((encode i).headD 0)) stl [])

/-- The head of a queue that may go on with what it has begun: its instance is live, nothing has stopped the queue, and a freeze that
it caused is over. -/
def State.tqStand (s : State) (c : CoreId) (q : Fin 2) : Option TqEnt :=
  let n := s.instAt c
  if !n.live || n.ending || (s.launchAt n.launch).stopping || s.haltedAt c || (s.tqAt c q).stopped then none
  else
    match (s.tqAt c q).ents with
    | [] => none
    | x :: _ => if x.held && (s.engAt c callerId).frozen then none else some x

/-- The head of a queue that may act: no pre-emption is asked for either (R107). -/
def State.tqHead (s : State) (c : CoreId) (q : Fin 2) : Option TqEnt := if (s.coreAt c).preReq then none else s.tqStand c q

/-- Change the head entry. -/
def State.updTqHead (s : State) (c : CoreId) (q : Fin 2) (f : TqEnt → TqEnt) : State :=
  s.updTq c q (fun t => { t with ents := match t.ents with | [] => [] | x :: r => f x :: r })

/-- The head leaves its queue. -/
def State.tqPop (s : State) (c : CoreId) (q : Fin 2) : State := s.updTq c q (fun t => { t with ents := t.ents.drop 1 })

/-- The head breaks a window or an unpopulated address: the Caller freezes, and the command tries again once it goes on
(R89, R273, R274). -/
def State.tqFreeze (s : State) (c : CoreId) (q : Fin 2) (code addr : Nat) : State :=
  (s.updTqHead c q (fun x => { x with held := true })).freezeEng c callerId code addr

/-- The head faults: its queue stops with it, and the Caller takes the trap at its next instruction boundary (R268). While a trap is
open there it is a double fault: the Caller freezes, and the command tries again once it goes on (R270, R274). -/
def State.tqTrap (s : State) (c : CoreId) (q : Fin 2) (x : TqEnt) (code : Nat) (info : Word) : State :=
  let t : Trap := { code := code, info := info, epc := x.pc, src := 2 + q.val, conv := false, seq := x.seq, acc := none, fired := 0, elem := none }
  if (s.engAt c callerId).tr.trap then s.tqFreeze c q code t.addr
  else (s.updTq c q (fun t => { t with stopped := true })).raiseTrap c callerId t

/-- What the head meets. -/
def State.tqFault (s : State) (c : CoreId) (q : Fin 2) (x : TqEnt) (f : AFault) : State :=
  match f with
  | .trap code info => s.tqTrap c q x code info
  | .freeze code addr => s.tqFreeze c q code addr

/-- A command of a class may begin (R170). -/
def State.tqMay (s : State) (c : CoreId) (x : TqEnt) (cls : Nat) (aq : Bool) : Bool := s.commandOk c callerId x.seq cls aq

/-- A command without a class waits only for aq (R436). -/
def State.tqMayAq (s : State) (c : CoreId) (x : TqEnt) (aq : Bool) : Bool := !aq || s.tqMay c x 15 true

/-- A completion arrives on a barrier of its own core (R172). -/
def State.arriveOwn (s : State) (c : CoreId) (arrive : Bool) (b : BitVec 6) : State :=
  if arrive then s.arriveAt (s.instAt c).launch c b else s

end Sys2Proof.Machine
end

