-- ==== Sys2Proof/Machine/Matrix.lean ====
section
/-! DEFINITION. The matrix array: slots, products, the Reel, drains, redundant mode and error injection (R130 to R135, R201,
R278 to R281, R429 to R444). -/

namespace Sys2Proof.Machine

open Sys2Proof

/-! ### Slots (R130, R432, R433) -/

/-- The slot of a number is claimed. -/
def Inst.wClaimed (n : Inst) (k : Nat) : Bool := n.wslots.getLsbD k

/-- MCLAIM_X and MCLAIM_X_SCL. -/
def State.claimX (s : State) (i : Instr) (k : Nat) (scaled : Bool) (stl : Stl) : Res :=
  if !s.isCaller then s.illegal i
  else if ((s.coreAt s.core).winX (s.fgAt s.core)).2 ≤ k then .next (s.freezeEng s.core s.eng 7 (k * 0x4000))
  else if ((s.instAt s.core).xslot k).claimed then s.illegal i
  else
    .next ((s.updInst s.core (fun n =>
      n.updXslot k (fun _ => { claimed := true, scaled := scaled, wrote := 0 }))).finish 4 stl [])

/-- MCLAIM_X (R432). -/
def execMclaimX (n : BitVec 6) (stl : Stl) (s : State) : Res := s.claimX (.mclaimX n stl) n.toNat false stl
/-- MCLAIM_X_SCL (R432). -/
def execMclaimXScl (n : BitVec 6) (stl : Stl) (s : State) : Res := s.claimX (.mclaimXScl n stl) n.toNat true stl

/-- MCLAIM_W (R432). -/
def execMclaimW (n : BitVec 6) (stl : Stl) (s : State) : Res :=
  let k := n.toNat
  if !s.isCaller then s.illegal (.mclaimW n stl)
  else if ((s.coreAt s.core).winW (s.fgAt s.core)).2 ≤ k then .next (s.freezeEng s.core s.eng 7 (k * 0x4000))
  else if (s.instAt s.core).wClaimed k then s.illegal (.mclaimW n stl)
  else
    .next ((s.updInst s.core (fun n => { n with wslots := n.wslots ||| BitVec.ofNat 64 (2 ^ k) })).finish 4 stl [])

/-- A queued product still has to read a slot (R433). -/
def TqEnt.reads (x : TqEnt) (isW : Bool) (k : Nat) : Bool :=
  match x.cmd with
  | .mma f _ => !x.begun && (if isW then f.w.toNat == k else f.x.toNat == k)
  | .mmar f _ => !x.begun && (if isW then f.w.toNat == k else f.x.toNat == k)
  | .mreel f _ => !x.begun && (if isW then f.w.toNat == k else f.x.toNat == k)
  | _ => false

/-- Some entry of either queue has still to read a slot. -/
def Inst.slotInUse (n : Inst) (isW : Bool) (k : Nat) : Bool := n.tqs.any (fun t => t.ents.any (fun x => x.reads isW k))

/-- MRELEASE_X (R130, R433). -/
def execMreleaseX (n : BitVec 6) (stl : Stl) (s : State) : Res :=
  let k := n.toNat
  let i := s.instAt s.core
  let w := (s.coreAt s.core).winX (s.fgAt s.core)
  if !s.isCaller then s.illegal (.mreleaseX n stl)
  else if w.2 ≤ k then .next (s.freezeEng s.core s.eng 7 (k * 0x4000))
  else if !(i.xslot k).claimed then .next (s.trapMe 0x0f (wordN k))
  else if i.slotInUse false k then s.stall
  else
    let t := s.updCore s.core (fun c =>
      { c with bufX := (c.bufX.markFresh ((w.1 + k) * 32) 32).markFresh (1024 + (w.1 + k) * 8) 8 })
    .next ((t.updInst s.core (fun n =>
      n.updXslot k (fun _ => { claimed := false, scaled := false, wrote := 0 }))).finish 4 stl [])

/-- MRELEASE_W (R130, R433). -/
def execMreleaseW (n : BitVec 6) (stl : Stl) (s : State) : Res :=
  let k := n.toNat
  let i := s.instAt s.core
  let w := (s.coreAt s.core).winW (s.fgAt s.core)
  if !s.isCaller then s.illegal (.mreleaseW n stl)
  else if w.2 ≤ k then .next (s.freezeEng s.core s.eng 7 (k * 0x4000))
  else if !i.wClaimed k then .next (s.trapMe 0x0f (wordN (k + 256)))
  else if i.slotInUse true k then s.stall
  else
    let t := s.updCore s.core (fun c =>
      { c with bufW := (c.bufW.markFresh ((w.1 + k) * 32) 32).markFresh (2048 + (w.1 + k) * 8) 8 })
    .next ((t.updInst s.core (fun n => { n with wslots := n.wslots &&& ~~~ BitVec.ofNat 64 (2 ^ k) })).finish 4 stl [])

/-! ### Issue of the queued commands (R426, R427) -/

/-- MQPRIO (R430). -/
def execMqprio (n : BitVec 6) (stl : Stl) (s : State) : Res :=
  if !s.isCaller || 2 < n.toNat then s.illegal (.mqprio n stl)
  else
    .next ((s.updInst s.core (fun i =>
      { i with prio := n.toNat, streak := if i.prio = n.toNat then i.streak else 0 })).finish 4 stl [])

/-- MZERO (R435). -/
def execMzero (n : BitVec 6) (q : Bool) (stl : Stl) (s : State) : Res :=
  if !s.isCaller then s.illegal (.mzero n q stl) else s.tqPush (.mzero n q stl) q 0 0 0 stl id

/-- MMODE_STD (R431). -/
def execMmodeStd (q : Bool) (stl : Stl) (s : State) : Res :=
  if !s.isCaller then s.illegal (.mmodeStd q stl) else s.tqPush (.mmodeStd q stl) q 0 0 0 stl id

/-- MMODE_RED (R431). -/
def execMmodeRed (q : Bool) (stl : Stl) (s : State) : Res :=
  if !s.isCaller then s.illegal (.mmodeRed q stl) else s.tqPush (.mmodeRed q stl) q 0 0 0 stl id

/-- MMA: the band scales are read at issue (R434, R436). -/
def execMma (f : MmaF) (stl : Stl) (s : State) : Res :=
  if !s.isCaller then s.illegal (.mma f stl) else s.tqPush (.mma f stl) f.q (s.rg f.rb &&& 0xffffffff) 0 0 stl id

/-- MMAR (R436). -/
def execMmar (f : MmaF) (stl : Stl) (s : State) : Res :=
  if !s.isCaller then s.illegal (.mmar f stl) else s.tqPush (.mmar f stl) f.q (s.rg f.rb &&& 0xffffffff) 0 0 stl id

/-- The members of a gang (R440): its size and its origin. -/
def gangOf (f : MmaF) (lx : Nat) : Nat × Nat := (f.gang.toNat + 1, lx / (f.gang.toNat + 1) * (f.gang.toNat + 1))

/-- MREEL (R440). -/
def execMreel (f : MmaF) (stl : Stl) (s : State) : Res :=
  let (g, x0) := gangOf f (s.instAt s.core).lx
  if !s.isCaller || (s.recOf s.core).w < x0 + g then s.illegal (.mreel f stl)
  else s.tqPush (.mreel f stl) f.q (s.rg f.rb &&& 0xffffffff) 0 0 stl id

/-- MDRAIN (R443). -/
def execMdrain (f : DrainF) (stl : Stl) (s : State) : Res :=
  let a := s.rg f.rs1
  if !s.isCaller then s.illegal (.mdrain f stl)
  else if a.toNat % 64 != 0 then .next (s.trapMe 0x04 (misInfo a.toNat 64))
  else s.tqPush (.mdrain f stl) f.q a 0 0 stl id

/-! ### The pass (R201, R434, R437) -/

/-- The elements of a 256-byte operand row (R183). -/
def rowElems (fmt : Nat) (bs : List Byte) : List Nat :=
  let w := fmtBits fmt 0
  if w = 4 then bs.flatMap (fun b => [b.toNat % 16, b.toNat / 16])
  else (List.range (2048 / w)).map (fun k => fieldLE bs (k * (w / 8)) (w / 8))

/-- The values of a row, with its block scales where it is scaled, and the flags that scaling raises: NV where an infinity meets a scale
of zero (R191, R201, R434). -/
def rowVals (fmt : Nat) (scaled : Bool) (bs scales : List Byte) : List FV × Nat :=
  let vs := (rowElems fmt bs).zipIdx.map (fun p =>
    if scaled then mulFV (decodeF fmt p.1) (decodeF 16 ((scales.getD (p.2 / perScale fmt) 0).toNat)) else (decodeF fmt p.1, 0))
  (vs.map (·.1), vs.foldl (fun f v => f ||| v.2) 0)

/-- The sign of a value. -/
def FV.signBit : FV → Bool
  | .nan => false
  | .inf n => n
  | .fin n _ _ => n

/-- A value is zero. -/
def FV.isZero : FV → Bool
  | .fin _ m _ => m == 0
  | _ => false

/-- One element of a pass: the new value of Z and its flags (R201). -/
def passElem (a b z : FV) (xs ys : List FV) : Nat × Nat :=
  let ps := (xs.zip ys).map (fun p => mulFV p.1 p.2)
  let (sig, f) := (ps.foldl Sigma.add Sigma.zero).value
  let (t, f1) := mulFV sig a
  let (t, f2) := mulFV t b
  let (x, f3) := addFV 0 z t
  let sg := a.signBit != b.signBit
  let scaleZero := a.isZero || b.isZero
  let allNeg := ps.all (fun p => (p.1.isZero || scaleZero) && (p.1.signBit != sg))
  let x := if x.isZero then .fin (z.isZero && z.signBit && allNeg) 0 0 else x
  let (r, f4) := roundF 13 0 false x
  (r, f ||| f1 ||| f2 ||| f3 ||| f4)

/-- What a pass needs: where it runs, its slots and tile, format, band scales, rows and mode. -/
structure Pass where
  c : CoreId
  x : Nat
  w : Nat
  z : Nat
  fmt : Nat
  scales : Nat
  rows : Nat
  red : Bool
  deriving DecidableEq, Repr

/-- The first window that a pass breaks: the offset (R89, R438). -/
def Pass.window (p : Pass) (k : Core) (fg : Bool) : Option Nat :=
  if (k.winX fg).2 ≤ p.x then some (p.x * 0x4000)
  else if (k.winW fg).2 ≤ p.w then some (p.w * 0x4000)
  else if (k.winZ fg).2 ≤ p.z then some (p.z * blkZ)
  else none

/-- The checks of R438 on a pass: code and EINFO, where ECODE 0x01 has the command's words. -/
def Pass.check (p : Pass) (s : State) (word : Word) : Option (Nat × Word) :=
  let n := s.instAt p.c
  let k := s.coreAt p.c
  let x := n.xslot p.x
  if p.red && (p.z % 2 == 1 || (k.winZ (s.fgAt p.c)).2 ≤ p.z + 1) then some (1, word)
  else if !x.claimed then some (0x0f, wordN p.x)
  else if !n.wClaimed p.w then some (0x0f, wordN (p.w + 256))
  else if (p.fmt == 8 && !x.scaled) || (p.fmt == 12 && x.scaled) then some (1, word)
  else none

/-- The tile that copy `k` of a pass accumulates into. -/
def Pass.tile (p : Pass) (k : Nat) : Nat := p.z + k

/-- The ranges that a pass reads: space code of R265, window offset, physical offset and length. -/
def Pass.ranges (p : Pass) (s : State) : List (Nat × Nat × Nat × Nat) :=
  let k := s.coreAt p.c
  let fg := s.fgAt p.c
  let scaled := ((s.instAt p.c).xslot p.x).scaled
  let bx := (k.winX fg).1
  let bw := (k.winW fg).1
  let bz := (k.winZ fg).1
  [(3, p.x * 0x4000, xPhys bx (p.x * 0x4000), p.rows * 256)] ++
    (if scaled then [(3, 0x80000 + p.x * 0x1000, xPhys bx (0x80000 + p.x * 0x1000), p.rows * 64)] else []) ++
    [(4, p.w * 0x4000, wPhys bw (p.w * 0x4000), 0x4000)] ++
    (if scaled then [(4, 0x100000 + p.w * 0x1000, wPhys bw (0x100000 + p.w * 0x1000), 0x1000)] else []) ++
    ((List.range (if p.red then 2 else 1)).map (fun c => (6, p.tile c * blkZ, (bz + p.tile c) * blkZ, p.rows * 256)))

/-- The uncorrectable word that a pass meets (R276, R438). -/
def Pass.poison (p : Pass) (s : State) : Option Word :=
  let k := s.coreAt p.c
  let of (sp : Nat) : List Nat := if sp = 3 then k.bufX.bad blkS else if sp = 4 then k.bufW.bad blkS else k.bufZ.bad blkZ
  (p.ranges s).findSome? (fun r =>
    match (of r.1).find? (fun a => overlaps a 8 r.2.2.1 r.2.2.2) with
    | some a => some (poisonInfo (a - r.2.2.1 + r.2.1) r.1)
    | none => none)

/-- The rows of A and the columns of B of a pass, each with the flags of its scaling. -/
def Pass.operands (p : Pass) (s : State) : List (List FV × Nat) × List (List FV × Nat) :=
  let k := s.coreAt p.c
  let fg := s.fgAt p.c
  let scaled := ((s.instAt p.c).xslot p.x).scaled
  let bx := (k.winX fg).1
  let bw := (k.winW fg).1
  ((List.range p.rows).map (fun i =>
      rowVals p.fmt scaled (k.bufX.readBytes blkS (xPhys bx (p.x * 0x4000 + 256 * i)) 256)
        (k.bufX.readBytes blkS (xPhys bx (0x80000 + p.x * 0x1000 + 64 * i)) 64)),
    (List.range 64).map (fun j =>
      rowVals p.fmt scaled (k.bufW.readBytes blkS (wPhys bw (p.w * 0x4000 + 256 * j)) 256)
        (k.bufW.readBytes blkS (wPhys bw (0x100000 + p.w * 0x1000 + 64 * j)) 64)))

/-- The results of a copy of a pass, which accumulates onto its own tile (R278): bits and flags, row by row. -/
def Pass.results (p : Pass) (copy : Nat) (s : State) : List (List (Nat × Nat)) :=
  let k := s.coreAt p.c
  let bz := (k.winZ (s.fgAt p.c)).1
  let (as, bs) := p.operands s
  let a := decodeF 12 (p.scales % 65536)
  let b := decodeF 12 (p.scales / 65536 % 65536)
  as.zipIdx.map (fun r =>
    bs.zipIdx.map (fun c =>
      let (v, f) := passElem a b (decodeF 13 (numLE (k.bufZ.readBytes blkZ ((bz + p.tile copy) * blkZ + 256 * r.2 + 4 * c.2) 4))) r.1.1 c.1.1
      (v, f ||| r.1.2 ||| c.1.2)))

/-- A record of the instance's tiles changes. -/
def Inst.updZt (n : Inst) (t : Nat) (f : ZTile → ZTile) : Inst :=
  { n with ztiles := n.ztiles.set (t % 64) (f (n.ztiles[t % 64]'(Nat.mod_lt _ (by decide)))) (Nat.mod_lt _ (by decide)) }

/-- A tile's record. -/
def Inst.zt (n : Inst) (t : Nat) : ZTile := n.ztiles[t % 64]'(Nat.mod_lt _ (by decide))

/-- The two tiles of a pair change. -/
def Inst.updPair (n : Inst) (t : Nat) (f : ZTile → ZTile) : Inst := (n.updZt (t / 2 * 2) f).updZt (t / 2 * 2 + 1) f

/-- The elements of Z that one copy of a pass is to write, with the flip that ERRINJ makes in it (R278, R281). -/
def Pass.write (p : Pass) (rs : List (List (Nat × Nat))) (copy : Nat) (s : State) : List (Nat × List Byte) × State :=
  let e := (s.coreAt p.c).errinj
  let bz := ((s.coreAt p.c).winZ (s.fgAt p.c)).1
  let unit := fieldW e 21 16
  let row := if copy = 1 then 63 - unit else unit
  let hit := e.getLsbD 63 && !e.getLsbD 62 && (!p.red || e.getLsbD 61 == (copy == 1)) && row < p.rows
  let puts := (rs.zipIdx).flatMap (fun r =>
    (r.1.zipIdx).map (fun x =>
      ((bz + p.tile copy) * blkZ + 256 * r.2 + 4 * x.2,
        bytesLE 4 (if hit && r.2 == row && x.2 == fieldW e 13 8 then x.1.1 ^^^ 2 ^ fieldW e 4 0 else x.1.1))))
  let s := s.updCore p.c (fun k => { k with errinj := if hit then e &&& 0x7fffffffffffffff else e })
  (puts, s.updInst p.c (fun n =>
    let n := n.updZt (p.tile copy) (fun t => { t with x := p.x, w := p.w })
    if hit then n.updPair p.z (fun t => { t with inj := true }) else n))

/-- The flags of a copy's results. -/
def flagsOf (rs : List (List (Nat × Nat))) : Nat := rs.foldl (fun f r => r.foldl (fun f x => f ||| x.2) f) 0

/-- A pass that has been checked begins: the array has its operands, and writes its elements of Z one by one. Redundant mode computes it
twice (R171, R278, R429). -/
def Pass.begin (p : Pass) (q : Fin 2) (leader : Option (CoreId × Nat)) (launch : Nat) (s : State) : State :=
  let r0 := p.results 0 s
  let r1 := if p.red then p.results 1 s else []
  let (p0, s) := p.write r0 0 s
  let (p1, s) := if p.red then p.write r1 1 s else ([], s)
  s.updCore p.c (fun k => { k with
    zrun := some { launch := launch, q := q, leader := leader, z := p.z, red := p.red, flags := flagsOf r0 ||| flagsOf r1, puts := p0 ++ p1 } })

/-! ### Redundant mode (R278 to R280) -/

/-- The first row in which the tiles of a pair differ. -/
def State.pairDiff (s : State) (c : CoreId) (z : Nat) : Option Nat :=
  let k := s.coreAt c
  let bz := (k.winZ (s.fgAt c)).1
  (List.range 64).find? (fun r =>
    k.bufZ.readBytes blkZ ((bz + z) * blkZ + 256 * r) 256 != k.bufZ.readBytes blkZ ((bz + z + 1) * blkZ + 256 * r) 256)

/-- EINFO of a mismatch of the pair that holds a tile (R265). -/
def State.misWord (s : State) (c : CoreId) (z : Nat) : Word :=
  let t := (s.instAt c).zt z
  let row := (s.pairDiff c (z / 2 * 2)).getD t.row
  wordN (t.x % 64 + t.w % 64 * 2 ^ 8 + z % 64 * 2 ^ 16 + row % 64 * 2 ^ 24 + (if t.inj then 2 ^ 63 else 0))

/-! ### Grants (R429, R430) -/

/-- The pass of a product on a core. -/
def passOf (c : CoreId) (f : MmaF) (scales : Word) (rows : Nat) (red : Bool) : Pass :=
  { c := c, x := f.x.toNat, w := f.w.toNat, z := f.z.toNat, fmt := f.fmt.toNat, scales := scales.toNat, rows := rows,
    red := red }

/-- The elements that an `mzero` clears from an offset of Z on: the two of an uncorrectable word as one, so that the word is covered
whole (R276, R435). -/
def zeroPuts (bad : List Nat) (off len : Nat) : List (Nat × List Byte) :=
  (List.range (len / 8)).flatMap (fun w =>
    if bad.contains (off + 8 * w) then [(off + 8 * w, List.replicate 8 0)]
    else [(off + 8 * w, List.replicate 4 0), (off + 8 * w + 4, List.replicate 4 0)])

/-- An `mzero` begins, or the tiles that it names are refused or lie beyond the window (R435). -/
def State.grantZero (s : State) (c : CoreId) (q : Fin 2) (x : TqEnt) (t : Nat) : State :=
  let red := (s.tqAt c q).red
  let w := (s.coreAt c).winZ (s.fgAt c)
  if w.2 ≤ t then s.tqFreeze c q 7 (t * blkZ)
  else if red && (t % 2 == 1 || w.2 ≤ t + 1) then s.tqTrap c q x 1 (faultWord x.cmd)
  else
    (s.updCore c (fun k => { k with
      zrun := some { launch := k.inst.launch, q := q, leader := none, z := t, red := red, flags := 0,
                     puts := zeroPuts (k.bufZ.bad blkZ) ((w.1 + t) * blkZ) (if red then 2 * blkZ else blkZ) } })).updTqHead c q
      (fun y => { y with begun := true })

/-- A granted product begins, or faults at the head (R437, R438). -/
def State.grantPass (s : State) (c : CoreId) (q : Fin 2) (x : TqEnt) (f : MmaF) (rows : Nat) : State :=
  let p := passOf c f x.a rows (s.tqAt c q).red
  match p.window (s.coreAt c) (s.fgAt c) with
  | some a => s.tqFreeze c q 7 a
  | none =>
    match p.check s (faultWord x.cmd) with
    | some (code, info) => s.tqTrap c q x code info
    | none =>
      match p.poison s with
      | some info => s.tqTrap c q x 0x0c info
      | none => (p.begin q none (s.instAt c).launch s).updTqHead c q (fun y => { y with begun := true })

/-- The instance of a launch on a core, running or parked. -/
def State.instOf (s : State) (launch : Nat) (c : CoreId) : Inst :=
  let k := s.coreAt c
  if k.inst.live && k.inst.launch == launch then k.inst else k.parked

/-- The physical core of member `m` of a gang of a launch whose leader is on a core. -/
def State.member (s : State) (launch : Nat) (c : CoreId) (f : MmaF) (m : Nat) : CoreId :=
  let n := s.instOf launch c
  let l := s.launchAt launch
  l.coreOf (n.ly * l.rec_.w + (gangOf f n.lx).2 + m)

/-- The other members of a leader's gang. -/
def State.otherMembers (s : State) (launch : Nat) (c : CoreId) (f : MmaF) : List CoreId :=
  ((List.range (f.gang.toNat + 1)).map (s.member launch c f)).filter (· != c)

/-- A member has finished its part, with a report or without (R442); the Reel stands in the leader's queue, which may be parked by now
(R107). With the last part, the arrivals at the other members' barriers are due (R441, R466). -/
def State.reelPart (s : State) (launch : Nat) (leader : CoreId) (q : Fin 2) (m : Nat) (rep : Option (Nat × Word)) (fl : Nat) : State :=
  let k := s.coreAt leader
  let x : Option TqEnt := (s.instOf launch leader).tqs[q].ents.head?
  let s := s.updInstP leader (!(k.inst.live && k.inst.launch == launch)) (fun n =>
    n.updTq q (fun t => { t with ents := match t.ents with
      | [] => []
      | x :: r =>
        { x with done := x.done + 1, flags := x.flags ||| fl,
                 reports := x.reports ++ (match rep with | some (code, info) => [(m, code, info)] | none => []) } :: r }))
  match x with
  | none => s
  | some x =>
    match x.cmd with
    | .mreel f _ =>
      if x.done = f.gang.toNat then
        s.updCore leader (fun k => { k with gangArr := k.gangArr ++ (s.otherMembers launch leader f).map (fun d => (launch, d, f.bar)) })
      else s
    | _ => s

/-- A member's pass of the Reel begins, or the member reports why it cannot (R441, R442). `lost` is the uncorrectable word that B lost on
its way (R25; log 103). -/
def State.memberPass (s : State) (p : Pass) (launch : Nat) (leader : CoreId) (q : Fin 2) (m : Nat) (word : Word) (lost : Option Word) :
    State :=
  match p.check s word with
  | some r => s.reelPart launch leader q m (some r) 0
  | none =>
    match (match lost with | some i => some i | none => p.poison s) with
    | some info => s.reelPart launch leader q m (some (0x0c, info)) 0
    | none => p.begin q (some (leader, m)) launch s

/-- The end of a member's pass, with the comparison of redundant mode (R280, R442). -/
def State.memberEnd (s : State) (c : CoreId) (r : ZRun) (leader : CoreId) (m : Nat) : State :=
  match (if r.red then s.pairDiff c r.z else none) with
  | none => s.reelPart r.launch leader r.q m none r.flags
  | some row =>
    let s := s.updInst c (fun n => n.updPair r.z (fun t => { t with bad := true, row := row }))
    s.reelPart r.launch leader r.q m (some (0x0e, s.misWord c r.z)) r.flags

/-- What the array runs has written its last element: the command completes, or the member's part of a Reel ends (R435, R437, R441). -/
def State.zEnd (s : State) (c : CoreId) (r : ZRun) : State :=
  let s := s.updCore c (fun k => { k with zrun := none })
  let passed (f : MmaF) : State := ((s.updEng c callerId (fun g => g.raise r.flags)).arriveOwn c f.arrive f.bar).tqPop c r.q
  match r.leader with
  | some (leader, m) => s.memberEnd c r leader m
  | none =>
    match (s.tqAt c r.q).ents with
    | [] => s
    | x :: _ =>
      match x.cmd with
      | .mma f _ => passed f
      | .mmar f _ => passed f
      | .mzero _ _ _ => (s.updInst c (fun n => n.updPair r.z (fun z => { z with bad := false, inj := false }))).tqPop c r.q
      | _ => s

/-- The array writes any one of the elements that are left, or ends what it runs (R161, R171; log 4 for the choice). -/
def State.zStep (s : State) (c : CoreId) (r : ZRun) : State :=
  let (u, s) := s.anyOf r.puts
  match u with
  | none => s.zEnd c r
  | some u =>
    s.updCore c (fun k =>
      { k with bufZ := k.bufZ.writeBytes blkZ u.1 u.2, zrun := some { r with puts := r.puts.erase u } })

/-- The 8-byte elements of B, data and scale rows, that are still to land in a member's W slot. -/
def ReelJob.left (r : ReelJob) : List Nat := (List.range 2560).filter (fun u => !r.landed.testBit u)

/-- The offset in a W window of an element of B. -/
def ReelJob.offset (r : ReelJob) (u : Nat) : Nat :=
  if u < 2048 then r.f.w.toNat * 0x4000 + 8 * u else 0x100000 + r.f.w.toNat * 0x1000 + 8 * (u - 2048)

/-- Any one element of B lands in a member's W slot (R441); an uncorrectable one does not, and the member's pass reports it (R25, R442;
log 103). -/
def State.reelLand (s : State) (c : CoreId) (r : ReelJob) : State :=
  let (u, s) := s.anyOf r.left
  match u with
  | none => s
  | some u =>
    let l := s.coreAt r.leader
    let src := wPhys (l.winW (s.fgAt r.leader)).1 (r.offset u)
    let lost := poisoned (l.bufW.bad blkS) 8 src 8
    let next := { r with landed := r.landed ||| 2 ^ u,
                         bad := if lost && r.bad.isNone then some (poisonInfo (r.offset u) 4) else r.bad }
    s.updCore c (fun k =>
      { k with
        bufW := if lost then k.bufW
          else k.bufW.writeBytes blkS (wPhys (k.winW (s.fgAt c)).1 (r.offset u)) (l.bufW.readBytes blkS src 8),
        reels := k.reels.map (fun x => if x == r then next else x) })

/-- A member of a Reel waits for B (R441), or reports that its W slot is free. A slot or tile beyond its window freezes the leader's
Caller, and the rest of the gang goes on (R442). -/
def State.reelStart (s : State) (leader : CoreId) (q : Fin 2) (x : TqEnt) (f : MmaF) (red : Bool) (m : Nat) : State :=
  let id := (s.instAt leader).launch
  let d := s.member id leader f m
  if d == leader then s
  else
    let p := passOf d f x.a 64 red
    match p.window (s.coreAt d) (s.fgAt d) with
    | some a => (s.freezeEng leader callerId 7 a).reelPart id leader q m none 0
    | none =>
      if !(s.instAt d).wClaimed p.w then s.reelPart id leader q m (some (0x0f, wordN (p.w + 256))) 0
      else
        s.updCore d (fun k =>
          { k with reels := k.reels ++ [{ launch := id, leader := leader, m := m, q := q, f := f, scales := x.a, red := red,
                                          word := faultWord x.cmd, landed := 0, bad := none }] })

/-- A granted Reel: the checks of its leader, the multicast of B, and the leader's own pass (R441, R442). -/
def State.grantReel (s : State) (c : CoreId) (q : Fin 2) (x : TqEnt) (f : MmaF) : State :=
  let red := (s.tqAt c q).red
  let p := passOf c f x.a 64 red
  match p.window (s.coreAt c) (s.fgAt c) with
  | some a => s.tqFreeze c q 7 a
  | none =>
    match p.check s (faultWord x.cmd) with
    | some (code, info) => s.tqTrap c q x code info
    | none =>
      let s := s.updTqHead c q (fun y => { y with begun := true })
      let s := (List.range (gangOf f 0).1).foldl (fun s m => s.reelStart c q x f red m) s
      s.memberPass p (s.instAt c).launch c q ((s.instAt c).lx - (gangOf f (s.instAt c).lx).2) (faultWord x.cmd) none

/-- Every member of a gang runs (R82). -/
def State.gangHere (s : State) (c : CoreId) (f : MmaF) : Bool :=
  (List.range (f.gang.toNat + 1)).all (fun m =>
    let n := s.instAt (s.member (s.instAt c).launch c f m)
    n.live && n.launch == (s.instAt c).launch)

/-- The head of a queue is ready for a grant (R429, R437). -/
def State.grantReady (s : State) (c : CoreId) (q : Fin 2) : Bool :=
  match s.tqHead c q with
  | none => false
  | some x =>
    match x.cmd with
    | .mzero _ _ _ => true
    | .mma f _ => s.tqMayAq c x f.aq
    | .mmar f _ =>
      s.tqMayAq c x f.aq &&
        (((s.coreAt c).winX (s.fgAt c)).2 ≤ f.x.toNat || f.n1.toNat + 1 ≤ ((s.instAt c).xslot f.x.toNat).arrived)
    | .mreel f _ => !x.begun && s.tqMayAq c x f.aq && s.gangHere c f
    | _ => false

/-- The queue that the array prefers, and whether the other has waited its eight grants (R430). -/
def Inst.prefer (n : Inst) : Fin 2 :=
  if n.prio = 1 then 0 else if n.prio = 2 then 1 else if n.lastQ % 2 = 0 then 1 else 0

/-- The queue that the next grant goes to. -/
def State.grantQueue (s : State) (c : CoreId) : Option (Fin 2) :=
  let n := s.instAt c
  let p := n.prefer
  let o : Fin 2 := if p == 0 then 1 else 0
  let rp := s.grantReady c p
  let ro := s.grantReady c o
  if n.prio != 0 && 8 ≤ n.streak && ro then some o else if rp then some p else if ro then some o else none

/-- The head of a queue is granted. -/
def State.grantHead (s : State) (c : CoreId) (q : Fin 2) : State :=
  match s.tqHead c q with
  | none => s
  | some x =>
    match x.cmd with
    | .mzero n _ _ => s.grantZero c q x n.toNat
    | .mma f _ => s.grantPass c q x f 64
    | .mmar f _ => s.grantPass c q x f (f.n1.toNat + 1)
    | .mreel f _ => s.grantReel c q x f
    | _ => s

/-- The power controller delays the start of tile passes (R39, R40). -/
def State.throttled (s : State) : Bool := s.hub.limit < s.hub.estimate || s.hub.hots.any id

/-- A command's grant is a tile pass. -/
def TqEnt.isPass (x : TqEnt) : Bool :=
  match x.cmd with
  | .mzero _ _ _ => false
  | _ => true

/-- The array, idle, makes its next grant (R429): a Reel pass whose B has landed, or the head of a queue. The start of a tile pass waits
while the package is throttled (R39, R40). -/
def State.zGrant (s : State) (c : CoreId) : State :=
  let n := s.instAt c
  match (s.coreAt c).reels.find? (fun r => r.launch == n.launch && r.left.isEmpty) with
  | some r =>
    if s.throttled then s
    else
      (s.updCore c (fun k => { k with reels := k.reels.erase r })).memberPass (passOf c r.f r.scales 64 r.red) r.launch r.leader r.q r.m
        r.word r.bad
  | none =>
    match s.grantQueue c with
    | none => s
    | some q =>
      if s.throttled && (match s.tqHead c q with | some x => x.isPass | none => false) then s
      else
        let other : Fin 2 := if q == 0 then 1 else 0
        let both := s.grantReady c other
        (s.updInst c (fun n =>
          { n with lastQ := q.val, streak := if q == n.prefer && both then n.streak + 1 else 0 })).grantHead c q

/-- The Reels of which B may land further on a core: their leader and the core run one launch (R107, R441). -/
def State.landing (s : State) (c : CoreId) : List ReelJob :=
  let n := s.instAt c
  (s.coreAt c).reels.filter (fun r =>
    r.launch == n.launch && (s.instAt r.leader).live && (s.instAt r.leader).launch == n.launch && !r.left.isEmpty)

/-- MATRIX_GRANT: the array goes on with what it runs, to the end of it, also where a halt or a pre-emption waits for that (R107, R282);
idle, it makes its next grant (R429). Of B, what lands meanwhile lands in any order (R441). -/
def execMatrixGrant (core : CoreId) (s : State) : Res :=
  let k := s.coreAt core
  let stop := s.haltedAt core || k.preReq
  if !(s.instAt core).live then .next s
  else
    let own : List (Option ReelJob) := if k.zrun.isSome || !stop then [none] else []
    let (a, s) := s.anyOf (own ++ (if stop then [] else (s.landing core).map some))
    match a with
    | none => .next s
    | some (some r) => .next (s.reelLand core r)
    | some none => .next (match k.zrun with | some r => s.zStep core r | none => s.zGrant core)

/-- Every member of a Reel has finished: the leader's own arrival, flags, and the report of the lowest member that made one, in one ck
(R441, R442, R466). INJ of an inner mismatch is carried along (R265). While a trap is open the report freezes the Caller (R270), and is
taken after the return once it goes on (log 88). -/
def State.reelEnd (s : State) (c : CoreId) (q : Fin 2) (x : TqEnt) (f : MmaF) : State :=
  let s := s.arriveAt (s.instAt c).launch c f.bar
  let s := (s.updEng c callerId (fun g => g.raise x.flags)).tqPop c q
  match (List.range (f.gang.toNat + 1)).findSome? (fun m => x.reports.find? (fun r => r.1 == m)) with
  | none => s
  | some (m, code, info) =>
    let t : Trap :=
      { code := 0x14,
        info := wordN (code % 256 + m % 4 * 2 ^ 8 + fieldW info 29 0 * 2 ^ 32 + (if code = 0x0e && info.getLsbD 63 then 2 ^ 63 else 0)),
        epc := (s.engAt c callerId).pc, src := 4, conv := false, seq := x.seq, acc := none, fired := 0, elem := none }
    if (s.engAt c callerId).tr.trap then
      (s.updEng c callerId (fun g => { g with traps := g.traps ++ [t] })).freezeEng c callerId 0x14 0
    else s.raiseTrap c callerId t

/-- The head of a queue is a Reel of which every member has finished. -/
def State.reelDone (s : State) (c : CoreId) (q : Fin 2) : Option (TqEnt × MmaF) :=
  match s.tqHead c q with
  | some x =>
    (match x.cmd with
    | .mreel f _ => if x.begun && f.gang.toNat + 1 ≤ x.done then some (x, f) else none
    | _ => none)
  | none => none

/-- REEL_COMPLETE (R441): any of what a leader's Reels have still to do: one completes with the leader's own arrival and its report, or an
arrival at another member's barrier is made, before, in or after the ck of the completion (R466). -/
def execReelComplete (core : CoreId) (s : State) : Res :=
  let ends : List (Sum (Fin 2 × TqEnt × MmaF) (Nat × CoreId × BitVec 6)) :=
    (List.finRange 2).filterMap (fun q => (s.reelDone core q).map (fun y => .inl (q, y)))
  let (a, s) := s.anyOf (ends ++ (s.coreAt core).gangArr.map Sum.inr)
  match a with
  | none => .next s
  | some (Sum.inl (q, x, f)) => .next (s.reelEnd core q x f)
  | some (Sum.inr r) =>
    .next ((s.updCore core (fun k => { k with gangArr := k.gangArr.erase r })).arriveAt r.1 r.2.1 r.2.2)

/-! ### The drain (R443, R444) -/

/-- Elements of a drain: the bytes and the flags. -/
def drainBytes (f : DrainF) (zs : List Nat) : List Byte × Nat :=
  let fmt := f.fmt.toNat
  let rs := zs.map (fun z => if fmt = 13 then (z, 0) else roundF fmt f.rnd.toNat f.sat (decodeF 13 z))
  let w := fmtBits fmt 0
  let n := rs.foldr (fun r acc => r.1 % 2 ^ w + 2 ^ w * acc) 0
  (bytesLE (zs.length * w / 8) n, rs.foldl (fun fl r => fl ||| r.2) 0)

/-- The units that a drain writes in a row: its elements, or the pairs of FP4 (R444). -/
def drainUnits (f : DrainF) : Nat := if fmtBits f.fmt.toNat 0 = 4 then 32 else 64

/-- A row of a Z tile holds an uncorrectable word (R276). -/
def State.zBadRow (s : State) (c : CoreId) (z r : Nat) : Bool :=
  let k := s.coreAt c
  poisoned (k.bufZ.bad blkZ) 8 (((k.winZ (s.fgAt c)).1 + z) * blkZ + 256 * r) 256

/-- The first row of a pair of tiles that holds an uncorrectable word: the offset of the row, in the tile that holds the word (R276,
R279). -/
def State.zBadPair (s : State) (c : CoreId) (z : Nat) : Option Nat :=
  ((List.range 64).flatMap (fun r => [(z, r), (z + 1, r)])).findSome? (fun p =>
    if s.zBadRow c p.1 p.2 then some (p.1 * blkZ + 256 * p.2) else none)

/-- The drain begins: its window, its pair, which redundant mode reads whole, and its destination (R276, R279, R280, R444). -/
def State.drainBegin (s : State) (c : CoreId) (q : Fin 2) (x : TqEnt) (f : DrainF) : State :=
  let z := f.z.toNat
  let red := (s.tqAt c q).red
  let w := (s.coreAt c).winZ (s.fgAt c)
  if !s.tqMay c x f.cls.toNat f.aq then s
  else if w.2 ≤ z then s.tqFreeze c q 7 (z * blkZ)
  else if red && (z % 2 == 1 || w.2 ≤ z + 1) then s.tqTrap c q x 1 (faultWord x.cmd)
  else
    match (if red then s.zBadPair c z else none) with
    | some o => s.tqTrap c q x 0x0c (poisonInfo o 6)
    | none =>
      if ((s.instAt c).zt z).bad || (red && (s.pairDiff c z).isSome) then s.tqTrap c q x 0x0e (s.misWord c z)
      else if ((s.coreAt c).winS (s.fgAt c)).2 < x.a.toNat + 512 * fmtBits f.fmt.toNat 0 then s.tqFreeze c q 7 x.a.toNat
      else s.updTqHead c q (fun y => { y with begun := true })

/-- The units of the rows below `last` that a drain has still to write, as the bits of `TqEnt.done`. -/
def TqEnt.drainLeft (x : TqEnt) (units last : Nat) : List Nat := (List.range (last * units)).filter (fun k => !x.done.testBit k)

/-- The rows of a drain of which some unit has been written: those below this number (R107). -/
def TqEnt.drainTop (x : TqEnt) (units : Nat) : Nat := if x.done = 0 then 0 else lg x.done / units + 1

/-- The bytes of a drain's unit. -/
def unitBytes (f : DrainF) : Nat := 64 / drainUnits f * fmtBits f.fmt.toNat 0 / 8

/-- The S offset that a unit of a drain writes. -/
def TqEnt.unitAt (x : TqEnt) (f : DrainF) (k : Nat) : Nat :=
  x.a.toNat + 8 * fmtBits f.fmt.toNat 0 * (k / drainUnits f) + unitBytes f * (k % drainUnits f)

/-- What stops a drain at a unit: an uncorrectable word in its row of Z, or one of S that the unit does not cover (R276, R444). -/
def State.drainBad (s : State) (c : CoreId) (x : TqEnt) (f : DrainF) (k : Nat) : Option Word :=
  let r := k / drainUnits f
  if s.zBadRow c f.z.toNat r then some (poisonInfo (f.z.toNat * blkZ + 256 * r) 6)
  else if s.badWrite (.s c (((s.coreAt c).winS (s.fgAt c)).1 + x.unitAt f k)) (unitBytes f) then some (poisonInfo (x.unitAt f k) 1)
  else none

/-- A drain writes one unit more of the rows below `last`, in any order (R161, R171; log 4 for the choice), or faults at the first that
meets an uncorrectable word once those below it are written (R276, R444). -/
def State.drainPut (s : State) (c : CoreId) (q : Fin 2) (x : TqEnt) (f : DrainF) (last : Nat) : State :=
  let us := drainUnits f
  let left := x.drainLeft us last
  let bad := left.findSome? (fun k => (s.drainBad c x f k).map (fun i => (k, i)))
  let (unit, s) := s.anyOf (match bad with | some (k, _) => left.filter (· < k) | none => left)
  match unit with
  | none => (match bad with | some (_, info) => s.tqTrap c q x 0x0c info | none => s)
  | some k =>
    let m := s.coreAt c
    let per := 64 / us
    let zo := ((m.winZ (s.fgAt c)).1 + f.z.toNat) * blkZ + 256 * (k / us) + 4 * (per * (k % us))
    let (bs, fl) := drainBytes f ((List.range per).map (fun j => numLE (m.bufZ.readBytes blkZ (zo + 4 * j) 4)))
    (s.writeS c ((m.winS (s.fgAt c)).1 + x.unitAt f k) bs).updTqHead c q (fun y =>
      { y with done := y.done ||| 2 ^ k, flags := y.flags ||| fl })

/-- The next unit of a drain that has begun, or its completion. -/
def State.drainStep (s : State) (c : CoreId) (q : Fin 2) (x : TqEnt) (f : DrainF) : State :=
  if !x.begun then s.drainBegin c q x f
  else if (x.drainLeft (drainUnits f) 64).isEmpty then
    ((s.updEng c callerId (fun g => g.raise x.flags)).arriveOwn c f.arrive f.bar).tqPop c q
  else s.drainPut c q x f 64

/-- A drain has rows that it has written in part, which it writes whole before it stops for a pre-emption (R107, R444). -/
def TqEnt.midRow (x : TqEnt) : Bool :=
  match x.cmd with
  | .mdrain f _ => !(x.drainLeft (drainUnits f) (x.drainTop (drainUnits f))).isEmpty
  | _ => false

/-- The head of a queue that must stop goes on to a row boundary (R107). -/
def State.drainOut (s : State) (c : CoreId) (q : Fin 2) : State :=
  match s.tqStand c q with
  | none => s
  | some x =>
    match x.cmd with
    | .mdrain f _ => if x.midRow then s.drainPut c q x f (x.drainTop (drainUnits f)) else s
    | _ => s

/-- A command as its instance is parked: a drain that has written nothing compares its tiles again (R279). -/
def TqEnt.park (x : TqEnt) : TqEnt :=
  match x.cmd with
  | .mdrain _ _ => if x.done = 0 then { x with begun := false } else x
  | _ => x

end Sys2Proof.Machine
end

