-- ==== Sys2Proof/Machine/Streams.lean ====
section
/-! DEFINITION. The stream ports: binding, affine, indirect and `agather` streams, their ends, their control, and the
user-level interrupts (R136 to R148, R245, R246, R445). -/

namespace Sys2Proof.Machine

open Sys2Proof

/-! ### Parameter blocks (R138 to R140, R245) -/

/-- A little-endian field of a stream's block. -/
def Strm.n (st : Strm) (off len : Nat) : Nat := fieldLE st.blk off len

/-- A field of a stream's block as a word. -/
def Strm.w (st : Strm) (off len : Nat) : Word := wordN (st.n off len)

/-- Count `k` of an affine block; an n0 of 0 takes the Caller's VL. -/
def Strm.count (st : Strm) (k : Nat) : Nat := if k = 0 && st.n 24 4 = 0 then st.cvl else st.n (24 + 4 * k) 4

/-- The parts that an `agather` moves for each block. -/
def Strm.parts (st : Strm) : Nat := st.n 1 1 % 2 + st.n 1 1 / 2 % 2

/-- The number of elements of a stream. -/
def Strm.elems (st : Strm) : Nat :=
  match st.kind with
  | .affine => st.count 0 * st.count 1 * st.count 2 * st.count 3
  | .indirect => if st.n 24 4 = 0 then st.cvl else st.n 24 4
  | .agather => st.parts * st.n 24 4

/-- The destination spaces of a port (R136). -/
def portDst (p : Nat) (sp : Nat) : Bool :=
  if p < 4 then sp == 0 || sp == 2 else sp == (if p = 4 then 1 else if p = 5 then 3 else if p = 6 then 4 else 5)

/-- What every block refuses: the class, the flags, the barrier, the reserved bytes at its end, a core that the
destination does not name. -/
def Strm.tailBad (st : Strm) : Bool :=
  15 < st.n 6 1 || 8 ≤ st.n 7 1 || 63 < st.n 104 1 || !zeroBytes st.blk 105 7 || !zeroBytes st.blk 121 7

/-- An affine block is malformed. -/
def Strm.affineBad (st : Strm) (p : Nat) : Bool :=
  let es := 2 ^ st.n 1 1
  let word (o : Nat) : Nat := st.n o 8
  3 < st.n 1 1 || word 8 % es != 0 || word 16 % es != 0 ||
    (List.range 4).any (fun k => word (40 + 8 * k) % es != 0 || word (72 + 8 * k) % es != 0) ||
    ((p == 5 || p == 6) &&
      (word 16 % 64 != 0 || word 72 != es || (([1, 2, 3].any (fun k => st.count k != 1)) && st.count 0 * es % 64 != 0) ||
        [1, 2, 3].any (fun k => 1 < st.count k && word (72 + 8 * k) % 64 != 0)))

/-- An indirect block is malformed. -/
def Strm.indirectBad (st : Strm) (p : Nat) : Bool :=
  let es := 2 ^ st.n 1 1
  let scatter := st.n 56 1 == 1
  !(st.n 1 1 == 2 || st.n 1 1 == 3) || st.n 28 4 % 8 != 0 || st.n 28 4 = 0 || 65536 < st.n 28 4 || 1 < st.n 56 1 ||
    !zeroBytes st.blk 57 47 || st.n 8 8 % es != 0 || st.n 16 8 % es != 0 || st.n 48 8 % es != 0 ||
    ((p == 5 || p == 6) &&
      (st.n 28 4 % 64 != 0 || st.n 16 8 % 64 != 0 || st.n (if scatter then 40 else 48) 8 % 64 != 0))

/-- An `agather` block does not suit the pool (R245). -/
def Strm.poolBad (st : Strm) (pool : Pool) : Bool := pool.nh ≤ st.n 3 1 || st.n 28 4 != pool.bsize || st.n 40 4 != pool.hstride

/-- An `agather` block is malformed; what concerns the pool is judged as it is bound if one is enabled, and as an entry is read (R235,
R245). -/
def Strm.agatherBad (st : Strm) (p : Nat) (pool : Pool) : Bool :=
  st.n 0 1 != 2 || 3 < st.n 1 1 || st.n 1 1 = 0 || st.n 2 1 != (if p = 4 then 1 else 5) ||
    (st.n 2 1 == 1 && (st.n 4 2 != 0 || st.n 16 8 % 64 != 0)) || st.n 24 4 = 0 || 65536 < st.n 24 4 || st.n 44 4 % 64 != 0 ||
    st.n 44 4 < st.n 28 4 || !zeroBytes st.blk 48 56 || st.n 8 8 % 4 != 0 || st.n 32 8 % 8 != 0 ||
    (pool.en && st.poolBad pool)

/-- A reserved field of the block is not zero, or holds what it may not: such a block is acted on in no field (R6). A barrier number
above 63 counts as one (log 89). -/
def Strm.reserved (st : Strm) : Bool :=
  8 ≤ st.n 7 1 || 63 < st.n 104 1 || !zeroBytes st.blk 105 7 || !zeroBytes st.blk 121 7 ||
    (match st.kind with
    | .agather => !zeroBytes st.blk 48 56 || 3 < st.n 1 1
    | .indirect => 1 < st.n 56 1 || !zeroBytes st.blk 57 47
    | .affine => 1 < st.n 0 1)

/-- A block is malformed for its port (R140, R245). -/
def Strm.bad (st : Strm) (p : Nat) (pool : Pool) : Bool :=
  st.tailBad || st.elems = 0 || 0xffffff < st.elems ||
    (match st.kind with
    | .agather => st.agatherBad p pool
    | k =>
      1 < st.n 2 1 || !portDst p (st.n 3 1) || (st.n 3 1 != 2 && st.n 3 1 != 5 && st.n 4 2 != 0) ||
        (if k == .affine then st.affineBad p else st.indirectBad p))

/-- A stream with its block: the kind that the block's mode names, the elements expected, and error 1 if it is
malformed. -/
def Strm.load (st : Strm) (p : Nat) (pool : Pool) (bs : List Byte) : Strm :=
  let st := { st with blk := bs }
  let mode := st.n 0 1
  let st := if st.kind == .agather then st else { st with kind := if mode = 1 then .indirect else .affine }
  { st with exp := st.elems % 2 ^ 24, err := if st.bad p pool || (st.kind != .agather && 1 < mode) then 1 else 0 }

/-! ### Moving an element (R139, R142, R171, R245) -/

/-- Why a stream stops. -/
inductive StrmStop where
  | wait
  | err (code : Nat) (faddr : Word) (fcause : Nat)
  | freeze (code addr : Nat)
  /-- uncorrectable data at a place: error code 3, and the links of its line break (R142, R391) -/
  | poison (l : Loc)
  deriving DecidableEq, Repr

/-- What a stream makes of what its access at an address met (R142). -/
def strmFault (a : Word) : AFault → StrmStop
  | .trap 5 info => .err 2 a (info.toNat % 256)
  | .trap _ _ => .err 3 0 0
  | .freeze code addr => .freeze code addr

/-- A stream's translation enters the TLB (R153). -/
def State.strmFill (s : State) (c : CoreId) (sp : Nat) (a : Word) : State := if sp = 0 then s.tlbFill c false a.toNat else s

/-- A stream reads `len` bytes of G or of its S window. -/
def State.strmRead (s : State) (c : CoreId) (sp : Nat) (a : Word) (len : Nat) : Except StrmStop Nat :=
  match s.resolve c false (spaceOf (sp == 1)) a.toNat len true false with
  | .error f => .error (strmFault a f)
  | .ok l => if s.badRead l len then .error (.poison l) else .ok (numLE (s.readLoc l len))

/-- A stream writes at a place that has been found. -/
def State.strmPut (s : State) (c : CoreId) (l : Loc) (a : Word) (len v : Nat) : Except StrmStop State :=
  if s.badWrite l len || s.followHit (s.recOf c).part false a.toNat l len then .error (.poison l) else .ok (s.writeAt c false l a.toNat len v)

/-- A write to the S of another core of the launch; its own is not admitted, and it waits for a core that has yet to start (R82, R122,
R142). -/
def State.strmRemote (s : State) (c : CoreId) (dcore : Nat) (a : Word) (len v : Nat) : Except StrmStop State :=
  let l := s.launchOf c
  if l.rec_.w * l.rec_.h ≤ dcore then .error (.err 7 0 0)
  else
    let d := l.coreOf dcore
    let k := s.coreAt d
    if d == c then .error (.freeze 7 a.toNat)
    else if !((k.inst.live && k.inst.launch == l.id) || (k.parked.live && k.parked.launch == l.id)) then .error .wait
    else
      let w := k.winS l.rec_.fg
      if w.2 < a.toNat + len then .error (.freeze 7 a.toNat) else s.strmPut c (.s d (w.1 + a.toNat)) a len v

/-- A write to an X offset (R125, R131). -/
def State.strmX (s : State) (c : CoreId) (a : Word) (len v : Nat) : Except StrmStop State :=
  let k := s.coreAt c
  let w := k.winX (s.fgAt c)
  let o := a.toNat
  if 0xa0000 < o + len || w.2 ≤ xSlotOf o then .error (.freeze 7 o)
  else if !((s.instAt c).xslot (xSlotOf o)).claimed then .error (.err 4 0 0)
  else if poisonedWrite (k.bufX.bad blkS) 8 (xPhys w.1 o) len then .error (.err 3 0 0)
  else .ok (s.writeX c false (s.fgAt c) o (bytesLE len v))

/-- A write to a W offset (R125, R131). -/
def State.strmW (s : State) (c : CoreId) (a : Word) (len v : Nat) : Except StrmStop State :=
  let k := s.coreAt c
  let w := k.winW (s.fgAt c)
  let o := a.toNat
  if 0x140000 < o + len || w.2 ≤ wSlotOf o then .error (.freeze 7 o)
  else if !(s.instAt c).wClaimed (wSlotOf o) then .error (.err 4 0 0)
  else if poisonedWrite (k.bufW.bad blkS) 8 (wPhys w.1 o) len then .error (.err 3 0 0)
  else .ok (s.updCore c (fun k => { k with bufW := k.bufW.writeBytes blkS (wPhys w.1 o) (bytesLE len v) }))

/-- The bytes that a vector feed holds (R136). -/
def feedBytes : Nat := 16384

/-- A write to a thread's feed, which waits while the feed is full (R136). -/
def State.strmFeed (s : State) (c : CoreId) (t len v : Nat) : Except StrmStop State :=
  let e := threadId (t % 4)
  if feedBytes < ((s.instAt c).feed e).length + len then .error .wait
  else .ok (s.updInst c (fun n => n.updFeed e (fun f => f ++ bytesLE len v)))

/-- A stream writes `len` bytes at its destination. -/
def State.strmWrite (s : State) (c : CoreId) (sp dcore : Nat) (a : Word) (len v : Nat) : Except StrmStop State :=
  match sp with
  | 2 => s.strmRemote c dcore a len v
  | 3 => s.strmX c a len v
  | 4 => s.strmW c a len v
  | 5 => s.strmFeed c dcore len v
  | _ =>
    match s.resolve c false (spaceOf (sp == 1)) a.toNat len false true with
    | .error f => .error (strmFault a f)
    | .ok l =>
      if sp = 0 && s.headerHit (s.recOf c).part false a.toNat len then .error (.freeze 6 a.toNat)
      else (s.strmPut c l a len v).map (fun t => t.strmFill c sp a)

/-- The address of element `e` of an affine stream on one side: the base, and the strides from an offset of the block. -/
def Strm.affineAt (st : Strm) (base strides e : Nat) : Word :=
  let n0 := st.count 0
  let n1 := st.count 1
  let n2 := st.count 2
  st.w base 8 + wordN (e % n0) * st.w strides 8 + wordN (e / n0 % n1) * st.w (strides + 8) 8 +
    wordN (e / n0 / n1 % n2) * st.w (strides + 16) 8 + wordN (e / n0 / n1 / n2) * st.w (strides + 24) 8

/-- The source and destination of the row under way, for its index (R139). -/
def Strm.row (st : Strm) (x : Nat) : Word × Word :=
  let i := wordN st.next * st.w 48 8
  let o := wordN x * st.w 40 8
  if st.n 56 1 = 1 then (st.w 8 8 + i, st.w 16 8 + o) else (st.w 8 8 + o, st.w 16 8 + i)

/-- The unit of a row: the largest of 8, 4, 2 and 1 that divides both addresses (R139). -/
def rowUnit (r : Word × Word) : Nat :=
  let a := (r.1 ||| r.2).toNat
  if a % 8 = 0 then 8 else if a % 4 = 0 then 4 else if a % 2 = 0 then 2 else 1

/-- The leading elements that have all been written (R141). -/
def Strm.lead (st : Strm) : Nat := st.flight.foldl (fun m p => Nat.min m p.elem) st.next

/-- The leading elements are counted, and an `agather` element that has been written drops its reference (R141, R242). -/
def Strm.tally (st : Strm) : Strm :=
  { st with
    landed := st.lead,
    grips := st.grips.filter (fun g => (g.elem == st.next && st.snap.isSome) || st.flight.any (fun p => p.elem == g.elem)) }

/-- Units of the next element issue, of `total` in it. -/
def Strm.issue (st : Strm) (ps : List Piece) (total : Nat) : Strm :=
  let b := st.beat + ps.length
  (if total ≤ b then { st with flight := st.flight ++ ps, next := st.next + 1, beat := 0, snap := none }
   else { st with flight := st.flight ++ ps, beat := b }).tally

/-- A unit from one address to another. -/
def Strm.piece (st : Strm) (src dst : Word) (len : Nat) : Piece :=
  { elem := st.next, src := src, dst := dst, len := len, got := none, keep := 0 }

/-- The next beat of an affine stream issues: 64 bytes of elements, or what is left of them (R138). -/
def Strm.issueAffine (st : Strm) : Strm :=
  let es := 2 ^ st.n 1 1
  let n := Nat.min (64 / es) (st.exp - st.next)
  let ps := (List.range n).map (fun k =>
    { st.piece (st.affineAt 8 40 (st.next + k)) (st.affineAt 16 72 (st.next + k)) es with elem := st.next + k })
  ({ st with flight := st.flight ++ ps, next := st.next + n } : Strm).tally

/-- The next beat of an indirect stream issues: up to 64 bytes of the row, whose index is read before its first (R139). -/
def State.issueRow (s : State) (c : CoreId) (st : Strm) : Except StrmStop (State × Strm) :=
  let es := 2 ^ st.n 1 1
  match (match st.snap with | some x => Except.ok x | none => s.strmRead c 1 (st.w 32 8 + wordN (st.next * es)) es) with
  | .error x => .error x
  | .ok x =>
    let r := st.row x
    let u := rowUnit r
    let total := st.n 28 4 / u
    let ps := (List.range (Nat.min (64 / u) (total - st.beat))).map (fun k =>
      let o := wordN ((st.beat + k) * u)
      st.piece (r.1 + o) (r.2 + o) u)
    .ok (s, ({ st with snap := some x }).issue ps total)

/-- The offset of the data of the part that the element under way moves (R238, R245). -/
def Strm.partOff (st : Strm) (p : Pool) : Nat :=
  let value := if st.parts = 2 then st.next % 2 == 1 else st.n 1 1 == 2
  p.blockOff value (st.n 3 1) + p.hdrLen value

/-- The entry that the element under way reads: its address, or none for the index that names nothing. -/
def State.gatherEntry (s : State) (c : CoreId) (st : Strm) : Except StrmStop (Option Word) :=
  match s.strmRead c 1 (st.w 8 8 + wordN (4 * (st.next / st.parts))) 4 with
  | .error x => .error x
  | .ok i => .ok (if i = 0xffffffff then none else some (st.w 32 8 + wordN (8 * i)))

/-- The physical address of a place in G. -/
def Loc.phys : Loc → Nat
  | .g a => a
  | _ => 0

/-- An `agather` goes on: the read of its next element's entry, which takes the reference, or that element's next beat (R242,
R245). -/
def State.issueGather (s : State) (c : CoreId) (st : Strm) : Except StrmStop (State × Strm) :=
  let p := s.poolOf (s.recOf c).part
  match st.snap with
  | some va =>
    let total := st.n 28 4 / 8
    let ps := (List.range (Nat.min 8 (total - st.beat))).map (fun k =>
      let o := 8 * (st.beat + k)
      st.piece (wordN (va + st.partOff p + o)) (st.w 16 8 + wordN (st.next * st.n 44 4 + o)) 8)
    .ok (s, st.issue ps total)
  | none =>
    match s.gatherEntry c st with
    | .error x => .error x
    | .ok none => .ok (s, ({ st with next := st.next + 1 } : Strm).tally)
    | .ok (some a) =>
      match s.resolve c false .g a.toNat 8 true false with
      | .error f => .error (strmFault a f)
      | .ok l =>
        match s.strmRead c 0 a 8 with
        | .error x => .error x
        | .ok w =>
          if !p.en then .error (.err 11 a 0)
          else if st.poolBad p then .error (.err 1 0 0)
          else
            match p.reads w with
            | .frame i f =>
              .ok (s.strmFill c 0 a,
                { st with snap := some (p.frameVa i f),
                          grips := st.grips ++ [{ elem := st.next, frame := p.frameVa i f, entry := l.phys }] })
            | .bad => .error (.err 12 0 0)
            | _ => .error (.err 11 a 0)

/-- The next beat of a stream issues (R138, R139, R245). -/
def State.strmIssue (s : State) (c : CoreId) (st : Strm) : Except StrmStop (State × Strm) :=
  match st.kind with
  | .affine => .ok (s, st.issueAffine)
  | .indirect => s.issueRow c st
  | .agather => s.issueGather c st

/-- The spaces between which a stream moves: its source's and its destination's. -/
def Strm.spaces (st : Strm) : Nat × Nat := if st.kind == .agather then (0, st.n 2 1) else (st.n 2 1, st.n 3 1)

/-- A unit goes on as if the channels that have been retired since it issued had not been (R62). -/
def State.withChans {α : Type} (s : State) (keep : BitVec 384) (f : State → Except StrmStop (State × α)) : Except StrmStop (State × α) :=
  (f { s with chanOut := s.chanOut &&& ~~~keep }).map (fun r => ({ r.1 with chanOut := s.chanOut }, r.2))

/-- Units of a stream have been written, in a ck: those left are in flight. -/
def Strm.wrote (st : Strm) (clk : Nat) (left : List Piece) : Strm :=
  ({ st with flight := left, past := st.past || (st.susp && decide (st.suspAt < clk)) } : Strm).tally

/-- The units of an aligned 8-byte element of W are written in one instant, once all of them have been read (R134). -/
def State.strmWord (s : State) (c : CoreId) (st : Strm) (p : Piece) : Except StrmStop (State × Strm) :=
  let mate (m : Piece) : Bool := m.dst.toNat / 8 == p.dst.toNat / 8
  let mates := st.flight.filter mate
  if mates.any (fun m => m.got.isNone) then .error .wait
  else
    let t := mates.foldl (fun (r : Except StrmStop State) m =>
      match r with | .ok t => t.strmWrite c 4 (st.n 4 2) m.dst m.len (m.got.getD 0) | e => e) (.ok s)
    t.map (fun t => (t, st.wrote s.clk (st.flight.filter (fun m => !mate m))))

/-- An issued unit goes on: its source is read, or it is written where it goes. -/
def State.strmPiece (s : State) (c : CoreId) (st : Strm) (n : Nat) : Except StrmStop (State × Strm) :=
  match st.flight[n]? with
  | none => .error .wait
  | some p =>
    s.withChans p.keep fun s =>
    match p.got with
    | none =>
      (match s.strmRead c st.spaces.1 p.src p.len with
      | .error x => .error x
      | .ok v => .ok (s.strmFill c st.spaces.1 p.src, { st with flight := setAt st.flight n { p with got := some v } }))
    | some v =>
      if st.spaces.2 = 4 then s.strmWord c st p
      else
        match s.strmWrite c st.spaces.2 (st.n 4 2) p.dst p.len v with
        | .error x => .error x
        | .ok t => .ok (t, st.wrote s.clk (removeAt st.flight n))

/-- What a stream may do next: issue a beat, or go on with an issued unit. -/
inductive StrmAct where
  | issue
  | unit (n : Nat)
  deriving DecidableEq, Repr

/-- The acts that a stream may choose among, `more` saying that it may issue: its units perform in any order, but a feed takes its
bytes in the order in which the thread is to read them (R136, R171). -/
def Strm.acts (st : Strm) (more : Bool) : List StrmAct :=
  (if more && st.next < st.exp then [.issue] else []) ++
    ((List.range st.flight.length).filter (fun n =>
      n = 0 || st.spaces.2 != 5 || (match st.flight[n]? with | some p => p.got.isNone | none => false))).map .unit

/-- One act of a stream. -/
def State.strmAct (s : State) (c : CoreId) (st : Strm) (a : StrmAct) : Except StrmStop (State × Strm) :=
  match a with
  | .issue => s.strmIssue c st
  | .unit n => s.strmPiece c st n

/-- A stream that stops begins an `agather` element afresh, without a reference (R246). -/
def Strm.atStop (st : Strm) : Strm :=
  if st.kind == .agather then { st with next := st.landed, beat := 0, snap := none, flight := [], grips := [] } else st

/-! ### Ports -/

/-- A stream port of the running instance of a core. -/
def State.portAt (s : State) (c : CoreId) (p : Fin 8) : Port := (s.instAt c).ports[p]

/-- Change a stream port. -/
def State.updStrm (s : State) (c : CoreId) (p : Fin 8) (f : Port → Port) : State :=
  s.updInst c (fun n => { n with ports := n.ports.set p.val (f n.ports[p]) p.isLt })

/-- The instance that runs on a core has not come to its end. -/
def State.unitsLive (s : State) (c : CoreId) : Bool :=
  let n := s.instAt c
  n.live && !n.ending && !(s.launchAt n.launch).stopping

/-- The units of a core must stop: for a pre-emption or a halt (R107, R282). -/
def State.pausing (s : State) (c : CoreId) : Bool := s.haltedAt c || (s.coreAt c).preReq

/-- The units of a core act for its running instance. -/
def State.unitsRun (s : State) (c : CoreId) : Bool := s.unitsLive c && !s.pausing c

/-- Read the block of a stream (R137): malformed, uncorrectable, or the freeze that it meets. -/
def State.strmLoad (s : State) (c : CoreId) (p : Fin 8) (st : Strm) : Strm × Option (Nat × Nat) :=
  match s.readBlock c false st.off 128 with
  | .ok bs => (st.load p.val (s.poolOf (s.recOf c).part) bs, none)
  | .error (.trap _ _) => ({ st with blk := List.replicate 128 0, err := 3 }, none)
  | .error (.freeze code addr) => (st, some (code, addr))

/-- STREAM_START (R137). -/
def execStreamStart (core : CoreId) (port : Fin 8) (s : State) : Res :=
  let q := s.portAt core port
  if !s.unitsRun core || q.frozen || q.run.isSome then .next s
  else
    match q.list.find? (fun st => !st.susp) with
    | none => .next s
    | some st =>
      if st.blk.isEmpty then
        let (t, f) := s.strmLoad core port st
        match f with
        | some (code, addr) => .next (s.freezePort core port code addr)
        | none => .next (s.updStrm core port (fun q => { q with run := some t, list := q.list.erase st }))
      else .next (s.updStrm core port (fun q => { q with run := some st, list := q.list.erase st }))

/-- A stream that has ended: the status word of R141. -/
def Strm.word (st : Strm) (state : Nat) : Word :=
  wordN (state * 2 ^ 62 + (if state = 3 then st.err % 64 else 0) * 2 ^ 56 + st.exp % 2 ^ 24 * 2 ^ 32 + st.landed % 2 ^ 32)

/-- The status word of a stream lands in its register (R141). -/
def Eng.landStatus (g : Eng) (seq : Nat) (rd : SReg) (p : Fin 8) (w : Word) : Eng :=
  let h := g.landAt seq rd w
  let shadow := 24 ≤ rd.toNat && rd.toNat ≤ 29 && g.inUi seq
  { h with stats := { reg := rd, shadow := shadow, port := p, read := false } :: h.stats }

/-- A stream has become done, suspended or in error: its word lands; at an end it arrives on its barrier, and the
interrupt asked for is pending (R141, R145, R147). One whose block has a reserved field set acts on no field of it, and so does not
arrive (R6); one that is malformed otherwise does (log 89). -/
def State.strmLand (s : State) (c : CoreId) (p : Fin 8) (st : Strm) (state : Nat) : State :=
  let w := st.word state
  let s := s.updEng c callerId (fun g => g.landStatus st.seq st.rd p w)
  if state = 2 then s
  else
    let s := s.updStrm c p (fun q => { q with last := some w, irq := if st.noted then some w else q.irq })
    s.arriveOwn c (bitN (st.n 7 1) 2 && !(st.err = 1 && st.reserved)) (BitVec.ofNat 6 (st.n 104 1))

/-- STREAM_END (R141, R144): the running stream, once every beat that it has issued has landed. One that `ssusp` stops ends done only if
its last beat has landed by the ck in which `ssusp` took effect. -/
def execStreamEnd (core : CoreId) (port : Fin 8) (s : State) : Res :=
  let q := s.portAt core port
  match q.run with
  | none => .next s
  | some st =>
    if !s.unitsRun core || q.frozen then .next s
    else
      let free (s : State) : State := s.updStrm core port (fun q => { q with run := none })
      if st.err != 0 && !(st.err == 6 && !st.flight.isEmpty) then .next ((free s).strmLand core port st.atStop 3)
      else if st.err = 0 && st.exp ≤ st.landed && !st.past then .next ((free s).strmLand core port st 1)
      else if st.err = 0 && st.susp && st.flight.isEmpty then
        .next (((free s).updStrm core port (fun q => { q with list := st.atStop :: q.list })).strmLand core port st 2)
      else .next s

/-- A stream ends in error: faddr and fcause go into its block for the codes that have them (R142, R245). -/
def State.strmErr (s : State) (c : CoreId) (p : Fin 8) (st : Strm) (code : Nat) (faddr : Word) (fcause : Nat) : State :=
  let put (s : State) (o : Nat) (bs : List Byte) : State :=
    match s.sLoc c false (st.off + o) bs.length with
    | .ok l => s.writeLoc l bs
    | .error _ => s
  let s := if code = 2 || code = 11 then put s 112 (bytesLE 8 faddr.toNat) else s
  let s := if code = 2 then put s 120 (bytesLE 1 fcause) else s
  s.updStrm c p (fun q => { q with run := some { st with err := code, flight := [], grips := [] } })

/-- The units of a stream whose writes have been issued: they have been read (R58). -/
def Strm.writes (st : Strm) : List StrmAct :=
  (st.acts false).filter (fun a => match a with
    | .issue => false
    | .unit n => (match st.flight[n]? with | some p => p.got.isSome | none => false))

/-- The acts of the stream that runs on a port: none issues once it is to stop (R107, R144, R282), and of a launch that stops only the
writes that have been issued complete (R58). -/
def State.strmActs (s : State) (c : CoreId) (p : Fin 8) : List StrmAct :=
  let q := s.portAt c p
  match q.run with
  | none => []
  | some st =>
    let l := s.launchAt (s.instAt c).launch
    if q.frozen || !(st.err = 0 || st.err = 6) then []
    else if s.unitsLive c then st.acts (!(st.susp || st.err = 6 || s.pausing c))
    else if (s.instAt c).live && l.stopping then st.writes
    else []

/-- The stream that runs on a port acts once: of its acts, any (R161, R171). -/
def State.performStream (s : State) (c : CoreId) (p : Fin 8) : State :=
  match (s.portAt c p).run with
  | none => s
  | some st =>
    let (act, s) := s.anyOf (s.strmActs c p)
    match act with
    | none => s
    | some a =>
      match s.strmAct c st a with
      | .ok (t, st) => t.updStrm c p (fun q => { q with run := some st })
      | .error .wait => s
      | .error (.err code faddr fcause) => s.strmErr c p st code faddr fcause
      | .error (.poison l) => (s.breakLinks l).strmErr c p st 3 0 0
      | .error (.freeze code addr) => s.freezePort c p code addr

/-- ELEMENT_PERFORM (R161): an element of a running engine, of a parked one (R177), or of a stream. -/
def execElementPerform (sel : PerfSel) (s : State) : Res :=
  match sel with
  | .acc c e n => .next (s.performElem c e n)
  | .parkedAcc c e n => .next (s.asParked c (fun t => t.performElem c e n))
  | .stream c p => .next (s.performStream c p)

/-! ### The commands (R137, R143 to R145, R447) -/

/-- A command that names a status or result register. -/
def State.issueStrm (s : State) (i : Instr) (rd : SReg) (rs1 : SReg) (q : Bool) (stl : Stl) : Res :=
  let a := s.rg rs1
  if !s.isCaller || rd == 0 then s.illegal i
  else if a.toNat % 128 != 0 then .next (s.trapMe 0x04 (misInfo a.toNat 128))
  else s.tqPush i q a (wordN s.me.v.vl) 0 stl (fun g => g.setPend rd true)

/-- SSTRM (R445). -/
def execSstrm (rd rs1 : SReg) (port : BitVec 3) (q : Bool) (stl : Stl) (s : State) : Res :=
  s.issueStrm (.sstrm rd rs1 port q stl) rd rs1 q stl

/-- AGATHER: ports 4 and 7 only, which the decoder checks (R245, R448). -/
def execAgather (rd rs1 : SReg) (port : BitVec 5) (q : Bool) (stl : Stl) (s : State) : Res :=
  s.issueStrm (.agather rd rs1 port q stl) rd rs1 q stl

/-- A command of a port that has no operand. -/
def State.issueCtl (s : State) (i : Instr) (q : Bool) (stl : Stl) : Res :=
  if !s.isCaller then s.illegal i else s.tqPush i q 0 0 0 stl id

/-- SSUSP (R445). -/
def execSsusp (port : BitVec 3) (q : Bool) (stl : Stl) (s : State) : Res := s.issueCtl (.ssusp port q stl) q stl
/-- SRES (R445). -/
def execSres (port : BitVec 3) (q : Bool) (stl : Stl) (s : State) : Res := s.issueCtl (.sres port q stl) q stl
/-- SKILL (R445). -/
def execSkill (port : BitVec 3) (q : Bool) (stl : Stl) (s : State) : Res := s.issueCtl (.skill port q stl) q stl
/-- SNOTE (R445). -/
def execSnote (port : BitVec 3) (q : Bool) (stl : Stl) (s : State) : Res := s.issueCtl (.snote port q stl) q stl

/-- The stream of an instance whose status register is pending under a number, in the Caller's bank now in place (R148). -/
def Inst.streamOf (n : Inst) (rd : SReg) : Option Strm :=
  n.ports.toList.findSome? (fun q => (q.run.toList ++ q.list.filter (fun st => !st.susp)).find? (fun st =>
    st.rd == rd && !(n.engs[callerId]).below st.seq rd))

/-- A queued command names a status register of the Caller's bank now in place. -/
def TqEnt.names (x : TqEnt) (g : Eng) (rd : SReg) : Bool :=
  !g.below x.seq rd &&
  match x.cmd with
  | .sstrm d _ _ _ _ => d == rd
  | .agather d _ _ _ _ => d == rd
  | _ => false

/-- SPEEK: the current status word, without waiting (R143, R445). Before its block has been read, the number of elements
of a stream is a free value (log 4). -/
def execSpeek (rd rs1 : SReg) (stl : Stl) (s : State) : Res :=
  let n := s.instAt s.core
  if !s.isCaller then s.illegal (.speek rd rs1 stl)
  else if !s.me.held rs1 then s.writeReg rd (s.rg rs1) 0 stl
  else
    match n.streamOf rs1 with
    | some st => s.writeReg rd (st.word 0) 0 stl
    | none =>
      if n.tqs.toList.any (fun t => t.ents.any (fun x => x.names s.me rs1)) then
        let (k, s) := s.free
        s.writeReg rd (wordN (Config.number k % 2 ^ 24 * 2 ^ 32)) 0 stl
      else s.stall

/-- The head of a tile queue binds a stream: once the port has room and the command may begin under the class and aq of
its block (R137, R170). -/
def State.bindHead (s : State) (c : CoreId) (q : Fin 2) (x : TqEnt) (p : Fin 8) (rd : SReg) (kind : StrmKind) : State :=
  let k := s.portAt c p
  if 4 ≤ k.list.length + (if k.run.isSome then 1 else 0) then s
  else
    let st : Strm :=
      { kind := kind, blk := [], off := x.a.toNat, rd := rd, seq := x.seq, exp := 0, cvl := x.b.toNat, landed := 0, next := 0,
        beat := 0, snap := none, flight := [], grips := [], err := 0, susp := false, suspAt := 0, past := false,
        noted := false }
    let (st, f) := s.strmLoad c p st
    if f.isNone && !(st.err = 1 && st.reserved) && !s.tqMay c x (st.n 6 1) (bitN (st.n 7 1) 0) then s
    else
      let s := (s.updStrm c p (fun k => { k with list := k.list ++ [st] })).tqPop c q
      match f with
      | some (code, addr) => s.freezePort c p code addr
      | none => s

/-- The first stream of a list by a test moves to its head, changed. -/
def toHead (l : List Strm) (p : Strm → Bool) (f : Strm → Strm) : List Strm :=
  match l.find? p with
  | some st => f st :: l.erase st
  | none => l

/-- `ssusp` acts (R144). -/
def State.actSusp (s : State) (c : CoreId) (p : Fin 8) : State :=
  s.updStrm c p (fun q => { q with run := q.run.map (fun st =>
    if st.susp then st else { st with susp := true, suspAt := s.clk, past := false }) })

/-- `sres` acts (R144). -/
def State.actRes (s : State) (c : CoreId) (p : Fin 8) : State :=
  match (s.portAt c p).list.find? (·.susp) with
  | none => s
  | some st =>
    (s.updStrm c p (fun q => { q with list := toHead q.list (·.susp) (fun st => { st with susp := false, past := false }) })).updEng c callerId
      (fun g => g.rehold st.seq st.rd)

/-- `skill` acts (R144). -/
def State.actKill (s : State) (c : CoreId) (p : Fin 8) : State :=
  let q := s.portAt c p
  match q.run, q.list with
  | some st, _ => if st.err = 0 then s.updStrm c p (fun q => { q with run := some { st with err := 6 } }) else s
  | none, st :: rest => (s.updStrm c p (fun q => { q with list := rest })).strmLand c p { st with err := 6 } 3
  | none, [] => s

/-- The first stream of a list by a test changes in its place. -/
def inPlace (l : List Strm) (p : Strm → Bool) (f : Strm → Strm) : List Strm :=
  match l with
  | [] => []
  | st :: rest => if p st then f st :: rest else st :: inPlace rest p f

/-- `snote` acts on the stream that runs there, or on the one that waits to start; with none, the status word of the last one that
ended stands for it (R147). -/
def State.actNote (s : State) (c : CoreId) (p : Fin 8) : State :=
  let note (st : Strm) : Strm := { st with noted := true }
  s.updStrm c p (fun q =>
    if q.run.isSome then { q with run := q.run.map note }
    else if q.list.any (fun st => !st.susp) then { q with list := inPlace q.list (fun st => !st.susp) note }
    else match q.last with | some w => { q with irq := some w } | none => q)

/-! ### User-level interrupts (R147, R148) -/

/-- The Caller enters its user-level handler for the interrupt of a port (R148). -/
def Eng.enterUi (g : Eng) (p : Nat) (w : Word) : Eng :=
  { g.swapPend with
    shadow := ((g.shadow.set 0 g.pc).set 1 w).set 2 (wordN p), pc := g.uivec &&& 0xffffffffffffc,
    uiWait := if g.atBar then g.wait else .none, wait := .none, uiseq := g.seq, tr := { g.tr with uirq := true },
    stats := g.stats.filter (fun t => !(t.shadow && t.reg.toNat ≤ 26)) }

/-- The Caller stands where it may take an interrupt (R119, R147): the shadows that the entry writes await no result of an earlier
handler any more, as for any register that is written (R304). -/
def State.mayUi (s : State) (c : CoreId) : Bool :=
  let g := s.engAt c callerId
  s.unitsRun c && g.running && !g.frozen && g.uivec.getLsbD 0 && !g.tr.uirq && !g.tr.trap && !g.aborting && g.traps.isEmpty &&
    g.sopWait.isNone && g.sopSeq.isNone && g.wait != .woken && g.uipend &&& 7 == 0

/-- USER_INTERRUPT: the lowest port's (R147). -/
def execUserInterrupt (core : CoreId) (s : State) : Res :=
  if !s.mayUi core then .next s
  else
    match (List.finRange 8).find? (fun p => (s.portAt core p).irq.isSome) with
    | none => .next s
    | some p =>
      let w := (s.portAt core p).irq.getD 0
      .next ((s.updStrm core p (fun q => { q with irq := none })).updEng core callerId (fun g => g.enterUi p.val w))

end Sys2Proof.Machine
end

