-- ==== Sys2Proof/Machine/Routing.lean ====
section
/-! DEFINITION. Expert routing: the Factors and their gate queues, dispatch, landing, generations, and combine (R218 to
R233, R447, R470, R476). -/

namespace Sys2Proof.Machine

open Sys2Proof

/-! ### Accesses of the units of a die to G, under the root of a launch (R218, R226) -/

/-- A range of addresses as pieces that no 64 KiB boundary divides. -/
def pagePieces (va : Nat) : Nat → Nat → List (Nat × Nat)
  | _, 0 => []
  | 0, _ => []
  | fuel + 1, len =>
    let n := Nat.min len (65536 - va % 65536)
    (va % 2 ^ 64, n) :: pagePieces (va + n) fuel (len - n)

/-- An access that takes uncorrectable words as they are. -/
def permRaw : Nat := 32

/-- One piece: its physical address, judged for what the access needs; or what it meets, and where. -/
def State.engPiece (s : State) (l : Launch) (need : Nat) (x : Nat × Nat) : Except (AFault × Nat) (Nat × Nat × Nat) :=
  let (va, n) := x
  match s.walkRoot l.rec_.part l.rec_.ptroot.toNat va with
  | .error f => .error (f, va)
  | .ok t =>
    match judgePage t va need with
    | .error f => .error (f, va)
    | .ok pa =>
      if devBase ≤ pa || !s.populated l.rec_.part pa n then .error (.freeze 6 pa, va)
      else if need &&& permW != 0 && s.headerHit l.rec_.part false va n then .error (.freeze 6 va, va)
      else if need &&& permRaw != 0 then .ok (va, pa, n)
      else if (need &&& permR != 0 && poisoned s.poison 32 pa n) || (need &&& permW != 0 && (poisonedWrite s.poison 32 pa n || s.followBad l.rec_.part false va pa n)) then
        .error (.trap 0x0c (poisonInfo va 0), va)
      else .ok (va, pa, n)

/-- The pieces of a range. -/
def State.engMap (s : State) (l : Launch) (need va len : Nat) : Except (AFault × Nat) (List (Nat × Nat × Nat)) :=
  (pagePieces va (len / 65536 + 2) len).mapM (s.engPiece l need)

/-- The bytes of a range that has been found. -/
def State.engGet (s : State) (ps : List (Nat × Nat × Nat)) : List Byte := ps.flatMap (fun p => s.mem.readBytes p.2.1 p.2.2)

/-- Write a range that has been found. -/
def State.engPut (s : State) (l : Launch) (ps : List (Nat × Nat × Nat)) (bs : List Byte) : State :=
  (ps.foldl (fun (x : State × List Byte) p =>
    (x.1.writeG l.rec_.part false p.1 p.2.1 (x.2.take p.2.2), x.2.drop p.2.2)) (s, bs)).1

/-- The length of the next unit of a range: at most `u` bytes, aligned, within the range (R158). -/
def unitLen (u a len : Nat) : Nat :=
  if 8 ≤ u && a % 8 = 0 && 8 ≤ len then 8 else if 4 ≤ u && a % 4 = 0 && 4 ≤ len then 4
  else if 2 ≤ u && a % 2 = 0 && 2 ≤ len then 2 else 1

/-- The units of a range, as addresses and lengths (R158). -/
def unitsOf (u : Nat) : Nat → Nat → Nat → List (Nat × Nat)
  | _, _, 0 => []
  | 0, _, _ => []
  | fuel + 1, a, len + 1 =>
    let n := unitLen u a (len + 1)
    (a, n) :: unitsOf u fuel (a + n) (len + 1 - n)

/-- What a unit of a die has read of units already: their bytes, or the units that it has still to read. -/
def readSoFar (got : List (Nat × List Byte)) (us : List (Nat × Nat)) : Except (List (Nat × Nat)) (List Byte) :=
  match us.filter (fun x => !got.any (fun y => y.1 == x.1)) with
  | [] => .ok (us.flatMap (fun x => match got.find? (fun y => y.1 == x.1) with | some y => y.2 | none => []))
  | left => .error left

/-- The units to write of a range that has been found, from its bytes. -/
def putsOf (u : Nat) (ps : List (Nat × Nat × Nat)) (bs : List Byte) : List Put :=
  (ps.foldl (fun (x : List Put × List Byte) p =>
    (x.1 ++ (unitsOf u p.2.2 p.1 p.2.2).map (fun y => { va := y.1, pa := p.2.1 + (y.1 - p.1), bytes := slice x.2 (y.1 - p.1) y.2, whole := false }),
      x.2.drop p.2.2)) ([], bs)).1

/-- Write one unit of G for a launch, with what follows it (R240). The last of units that cover a protected word makes it correctable
(R276). -/
def State.putG (s : State) (l : Launch) (p : Put) : State :=
  let t := s.writeG l.rec_.part false p.va p.pa p.bytes
  if p.whole && p.pa % 32 + p.bytes.length = 32 then { t with poison := t.poison.filter (· != p.pa / 32 * 32) } else t

/-- A unit that is to be written hits a header of a frame, which may have been allocated since the unit was judged (R239). -/
def State.putHit (s : State) (l : Launch) (p : Put) : Bool := s.headerHit l.rec_.part false p.va p.bytes.length

/-- A range that an engine would write lies in memory and hits a header of a frame (R24, R239). -/
def State.guarded (s : State) (l : Launch) (va len : Nat) : Bool :=
  s.headerHit l.rec_.part false va len && (match s.engMap l permRaw va len with | .ok _ => true | .error _ => false)

/-- The links of the line break in which an engine of a die has found uncorrectable data (R391). -/
def State.foundG (s : State) (l : Launch) (va : Nat) : State :=
  match s.engMap l permRaw va 1 with
  | .ok (x :: _) => s.breakLinks (.g x.2.1)
  | _ => s

/-- Read one unit of G for a launch: what has been read so far with it. -/
def State.getG (s : State) (l : Launch) (got : List (Nat × List Byte)) (x : Nat × Nat) :
    Except (AFault × Nat) (List (Nat × List Byte)) :=
  (s.engMap l permR (x.1 % 2 ^ 64) x.2).map (fun ps => (x.1, s.engGet ps) :: got)

/-- The instance of a launch on a core, running or parked. -/
def State.instFor (s : State) (id : Nat) (c : CoreId) : Option Bool :=
  let k := s.coreAt c
  if k.inst.live && k.inst.launch == id then some false
  else if k.parked.live && k.parked.launch == id then some true
  else none

/-- The physical place of a range of the S window of a launch's class, or the violation (R89). -/
def State.winLoc (s : State) (l : Launch) (c : CoreId) (off len : Nat) : Except AFault Loc :=
  let w := (s.coreAt c).winS l.rec_.fg
  if off + len ≤ w.2 then .ok (.s c (w.1 + off)) else .error (.freeze 7 off)

/-! ### The Factor (R218 to R220) -/

/-- RTPUSH: 32-byte aligned (R447). -/
def execRtpush (rs1 : SReg) (q : Bool) (stl : Stl) (s : State) : Res :=
  let a := s.rg rs1
  if !s.isCaller then s.illegal (.rtpush rs1 q stl)
  else if a.toNat % 32 != 0 then .next (s.trapMe 0x04 (misInfo a.toNat 32))
  else s.tqPush (.rtpush rs1 q stl) q a 0 0 stl id

/-- `rtpush` at the head of its queue: the entry goes to the gate queue of the core's die (R219). -/
def State.pushHead (s : State) (c : CoreId) (q : Fin 2) (x : TqEnt) : State :=
  let d := dieOf c
  if !s.tqMay c x 15 false || 256 ≤ s.dies[d].gate.length then s
  else
    match s.readBlock c false x.a.toNat 32 with
    | .error f => s.tqFault c q x f
    | .ok bs =>
      (s.updDie d (fun k =>
        { k with gate := k.gate ++ [{ bytes := bs, launch := (s.instAt c).launch, core := c, got := [], puts := [], served := false }] })).tqPop c q

/-- The gate weights of the chosen logits, given as values (R220). The exponentials carry 640 bits, from which the
quotient is rounded. -/
def gateWeights (ls : List FV) : List Nat :=
  let l0 := ls.headD .nan
  let es := ls.map (fun l =>
    match addFV 0 l0 (negFV l) with
    | (.fin _ m e, _) =>
      let y := (toFix false m e).toNat
      if 200 * sfuOne < y then 0 else expNegFix y
    | _ => 0)
  let tot := es.foldl (· + ·) 0
  es.map (fun e => (roundF 12 0 false (divFV (.fin false e (-sfuP)) (.fin false tot (-sfuP))).1).1)

/-- A field of a gate entry. -/
def GateEnt.n (g : GateEnt) (off len : Nat) : Nat := fieldLE g.bytes off len

/-- k and the number of experts offered. -/
def GateEnt.k (g : GateEnt) : Nat := g.n 3 1 % 8 + 1
/-- The experts offered. -/
def GateEnt.nexp (g : GateEnt) : Nat := g.n 4 2 % 4096 + 1

/-- The entry names a core of its launch and a barrier that exists. -/
def GateEnt.names (g : GateEnt) (l : Launch) : Bool := g.n 24 2 < l.rec_.w * l.rec_.h && g.n 26 1 < 64

/-- The entry is malformed (R220); a misaligned address counts as an access that faults (R124). -/
def GateEnt.bad (g : GateEnt) (l : Launch) : Bool :=
  8 ≤ g.n 3 1 || 4096 ≤ g.n 4 2 || 4 ≤ g.n 27 1 || !zeroBytes g.bytes 28 4 || g.nexp < g.k || !g.names l ||
    g.n 8 8 % 2 != 0 || g.n 16 8 % 16 != 0

/-- The records of an entry: from the logits, word 0 and word 1 of each chosen expert. -/
def GateEnt.records (g : GateEnt) (logits : List Byte) : List Byte :=
  let keys := (List.range g.nexp).map (fun i => (fieldLE logits (2 * i) 2, i))
  let top := (sortKeys (keyLt 12 16 true) keys).take g.k
  let vs := top.map (fun t => decodeF 12 t.1)
  let drop := vs.any (fun v => match v with | .fin _ _ _ => false | _ => true)
  let ws := if drop then List.replicate g.k 0 else gateWeights vs
  ((top.zip ws).zipIdx).flatMap (fun x =>
    bytesLE 8 (g.n 0 3 + x.1.1.2 * 2 ^ 24 + x.2 * 2 ^ 36 + (if drop then 2 ^ 39 else 0) + x.1.2 * 2 ^ 40) ++ bytesLE 8 (g.n 6 2))

/-- What the Factor does next for an entry: read a unit, or be done with what it had to read, the records to write being known. -/
inductive GateNext where
  | read (x : Nat × Nat)
  | write (ps : List Put)
  deriving DecidableEq, Repr

/-- Serve an entry that is not malformed: its logits are read in order, and its records go where they may be written (R218, R220). -/
def State.factorNext (s : State) (g : GateEnt) : Except (AFault × Nat) GateNext :=
  let l := s.launchAt g.launch
  match readSoFar g.got (unitsOf 2 (2 * g.nexp) (g.n 8 8) (2 * g.nexp)) with
  | .error (x :: _) => .ok (.read x)
  | .error [] => .ok (.write [])
  | .ok bs => (s.engMap l permW (g.n 16 8) (16 * g.k)).map (fun ps => .write (putsOf 8 ps (g.records bs)))

/-- Change the oldest entry of a die's gate queue. -/
def State.updGate (s : State) (d : Fin 8) (f : GateEnt → GateEnt) : State :=
  s.updDie d (fun k => { k with gate := match k.gate with | [] => [] | g :: r => f g :: r })

/-- An entry that is malformed, or whose access faults, writes nothing more: it is counted, and the supervisor told (R220). -/
def State.gateError (s : State) (d : Fin 8) (g : GateEnt) (a : Nat) : State :=
  ((s.updGate d (fun g => { g with served := true, puts := [] })).updDie d (fun k => { k with ferr := k.ferr + 1 })).notify
    { kind := 3, ecode := 0, part := (s.launchAt g.launch).rec_.part, master := masterWord 4 d.val 0, addr := wordN a }

/-- What the Factor's access meets: an error of its entry, or the freeze of the Factor, which tries again once it goes on (R24, R220,
R272, R273). -/
def State.gateFault (s : State) (d : Fin 8) (g : GateEnt) (x : AFault × Nat) : State :=
  match x.1 with
  | .freeze code addr =>
    (s.updDie d (fun k => { k with factorFrozen := true })).notifyFreeze code (s.launchAt g.launch).rec_.part (masterWord 4 d.val 0) addr
  | .trap 0x0c _ => (s.foundG (s.launchAt g.launch) x.2).gateError d g x.2
  | .trap _ _ => s.gateError d g x.2

/-- One step of the Factor on its oldest entry: a unit read, a unit written, or the arrival, in the order of its class (R218, R220). -/
def State.gateStep (s : State) (d : Fin 8) (g : GateEnt) (rest : List GateEnt) : State :=
  let l := s.launchAt g.launch
  match g.served, g.puts with
  | true, [] =>
    let s := s.updDie d (fun k => { k with gate := rest })
    if bitN (g.n 27 1) 0 && g.names l then s.arriveAt l.id (l.coreOf (g.n 24 2)) (BitVec.ofNat 6 (g.n 26 1)) else s
  | true, p :: ps =>
    if s.putHit l p then s.gateFault d g (.freeze 6 p.va, p.va) else (s.putG l p).updGate d (fun g => { g with puts := ps })
  | false, _ =>
    if g.bad l then s.gateError d g 0
    else
      match s.factorNext g with
      | .error x => s.gateFault d g x
      | .ok (.write ps) => s.updGate d (fun g => { g with served := true, puts := ps })
      | .ok (.read x) =>
        match s.getG l g.got x with
        | .error e => s.gateFault d g e
        | .ok got => s.updGate d (fun g => { g with got := got })

/-- FACTOR_GATE_ENTRY (R220): the Factor goes on with the oldest entry of a die's gate queue. -/
def execFactorGateEntry (die : Fin 8) (s : State) : Res :=
  match s.dies[die].gate with
  | [] => .next s
  | g :: rest => if s.dies[die].factorFrozen || s.hub.halted then .next s else .next (s.gateStep die g rest)

/-! ### Generations (R228, R229, R233) -/

/-- What the package keeps of a generation number. -/
def State.gen (s : State) (n : Nat) : Option Gen := s.gens.find? (fun g => g.num == n)

/-- A generation that takes rows. -/
def State.taking (s : State) (n : Nat) : Option Gen :=
  match s.gen n with
  | some g => if g.st == .free then none else some g
  | none => none

/-- Change a generation. -/
def State.updGen (s : State) (n : Nat) (f : Gen → Gen) : State :=
  { s with gens := s.gens.map (fun g => if g.num == n then f g else g) }

/-- The bitmap bits that the routing engines of a package hold in all. -/
def bitmapBits : Nat := 2097152

/-- The bits that a generation's bitmap takes. -/
def Gen.bits (g : Gen) : Nat := if g.bitmap.isSome then 64 * g.nrow else 0

/-- Reclaim the bitmaps of free generations, in the order in which they became free, until `need` bits are left. -/
def reclaim (need : Nat) : Nat → List Gen → List Gen
  | 0, gs => gs
  | fuel + 1, gs =>
    if (gs.map Gen.bits).foldl (· + ·) 0 + need ≤ bitmapBits then gs
    else
      let frees := gs.filter (fun g => g.st == .free && g.bitmap.isSome)
      match frees.foldl (fun (b : Option Gen) g =>
          match b with | none => some g | some x => some (if g.freed < x.freed then g else x)) none with
      | none => gs
      | some o => reclaim need fuel (gs.map (fun g => if g.num == o.num then { g with bitmap := none } else g))

/-- RGEN_OPEN (R447): the generation is held in c, nrow in a, the base in b of its entry. -/
def execRgenOpen (rn rs1 rs2 : SReg) (q : Bool) (stl : Stl) (s : State) : Res :=
  let i : Instr := .rgenOpen rn rs1 rs2 q stl
  let n := (s.rg rn).toNat
  let g := s.rg rs1
  let b := s.rg rs2
  if !s.isCaller || n = 0 || 2048 < n || 2 ^ 16 ≤ g.toNat then s.illegal i
  else if b.toNat % 16 != 0 then .next (s.trapMe 0x04 (misInfo b.toNat 16))
  else s.tqPush i q (wordN n) b g stl id

/-- RGEN_RETIRE (R447). -/
def execRgenRetire (rs1 : SReg) (q : Bool) (stl : Stl) (s : State) : Res :=
  let g := s.rg rs1
  if !s.isCaller || 2 ^ 16 ≤ g.toNat then s.illegal (.rgenRetire rs1 q stl)
  else s.tqPush (.rgenRetire rs1 q stl) q 0 0 g stl id

/-- `rgen.open` at the head (R228, R233). -/
def State.openHead (s : State) (c : CoreId) (q : Fin 2) (x : TqEnt) : State :=
  let n := x.c.toNat
  let nrow := x.a.toNat
  if !s.tqMay c x 15 false then s
  else if (s.taking n).isSome then s.tqTrap c q x 0x13 (wordN (9 * 256))
  else
    let others := reclaim (64 * nrow) (s.gens.length + 1) (s.gens.filter (fun g => g.num != n))
    -- the number stays free if the space is lacking, its own last opening and what has been reclaimed apart
    if bitmapBits < (others.map Gen.bits).foldl (· + ·) 0 + 64 * nrow then
      ({ s with gens := (s.gens.filter (fun g => g.num == n)).map (fun g => { g with bitmap := none }) ++ others } : State).tqTrap c q x 0x13
        (wordN (15 * 256))
    else
      let g : Gen :=
        { num := n, st := .opened, base := x.b.toNat, nrow := nrow, launch := (s.instAt c).launch, freed := 0, bitmap := some 0,
          drained := 0, marked := 0 }
      ({ s with gens := g :: others } : State).tqPop c q

/-- A command of a kind with a block concerns a generation. -/
def blockConcerns (kind : Nat) (blk : List Byte) (n : Nat) : Bool :=
  if kind = 0 then fieldLE blk 6 2 == n else fieldLE blk 6 2 == n || fieldLE blk 8 2 == n

/-- A command in a routing engine concerns a generation. -/
def RouteCmd.concerns (k : RouteCmd) (n : Nat) : Bool := blockConcerns k.kind k.blk n

/-- A queued command of an instance of a launch on a core concerns a generation, by its block as it stands in S. -/
def State.queuedConcerns (s : State) (c : CoreId) (l : Launch) (x : TqEnt) (n : Nat) : Bool :=
  let kind : Option Nat := match x.cmd with
    | .rdisp _ _ _ => some 0
    | .rcombPart _ _ _ => some 1
    | .rcombFin _ _ _ => some 2
    | _ => none
  match kind with
  | none => false
  | some k =>
    match s.winLoc l c x.a.toNat 128 with
    | .ok p => blockConcerns k (s.readLoc p 128) n
    | .error _ => false

/-- Some command of a generation has been issued and stands in a tile queue yet: of another core, or of core `c` before `seq`. -/
def State.issuedOf (s : State) (c : CoreId) (seq n : Nat) : Bool :=
  (List.finRange 320).any (fun d =>
    let k := s.coreAt d
    [k.inst, k.parked].any (fun i => i.live && i.tqs.any (fun t => t.ents.any (fun x =>
      (d != c || decide (x.seq < seq)) && s.queuedConcerns d (s.launchAt i.launch) x n))))

/-- Send the drain marker of a generation on every live port whose earlier data frames of class 5 have been sent (R229). The
generation stands in the sequence number of the marker (log 24). -/
def State.sendMarkers (s : State) (n : Nat) : State :=
  (List.finRange 32).foldl (fun s p =>
    let b := s.ports[p]
    let k := b.cls[(5 : Fin 8)]
    let sent := match s.gen n with | some g => g.marked.getLsbD p.val | none => true
    if b.live && !sent && k.frames.all (·.sent) then
      (s.updGen n (fun g => { g with marked := g.marked ||| BitVec.ofNat 32 (2 ^ p.val) })).emit p
        (frameHead 4 5 0xffff s.hub.pkg.toNat n k.ackNo 0)
    else s) s

/-- `rgen.retire` at the head (R228, R229): it waits for the commands of its generation, which stays open for them, then makes it
retiring, sends the markers, and completes when one has arrived on every live port and the rows that came before have been judged. -/
def State.retireHead (s : State) (c : CoreId) (q : Fin 2) (x : TqEnt) : State :=
  let n := x.c.toNat
  if !x.begun then
    if !s.tqMay c x 15 false then s
    else
      match s.gen n with
      | some g =>
        if g.st == .opened then
          s.updTqHead c q (fun y => { y with begun := true })
        else s.tqTrap c q x 0x13 (wordN (9 * 256))
      | none => s.tqTrap c q x 0x13 (wordN (9 * 256))
  else if x.prog = 0 then
    if s.dies.any (fun d => d.route.any (fun k => k.concerns n)) || s.issuedOf c x.seq n then s
    else if (s.gen n).any (fun g => g.st == .opened) then
      (s.updGen n (fun g => { g with st := .retiring })).updTqHead c q (fun y => { y with prog := 1 })
    else s.tqTrap c q x 0x13 (wordN (9 * 256))
  else
    let s := s.sendMarkers n
    match s.gen n with
    | none => s.tqPop c q
    | some g =>
      if s.rows.all (fun r => r.gen != n) && (List.finRange 32).all (fun p => !s.ports[p].live || (g.drained.getLsbD p.val && g.marked.getLsbD p.val)) then
        ({ (s.updGen n (fun g => { g with st := .free, freed := s.genCtr })) with genCtr := s.genCtr + 1 } : State).tqPop c q
      else s

/-- DRAIN_MARKER_ARRIVAL: a frame like any other for R35, and on a frozen port too, which refuses data frames only (R229, R273). -/
def execDrainMarkerArrival (port : Fin 32) (gen : BitVec 16) (s : State) : Res :=
  if s.ports[port].live then
    .next ((s.heard port).updGen gen.toNat (fun g =>
      if g.st == .free then g else { g with drained := g.drained ||| BitVec.ofNat 32 (2 ^ port.val) }))
  else .next s

/-! ### Commands of the routing engine (R222, R230, R427) -/

/-- Issue of a command whose block is aligned to 128 bytes. -/
def State.issueBlk (s : State) (i : Instr) (rs1 : SReg) (q : Bool) (stl : Stl) : Res :=
  let a := s.rg rs1
  if !s.isCaller then s.illegal i
  else if a.toNat % 128 != 0 then .next (s.trapMe 0x04 (misInfo a.toNat 128))
  else s.tqPush i q a 0 0 stl id

/-- RDISP (R447). -/
def execRdisp (rs1 : SReg) (q : Bool) (stl : Stl) (s : State) : Res := s.issueBlk (.rdisp rs1 q stl) rs1 q stl
/-- RCOMB_PART (R447). -/
def execRcombPart (rs1 : SReg) (q : Bool) (stl : Stl) (s : State) : Res := s.issueBlk (.rcombPart rs1 q stl) rs1 q stl
/-- RCOMB_FIN (R447). -/
def execRcombFin (rs1 : SReg) (q : Bool) (stl : Stl) (s : State) : Res := s.issueBlk (.rcombFin rs1 q stl) rs1 q stl

/-- A command at the head of its queue is accepted by the routing engine of its die, which holds 32: its block is read, and
it begins under the block's class (R170, R222, R427). Uncorrectable data in the block is error code 3. -/
def State.routeHead (s : State) (c : CoreId) (q : Fin 2) (x : TqEnt) (kind : Nat) : State :=
  let d := dieOf c
  if 32 ≤ s.dies[d].route.length then s
  else
    let take (bs : List Byte) (code : Nat) : State :=
      let k : RouteCmd :=
        { kind := kind, blk := bs, off := x.a.toNat, core := c, launch := (s.instAt c).launch, stage := if code = 0 then 0 else 2,
          r := 0, table := [], counts := [], ndrop := 0, ents := [], code := code, faddr := 0, got := [], puts := [] }
      (s.updDie d (fun y => { y with route := y.route ++ [k] })).tqPop c q
    match s.readBlock c false x.a.toNat 128 with
    | .error (.trap _ _) => take (List.replicate 128 0) 3
    | .error f => s.tqFault c q x f
    | .ok bs => if s.tqMay c x (fieldLE bs 68 1 % 16) false then take bs 0 else s

/-- A field of the block. -/
def RouteCmd.n (k : RouteCmd) (off len : Nat) : Nat := fieldLE k.blk off len

/-- What a command meets in one step of its work: among it units of G, or of S, that it has still to read. -/
inductive RouteStop where
  | wait
  | read (us : List (Nat × Nat))
  | err (code faddr : Nat)
  | freeze (code addr : Nat)
  /-- uncorrectable data at a place: error code 3, and the links of its line break (R391) -/
  | poison (l : Loc)
  deriving DecidableEq, Repr

/-- What an access of a command under the root of a launch makes of what it meets (R142, R225, R276). -/
def State.routeFault (s : State) (l : Launch) (x : AFault × Nat) : RouteStop :=
  match x.1 with
  | .trap 5 _ => .err 2 x.2
  | .trap _ _ => (match s.engMap l permRaw x.2 1 with | .ok (p :: _) => .poison (.g p.2.1) | _ => .err 3 0)
  | .freeze code addr => .freeze code addr

/-- Lift the outcome of an access. -/
def State.routed {α : Type} (s : State) (l : Launch) (x : Except (AFault × Nat) α) : Except RouteStop α :=
  match x with
  | .ok a => .ok a
  | .error e => .error (s.routeFault l e)

/-- What both blocks refuse: c, k, the barrier, the flags, the class, the reserved bytes (R222, R476). -/
def RouteCmd.tailBad (k : RouteCmd) : Bool :=
  k.n 64 1 = 0 || 16 < k.n 64 1 || k.n 65 1 = 0 || 8 < k.n 65 1 || 63 < k.n 66 1 || 32 ≤ k.n 67 1 || 15 < k.n 68 1 ||
    !zeroBytes k.blk 69 43

/-- A dispatch block is malformed (R476). -/
def RouteCmd.dispBad (k : RouteCmd) : Bool :=
  k.tailBad || k.n 0 4 = 0 || 0xffffff < k.n 0 4 || k.n 0 4 % k.n 65 1 != 0 || k.n 4 2 = 0 || 4096 < k.n 4 2 ||
    k.n 8 8 % 16 != 0 || k.n 40 8 % 8 != 0 || k.n 48 8 % 8 != 0 || k.n 56 8 % 4 != 0 || k.n 32 8 % 8 != 0

/-- The format of a combine's operand rows or results. -/
def RouteCmd.cfmt (k : RouteCmd) : Nat := if k.kind = 1 then k.n 12 1 else k.n 13 1
/-- Its bytes. -/
def RouteCmd.cb (k : RouteCmd) : Nat := if k.cfmt = 12 then 2 else 4

/-- A combine block is malformed (R230, R476). -/
def RouteCmd.combBad (k : RouteCmd) : Bool :=
  let fmtOk (f : Nat) : Bool := f == 12 || f == 13
  k.tailBad || k.n 0 4 = 0 || 0xffffff < k.n 0 4 || k.n 10 2 = 0 || 16384 < k.n 10 2 || !fmtOk (k.n 12 1) || !fmtOk (k.n 13 1) ||
    k.n 14 2 != 0 || k.n 48 8 % 8 != 0 || k.n 16 8 % k.cb != 0

/-- Bytes of the S window of the command's issuer, as error 3 where they hold uncorrectable data. -/
def State.routeS (s : State) (k : RouteCmd) (off len : Nat) : Except RouteStop (List Byte) :=
  match s.winLoc (s.launchAt k.launch) k.core off len with
  | .error (.freeze code addr) => .error (.freeze code addr)
  | .error _ => .error (.err 3 0)
  | .ok l => if s.badRead l len then .error (.poison l) else .ok (s.readLoc l len)

/-- Bytes of G for a command, in units of at most `u` bytes, as far as they have been read. -/
def RouteCmd.readG (k : RouteCmd) (u va len : Nat) : Except RouteStop (List Byte) :=
  match readSoFar k.got (unitsOf u len (va % 2 ^ 64) len) with
  | .ok bs => .ok bs
  | .error us => .error (.read us)

/-- What is added to an offset of S to name a unit that a command reads. -/
def keyS : Nat := 2 ^ 66

/-- What is added to an address that a command reads under the root of the launch that opened its generation. -/
def keyO : Nat := 2 ^ 67

/-- Bytes of the issuer's S for a command, in units of 8. -/
def RouteCmd.readS (k : RouteCmd) (off len : Nat) : Except RouteStop (List Byte) :=
  match readSoFar k.got (unitsOf 8 len (keyS + off) len) with
  | .ok bs => .ok bs
  | .error us => .error (.read us)

/-- Bytes of G of the launch that opened a generation, its landing array or its combine rows (R226, R231). -/
def RouteCmd.readO (k : RouteCmd) (u va len : Nat) : Except RouteStop (List Byte) :=
  match readSoFar k.got (unitsOf u len (keyO + va % 2 ^ 64) len) with
  | .ok bs => .ok bs
  | .error us => .error (.read us)

/-- The launch that opened the generation whose array a combine reads. -/
def State.openerOf (s : State) (k : RouteCmd) : Launch :=
  match s.gen (k.n (if k.kind = 1 then 6 else 8) 2) with
  | some g => s.launchAt g.launch
  | none => blankLaunch

/-- A command reads one of the units that it needs. -/
def State.routeRead (s : State) (k : RouteCmd) (x : Nat × Nat) : Except RouteStop RouteCmd :=
  if keyO ≤ x.1 then (s.routed (s.openerOf k) (s.getG (s.openerOf k) k.got x)).map (fun got => { k with got := got })
  else if keyS ≤ x.1 then (s.routeS k (x.1 - keyS) x.2).map (fun bs => { k with got := (x.1, bs) :: k.got })
  else (s.routed (s.launchAt k.launch) (s.getG (s.launchAt k.launch) k.got x)).map (fun got => { k with got := got })

/-- A command has done with a record: what it read for it is forgotten, and its writes wait. -/
def RouteCmd.put (k : RouteCmd) (ps : List Put) : RouteCmd := { k with got := [], puts := k.puts ++ ps }

/-- A placement entry is malformed (R476). -/
def placeBad (w : Nat) : Bool := bitsOf w 63 56 != 0 || 2048 < bitsOf w 55 44

/-- A dispatch begins: its block, its generation, its placement table (R222, R225, R476). -/
def State.dispBegin (s : State) (k : RouteCmd) : Except RouteStop RouteCmd :=
  if k.dispBad then .error (.err 1 0)
  else if !(match s.gen (k.n 6 2) with | some g => g.st == .opened | none => false) then .error (.err 9 0)
  else
    match k.readS (k.n 32 8) (8 * k.n 4 2) with
    | .error x => .error x
    | .ok bs =>
      let ws := (List.range (k.n 4 2)).map (fun e => fieldLE bs (8 * e) 8)
      if ws.any placeBad then .error (.err 1 0)
      else .ok ({ k with stage := 1, table := ws, counts := List.replicate (k.n 4 2) 0 }.put [])

/-- The ports of a launch's partition that may carry a frame. -/
def State.livePorts (s : State) (l : Launch) : List (Fin 32) :=
  (List.finRange 32).filter (fun p =>
    s.ports[p].live && (match s.partDef l.rec_.part with | some d => d.ports.getLsbD p.val | none => false))

/-- The most bytes of a combine row that one frame carries. -/
def combinePiece : Nat := 8064

/-- The pieces of a row that the frames carry: of a combine row as much as a frame holds, of a token row the whole. -/
def Row.pieces (r : Row) : List Row :=
  if r.combine then
    (List.range (ceilDiv r.data.length combinePiece)).map (fun i =>
      { r with off := combinePiece * i, data := (r.data.drop (combinePiece * i)).take combinePiece })
  else [r]

/-- The payload of a frame of class 5: a first beat that says what the row is, and the data (log 24). -/
def Row.payload (r : Row) : List Byte :=
  let head := bytesLE 1 (if r.combine then 1 else 0) ++ bytesLE 1 r.chunks ++ bytesLE 2 (if r.scales.isEmpty then 0 else 1) ++
    bytesLE 2 r.gen ++ bytesLE 2 r.core ++ bytesLE 8 r.word0.toNat ++ bytesLE 4 r.xbase ++ bytesLE 4 0 ++ bytesLE 8 r.drow ++
    bytesLE 4 r.off ++ bytesLE 4 r.total ++ bytesLE 4 r.data.length ++ List.replicate 20 0
  let body := r.data ++ r.scales
  head ++ body ++ List.replicate ((64 - body.length % 64) % 64) 0

/-- A row leaves for another package on a live port, which is free to choose: data frames of class 5 (log 24). -/
def State.sendRow (s : State) (l : Launch) (dpkg : Nat) (die : Nat) (r : Row) : Except RouteStop State :=
  match s.livePorts l with
  | [] => .error (.err 5 0)
  | p :: ps =>
    let (n, s) := s.free
    let port := (p :: ps).getD (Config.number n % (ps.length + 1)) p
    .ok (r.pieces.foldl (fun s x => s.queueFrame port 5 (BitVec.ofNat 16 dpkg) x.payload die) s)

/-- A token row goes to the place that its placement entry names (R223 to R225). -/
def State.sendToken (s : State) (die : Nat) (k : RouteCmd) (l : Launch) (pe drow : Nat) (w0 : Word) :
    Except RouteStop State := do
  let c := k.n 64 1
  let tok := fieldW w0 23 0
  let core := bitsOf pe 27 12
  let xb := bitsOf pe 32 28
  let home := bitsOf pe 11 0 == s.hub.pkg.toNat
  if 32 < xb + c * (drow / 64) + c then throw (.err 8 0)
  if home && l.rec_.w * l.rec_.h ≤ core then throw (.err 8 0)
  if home && (s.instFor l.id (l.coreOf core)).isNone then throw .wait
  let data ← k.readG 8 (k.n 16 8 + 256 * c * tok) (256 * c)
  let scales ← if k.n 24 8 = 0 then pure [] else k.readG 8 (k.n 24 8 + 64 * c * tok) (64 * c)
  let r : Row :=
    { die := die, port := none, beats := 0, combine := false, gen := k.n 6 2, launch := l.id, core := core, xbase := xb, drow := drow,
      spkg := s.hub.pkg.toNat % 4096, word0 := w0, chunks := c, off := 0, total := data.length, data := data, scales := scales,
      landing := false, got := [], puts := [], xputs := [] }
  if home then return { s with rows := s.rows ++ [r] } else s.sendRow l (bitsOf pe 11 0) die r

/-- A reserved bit of a routing record is set (R6, R221). -/
def recordBad (w0 w1 : Word) : Bool := fieldW w0 63 57 != 0 || fieldW w1 31 29 != 0

/-- One record of a dispatch (R223). One that is malformed is acted on in no field, and ends the command in error with the code of a
malformed block, as no chapter names another (R6; log 90). -/
def State.dispRecord (s : State) (die : Nat) (k : RouteCmd) : Except RouteStop (State × RouteCmd) := do
  let l := s.launchAt k.launch
  let mr ← s.routed l (s.engMap l (permR + permW) ((k.n 8 8 + 16 * k.r) % 2 ^ 64) 16)
  let bs ← k.readG 8 (k.n 8 8 + 16 * k.r) 16
  let w0 := wordN (fieldLE bs 0 8)
  let w1 := wordN (fieldLE bs 8 8)
  if recordBad w0 w1 then throw (.err 1 0)
  let e := fieldW w0 35 24
  if k.n 4 2 ≤ e then throw (.err 14 0)
  let pe := k.table.getD e 0
  let fdrop := w0.getLsbD 39 && !w0.getLsbD 56
  let n := k.counts.getD e 0
  let mi ← s.routed l (s.engMap l permW ((k.n 48 8 + 8 * k.r) % 2 ^ 64) 8)
  let count : List Nat := if fdrop then k.counts else k.counts.set e (n + 1)
  if !fdrop && n < bitsOf pe 55 44 then
    let d := bitsOf pe 43 33 + n
    let w0 := w0 &&& ~~~ wordN (2 ^ 39 + 2 ^ 56)
    let w1 := putField (putField w1 63 32 d) 27 16 (bitsOf pe 11 0)
    let t ← s.sendToken die k l pe d w0
    return (t, { k with r := k.r + 1, counts := count }.put
      (putsOf 8 mr (bytesLE 8 w0.toNat ++ bytesLE 8 w1.toNat) ++ putsOf 8 mi (bytesLE 8 w1.toNat)))
  else
    let w0 := putField (w0 ||| wordN (2 ^ 39)) 56 56 (if fdrop then 0 else 1)
    let w1 := putField w1 63 32 0xffffffff
    let md ← s.routed l (s.engMap l permW ((k.n 40 8 + 8 + 8 * k.ndrop) % 2 ^ 64) 8)
    return (s, { k with r := k.r + 1, counts := count, ndrop := k.ndrop + 1 }.put
      (putsOf 8 mr (bytesLE 8 w0.toNat ++ bytesLE 8 w1.toNat) ++ putsOf 8 md (bytesLE 8 w0.toNat) ++
        putsOf 8 mi (bytesLE 8 w1.toNat)))

/-- SEG of a thread as R225 loads it: running sums of the rows of the experts on the issuing core. -/
def RouteCmd.segs (k : RouteCmd) (lidx pkg : Nat) : Vector Word 64 :=
  let ms := (k.table.zip k.counts).filterMap (fun x =>
    if bitsOf x.1 27 12 = lidx && bitsOf x.1 11 0 = pkg then some (Nat.min x.2 (bitsOf x.1 55 44)) else none)
  Vector.ofFn (fun j => wordN ((ms.take j.val).foldl (· + ·) 0))

/-- The counts, the count of the dropped list, and SEG of a dispatch that has ended (R223, R225). -/
def State.dispCounts (s : State) (k : RouteCmd) : Except RouteStop (State × RouteCmd) := do
  let l := s.launchAt k.launch
  if k.kind != 0 || k.table.isEmpty then return (s, k)
  let mc ← s.routed l (s.engMap l permW (k.n 56 8) (4 * k.n 4 2))
  let md ← s.routed l (s.engMap l permW (k.n 40 8) 8)
  let k := k.put (putsOf 4 mc (k.counts.flatMap (bytesLE 4)) ++ putsOf 8 md (bytesLE 8 k.ndrop))
  if !bitN (k.n 67 1) 2 then return (s, k)
  match s.instFor l.id k.core with
  | none => return (s, k)
  | some parked =>
    return (s.updInstP k.core parked (fun n =>
      n.updEng (threadId (k.n 67 1 / 8 % 4)) (fun g =>
        { g with v := { g.v with seg := k.segs (n.lx + l.rec_.w * n.ly) s.hub.pkg.toNat } })), k)

/-! ### Combine (R230 to R233, R470) -/

/-- A combine begins (R231, R232). -/
def State.combBegin (s : State) (k : RouteCmd) : Except RouteStop RouteCmd := do
  if k.combBad then throw (.err 1 0)
  if k.kind = 1 then
    match s.gen (k.n 6 2) with
    | none => throw (.err 9 0)
    | some _ => return { k with stage := 1 }
  else
    match s.gen (k.n 8 2) with
    | none => throw (.err 9 0)
    | some g =>
      if g.st != .free then throw (.err 9 0)
      match g.bitmap with
      | none => throw (.err 16 0)
      | some m =>
        let n := k.n 0 4
        let kk := k.n 65 1
        let inv ← k.readG 8 (k.n 48 8) (8 * kk * n)
        if (List.range (kk * n)).any (fun i => bitsOf (fieldLE inv (8 * i) 8) 31 29 != 0) then throw (.err 1 0)
        let leads (t : Nat) : List Nat :=
          ((List.range kk).foldl (fun (acc : List Nat × List Nat) j =>
            let w := fieldLE inv (8 * (kk * t + j)) 8
            if bitsOf w 63 32 = 0xffffffff || acc.2.contains (bitsOf w 27 16) then acc
            else (acc.1 ++ [j], bitsOf w 27 16 :: acc.2)) ([], [])).1
        let all := (List.range n).map leads
        if (all.zipIdx).any (fun x => x.1.any (fun j => !m.testBit (kk * x.2 + j))) then throw (.err 10 0)
        return { k with stage := 1, table := all.map (fun (js : List Nat) => js.foldl (fun b j => b ||| 1 <<< j) 0) }.put []

/-- `rcomb.part` reads the landed entries of its next expert, and their output rows (R231); an entry with a reserved bit set is
malformed (R6; log 90). -/
def State.partExpert (s : State) (k : RouteCmd) : Except RouteStop RouteCmd := do
  match s.gen (k.n 6 2) with
  | none => throw (.err 9 0)
  | some g =>
    let e := k.n 4 2 + k.r
    let bs ← k.readO 8 (g.base + 16 * g.nrow * e) (16 * g.nrow)
    let rowLen := k.cb * k.n 10 2
    let here := (List.range g.nrow).filter (fun d =>
        let w := fieldLE bs (16 * d + 8) 8
        bitN w 28 && w % 65536 == g.num)
    if here.any (fun d => recordBad (wordN (fieldLE bs (16 * d) 8)) (wordN (fieldLE bs (16 * d + 8) 8))) then throw (.err 1 0)
    let found ← here.mapM (fun d => do
      let w0 := fieldLE bs (16 * d) 8
      let row ← k.readG k.cb (k.n 16 8 + rowLen * (g.nrow * e + d)) rowLen
      return ({ spkg := bitsOf (fieldLE bs (16 * d + 8) 8) 27 16, token := bitsOf w0 23 0, kslot := bitsOf w0 38 36, expert := e,
                weight := bitsOf w0 55 40, row := row } : Landed))
    return { k with r := k.r + 1, ents := k.ents ++ found }.put []

/-- The weighted sum of a group, in ascending k-slot (R231): its lead, and the bytes of its row. -/
def combineRow (fmt ncol : Nat) (es : List Landed) : Nat × List Byte :=
  let b := if fmt = 12 then 2 else 4
  let es := es.foldr (fun x acc => acc.takeWhile (fun y => y.kslot < x.kslot) ++ x :: acc.dropWhile (fun y => y.kslot < x.kslot)) []
  let elem (j : Nat) : Nat :=
    es.foldl (fun acc x =>
      (roundF 13 0 false (addFV 0 (decodeF 13 acc)
        (mulFV (decodeF 12 x.weight) (decodeF fmt (fieldLE x.row (b * j) b))).1).1).1) 0
  ((es.map (·.kslot)).headD 0, (List.range ncol).flatMap (fun j => bytesLE 4 (elem j)))

/-- `rcomb.part` has read all of its experts: it sends one combine row for each source package and token (R231). -/
def State.partSend (s : State) (die : Nat) (k : RouteCmd) : Except RouteStop State :=
  let l := s.launchAt k.launch
  let keys := k.ents.foldl (fun (acc : List (Nat × Nat)) x =>
    if acc.contains (x.spkg, x.token) then acc else acc ++ [(x.spkg, x.token)]) []
  keys.foldlM (fun s key =>
    let (m, bs) := combineRow (k.n 12 1) (k.n 10 2) (k.ents.filter (fun x => x.spkg == key.1 && x.token == key.2))
    let r : Row :=
      { die := die, port := none, beats := 0, combine := true, gen := k.n 8 2, launch := l.id, core := 0, xbase := 0, drow := k.n 65 1 * key.2 + m,
        spkg := s.hub.pkg.toNat % 4096, word0 := 0, chunks := 0, off := 0, total := bs.length, data := bs, scales := [],
        landing := false, got := [], puts := [], xputs := [] }
    if key.1 = s.hub.pkg.toNat then .ok ({ s with rows := s.rows ++ [r] } : State)
    else
      s.sendRow l key.1 die r) s

/-- `rcomb.fin` forms the row of its next token (R232, R470). -/
def State.finToken (s : State) (k : RouteCmd) : Except RouteStop (State × RouteCmd) := do
  match s.gen (k.n 8 2) with
  | none => throw (.err 9 0)
  | some g =>
    let l := s.launchAt k.launch
    let ncol := k.n 10 2
    let rows ← (bitsIn (k.table.getD k.r 0) 8).mapM (fun m =>
      k.readO 4 (g.base + 4 * ncol * (k.n 65 1 * k.r + m)) (4 * ncol))
    let elem (j : Nat) : Nat :=
      let acc := rows.foldl (fun acc row =>
        (roundF 13 0 false (addFV 0 (decodeF 13 acc) (decodeF 13 (fieldLE row (4 * j) 4))).1).1) 0
      if k.cfmt = 13 then acc else (roundF 12 0 false (decodeF 13 acc)).1
    let ps ← s.routed l (s.engMap l permW ((k.n 16 8 + ncol * k.cb * k.r) % 2 ^ 64) (ncol * k.cb))
    return (s, { k with r := k.r + 1 }.put (putsOf k.cb ps ((List.range ncol).flatMap (fun j => bytesLE k.cb (elem j)))))

/-! ### The engine (R225) -/

/-- Change the oldest command of a die's routing engine. -/
def State.updRoute (s : State) (d : Fin 8) (f : RouteCmd → RouteCmd) : State :=
  s.updDie d (fun y => { y with route := match y.route with | [] => [] | k :: r => f k :: r })

/-- The next piece of work of a command that has not ended. -/
def State.routeWork (s : State) (die : Nat) (k : RouteCmd) : Except RouteStop (State × RouteCmd) := do
  if k.stage = 0 then
    let k ← if k.kind = 0 then s.dispBegin k else s.combBegin k
    return (s, k)
  else if k.n 0 4 ≤ k.r then
    let s ← if k.kind = 1 then s.partSend die k else pure s
    return (s, { k with stage := 2 })
  else if k.kind = 0 then s.dispRecord die k
  else if k.kind = 1 then
    let k ← s.partExpert k
    return (s, k)
  else s.finToken k

/-- Every row that a die's command has sent has landed or been refused here, or has been acknowledged (R225). -/
def State.rowsDone (s : State) (d : Nat) : Bool :=
  s.rows.all (fun r => r.die != d) && s.ports.all (fun b => b.cls[(5 : Fin 8)].frames.all (fun f => f.die != d))

/-- The status word, faddr, and the arrival of a command that has ended (R225, R470). One whose block is malformed by a reserved field
arrives too, on the barrier that the block names: R476 ends it under R225, and R6 has it act on no field (log 90). -/
def State.routeReport (s : State) (d : Fin 8) (k : RouteCmd) : State :=
  let l := s.launchAt k.launch
  let put (s : State) (o : Nat) (v : Nat) : State :=
    match s.winLoc l k.core (k.off + o) 8 with
    | .ok x => s.writeLoc x (bytesLE 8 v)
    | .error _ => s
  let s := put s 112 ((if k.code = 0 then 1 else 3) * 2 ^ 62 + k.code % 64 * 2 ^ 56 + k.n 0 4 % 2 ^ 24 * 2 ^ 32 + k.r % 2 ^ 32)
  let s := if k.code = 2 then put s 120 k.faddr else s
  let s := if bitN (k.n 67 1) 0 && k.n 66 1 < 64 then s.arriveAt l.id k.core (BitVec.ofNat 6 (k.n 66 1)) else s
  s.updDie d (fun y => { y with route := y.route.drop 1 })

/-- The routing engine of a die freezes (R24, R89, R272). -/
def State.routeFreeze (s : State) (d : Fin 8) (k : RouteCmd) (code addr : Nat) : State :=
  (s.updDie d (fun y => { y with routeFrozen := true })).notifyFreeze code (s.launchAt k.launch).rec_.part (masterWord 3 d.val 0) addr

/-- A command ends in error; one that has ended already keeps the code that it has (R225). -/
def RouteCmd.fail (k : RouteCmd) (code a : Nat) : RouteCmd :=
  if k.stage < 2 then { k with stage := 2, code := code, faddr := a, got := [] }
  else if k.code = 0 then { k with stage := 3, code := code, faddr := a } else { k with stage := 3 }

/-- What a command meets: it reads one of the units that it needs, of any order, or it ends, or the engine freezes (R171). -/
def State.routeMeets (s : State) (d : Fin 8) (k : RouteCmd) (x : RouteStop) : State :=
  match x with
  | .wait => s
  | .err code a => s.updRoute d (fun k => k.fail code a)
  | .freeze code addr => s.routeFreeze d k code addr
  | .poison l => (s.breakLinks l).updRoute d (fun k => k.fail 3 0)
  | .read us =>
    let (u, s) := s.anyOf us
    match u with
    | none => s
    | some u =>
      match s.routeRead k u with
      | .ok k => s.updRoute d (fun _ => k)
      | .error (.err code a) => s.updRoute d (fun k => k.fail code a)
      | .error (.freeze code addr) => s.routeFreeze d k code addr
      | .error (.poison l) => (s.breakLinks l).updRoute d (fun k => k.fail 3 0)
      | .error _ => s

/-- The engine goes on with its oldest command. -/
def State.routeOn (s : State) (d : Fin 8) (k : RouteCmd) : State :=
  if k.stage = 3 then (if k.puts.isEmpty && s.rowsDone d.val then s.routeReport d k else s)
  else if k.stage = 2 then
    match s.dispCounts k with
    | .ok (t, k) => t.updRoute d (fun _ => { k with stage := 3 })
    | .error x => s.routeMeets d k x
  else
    match s.routeWork d.val k with
    | .ok (t, k) => t.updRoute d (fun _ => k)
    | .error x => s.routeMeets d k x

/-- One step of a die's routing engine on its oldest command: a unit that waits is written, or the command goes on (R161, R171). -/
def State.routeStep (s : State) (d : Fin 8) : State :=
  match s.dies[d].route with
  | [] => s
  | k :: rest =>
    if s.dies[d].routeFrozen || s.hub.halted then s
    else if (s.instFor k.launch k.core).isNone then s.updDie d (fun y => { y with route := rest })
    else
      let (a, s) := s.anyOf (none :: (List.range k.puts.length).map some)
      match a with
      | some (some n) =>
        (match k.puts[n]? with
        | some p =>
          let l := s.launchAt k.launch
          if s.putHit l p then s.routeFreeze d k 6 p.va else (s.putG l p).updRoute d (fun k => { k with puts := removeAt k.puts n })
        | none => s)
      | _ => s.routeOn d k

/-! ### Arrivals (R226, R227, R231, R233) -/

/-- A row is dropped, and the partition supervisor is told (R226, R233). -/
def State.refuseRow (s : State) (d : Fin 8) (r : Row) (addr : Nat) : State :=
  (s.updDie d (fun y => { y with refused := y.refused + 1 })).notify
    { kind := 2, ecode := 0, part := (s.launchAt r.launch).rec_.part, master := masterWord 3 d.val 0, addr := wordN addr }

/-- The X rows that a token row goes to, as slot numbers of the destination's window. -/
def Row.slots (r : Row) : List Nat := (List.range r.chunks).map (fun i => r.xbase + r.chunks * (r.drow / 64) + i)

/-- A token row may be written: every slot lies in the window and is claimed, and no X row of it holds uncorrectable data. -/
def State.rowFits (s : State) (c : CoreId) (parked : Bool) (r : Row) : Bool :=
  let k := s.coreAt c
  let w := k.winX (s.launchAt r.launch).rec_.fg
  r.slots.all (fun x =>
    x < w.2 && ((k.inst? parked).xslot x).claimed &&
      !poisoned (k.bufX.bad blkS) 8 (xPhys w.1 (0x4000 * x + 256 * (r.drow % 64))) 256 &&
      (r.scales.isEmpty || !poisoned (k.bufX.bad blkS) 8 (xPhys w.1 (0x80000 + 0x1000 * x + 64 * (r.drow % 64))) 64))

/-- Change the `n`-th row on its way. -/
def State.updRow (s : State) (n : Nat) (f : Row → Row) : State :=
  { s with rows := match s.rows[n]? with | some r => setAt s.rows n (f r) | none => s.rows }

/-- The `n`-th row has been dealt with: the receive space that it held falls free (R34). -/
def State.endRow (s : State) (n : Nat) : State :=
  let t : State := { s with rows := removeAt s.rows n }
  match s.rows[n]? with
  | none => s
  | some r => match r.port with | some p => if r.beats = 0 then t else t.freeBeats p 5 r.beats | none => t

/-- A row is refused, and is gone. -/
def State.refuseAt (s : State) (n : Nat) (d : Fin 8) (r : Row) (addr : Nat) : State := (s.refuseRow d r addr).endRow n

/-- The routing engine that takes a row freezes: a write of the row would hit a header of a frame (R24, R239, R272). -/
def State.rowFreeze (s : State) (d : Fin 8) (l : Launch) (va : Nat) : State :=
  (s.updDie d (fun y => { y with routeFrozen := true })).notifyFreeze 6 l.rec_.part (masterWord 3 d.val 0) va

/-- One unit of a row that lands is written, in any order; with the last the row has landed, and the bit of a combine row is set
(R161, R171, R233). -/
def State.rowPut (s : State) (n : Nat) (d : Fin 8) (r : Row) : State :=
  let opener := match s.gen r.gen with | some g => s.launchAt g.launch | none => blankLaunch
  let (i, s) := s.anyOf (List.range (r.puts.length + r.xputs.length))
  match i with
  | none =>
    (if r.combine then s.updGen r.gen (fun g => { g with bitmap := g.bitmap.map (fun m => m ||| 1 <<< r.drow) }) else s).endRow n
  | some i =>
    match r.puts[i]? with
    | some p => if s.putHit opener p then s.rowFreeze d opener p.va else (s.putG opener p).updRow n (fun r => { r with puts := removeAt r.puts i })
    | none =>
      let s := s.updRow n (fun r => { r with xputs := removeAt r.xputs (i - r.puts.length) })
      let c := (s.launchAt r.launch).coreOf r.core
      match s.instFor r.launch c, r.xputs[i - r.puts.length]? with
      | some parked, some x => s.writeX c parked (s.launchAt r.launch).rec_.fg x.1 x.2
      | _, _ => s

/-- The units that a token row's chunks and scale rows are written as: X offsets with their bytes (R224). -/
def Row.xUnits (r : Row) : List (Nat × List Byte) :=
  let units (off : Nat) (bs : List Byte) : List (Nat × List Byte) :=
    (unitsOf 8 bs.length off bs.length).map (fun u => (u.1, slice bs (u.1 - off) u.2))
  (r.slots.zipIdx).flatMap (fun x =>
    units (0x4000 * x.1 + 256 * (r.drow % 64)) (slice r.data (256 * x.2) 256) ++
      (if r.scales.isEmpty then [] else units (0x80000 + 0x1000 * x.1 + 64 * (r.drow % 64)) (slice r.scales (64 * x.2) 64)))

/-- The landing entry of a token row: its place in the landing array. -/
def Row.entryAt (r : Row) (g : Gen) : Nat := 16 * (g.nrow * fieldW r.word0 35 24 + r.drow)

/-- Another row is being judged against the same landing entry, or lands there: the two are taken one after the other (R227). -/
def State.entryTaken (s : State) (n : Nat) (g : Gen) (r : Row) : Bool :=
  (s.rows.zipIdx).any (fun x =>
    x.2 != n && !x.1.combine && x.1.gen == r.gen && x.1.entryAt g == r.entryAt g && (x.1.landing || !x.1.got.isEmpty))

/-- A token row is judged against its landing entry as it has been read, and lands (R226). An entry with a reserved bit set is acted on in no
field, and R226 names no outcome for it: the row is refused, as for an entry that cannot be read (R6; log 90). -/
def State.judgeToken (s : State) (n : Nat) (d : Fin 8) (g : Gen) (r : Row) (ps : List (Nat × Nat × Nat)) (old : List Byte) : State :=
  let o0 := wordN (fieldLE old 0 8)
  let o1 := wordN (fieldLE old 8 8)
  let ident := wordN (2 ^ 24 - 1 + 7 * 2 ^ 36)
  if recordBad o0 o1 then s.refuseAt n d r (g.base + r.entryAt g)
  else if o1.getLsbD 28 && fieldW o1 15 0 == g.num then
    if (o0 &&& ident) == (r.word0 &&& ident) && fieldW o1 27 16 == r.spkg then
      (s.updDie d (fun y => { y with dup := y.dup + 1 })).endRow n
    else
      ((s.updDie d (fun y => { y with conflict := y.conflict + 1 })).notify
        { kind := 2, ecode := 0, part := (s.launchAt r.launch).rec_.part, master := masterWord 3 d.val 0,
          addr := wordN (g.base + r.entryAt g) }).endRow n
  else
    s.updRow n (fun r => { r with
      landing := true, got := [], xputs := r.xUnits,
      puts := putsOf 8 ps (bytesLE 8 r.word0.toNat ++ bytesLE 8 (r.drow * 2 ^ 32 + 2 ^ 28 + r.spkg % 4096 * 2 ^ 16 + g.num)) })

/-- A token row has arrived for a generation that is open or retiring: it is refused, or its landing entry is read, a unit a step, and
the row judged (R226). -/
def State.landToken (s : State) (n : Nat) (d : Fin 8) (c : CoreId) (g : Gen) (r : Row) : State :=
  let a := g.base + r.entryAt g
  let opener := s.launchAt g.launch
  match s.instFor r.launch c with
  | none => s.refuseAt n d r a
  | some parked =>
    if g.nrow ≤ r.drow || !s.rowFits c parked r then s.refuseAt n d r a
    else if s.entryTaken n g r then s
    else if s.guarded opener (a % 2 ^ 64) 16 then s.rowFreeze d opener a
    else
      match s.engMap opener (permR + permW) (a % 2 ^ 64) 16 with
      | .error _ => s.refuseAt n d r a
      | .ok ps =>
        match readSoFar r.got (unitsOf 8 16 (a % 2 ^ 64) 16) with
        | .ok old => s.judgeToken n d g r ps old
        | .error us =>
          let (u, s) := s.anyOf us
          match u with
          | none => s
          | some u =>
            match s.getG opener r.got u with
            | .error _ => s.refuseAt n d r a
            | .ok got => s.updRow n (fun r => { r with got := got })

/-- A row of no generation that takes rows (R226, R233). -/
def State.staleRow (s : State) (n : Nat) (d : Fin 8) : State := (s.updDie d (fun y => { y with stale := y.stale + 1 })).endRow n

/-- ROW_ARRIVAL (R226, R227): the `n`-th row on its way, if it is a token row, is judged or goes on landing. -/
def execRowArrival (n : Nat) (s : State) : Res :=
  match s.rows[n]? with
  | none => .next s
  | some r =>
    let c := (s.launchAt r.launch).coreOf r.core
    let d := dieOf c
    if r.combine || s.dies[d].routeFrozen || s.hub.halted then .next s
    else if r.landing then .next (s.rowPut n d r)
    else
      match s.taking r.gen with
      | none => .next (s.staleRow n d)
      | some g => .next (s.landToken n d c g r)

/-- A combine row that has come whole is refused, or lands (R231, R233). -/
def State.landCombine (s : State) (n : Nat) (d : Fin 8) (g : Gen) (r : Row) : State :=
  let a := g.base + r.total * r.drow
  if 64 * g.nrow ≤ r.drow then s.refuseAt n d r a
  else if s.guarded (s.launchAt g.launch) (a % 2 ^ 64) r.data.length then s.rowFreeze d (s.launchAt g.launch) a
  else
    match s.engMap (s.launchAt g.launch) permW (a % 2 ^ 64) r.data.length with
    | .error _ => s.refuseAt n d r a
    | .ok ps =>
      if ps.any (fun p => poisoned s.poison 32 p.2.1 p.2.2) then s.refuseAt n d r a
      else s.updRow n (fun r => { r with landing := true, puts := putsOf 4 ps r.data })

/-- A later piece of a combine row joins what has come of it by the same port (R231). -/
def State.joinPiece (s : State) (n : Nat) (r : Row) : State :=
  match (s.rows.zipIdx).find? (fun x =>
      x.1.combine && x.1.port == r.port && x.1.gen == r.gen && x.1.spkg == r.spkg && x.1.drow == r.drow && x.1.total == r.total &&
        x.1.off == 0 && x.1.data.length == r.off && !x.1.landing) with
  | none => s
  | some x => (s.updRow x.2 (fun y => { y with data := y.data ++ r.data })).endRow n

/-- What has come of a combine row waits for the rest in the routing engine, and holds no receive space there (R34). -/
def State.holdPiece (s : State) (n : Nat) (r : Row) : State :=
  match r.port with
  | some p => if r.beats = 0 then s else (s.updRow n (fun r => { r with beats := 0 })).freeBeats p 5 r.beats
  | none => s

/-- COMBINE_ROW_ARRIVAL (R233): the `n`-th row on its way, if it is a combine row, is put together, judged, or goes on landing. The
die that takes a row from another package is free (log 24). -/
def execCombineRowArrival (n : Nat) (s : State) : Res :=
  match s.rows[n]? with
  | none => .next s
  | some r =>
    let (k, t) := s.free
    let d : Fin 8 := if r.die < 8 then Fin.ofNat 8 r.die else Fin.ofNat 8 (Config.number k)
    if !r.combine || s.dies[d].routeFrozen || s.hub.halted then .next s
    else if r.landing then .next (t.rowPut n d r)
    else if 0 < r.off then .next (t.joinPiece n r)
    else if r.data.length < r.total then .next (t.holdPiece n r)
    else
      match s.taking r.gen with
      | none => .next (t.staleRow n d)
      | some g => .next (t.landCombine n d g r)

/-- The row that a data frame of class 5 carries (log 24). -/
def parseRow (s : State) (spkg : Nat) (bs : List Byte) : Row :=
  let n (o l : Nat) : Nat := fieldLE bs o l
  let combine := n 0 1 == 1
  let data := (bs.drop 64).take (n 40 4)
  { die := 8, port := none, beats := 0, combine := combine, gen := n 4 2, launch := match s.gen (n 4 2) with | some g => g.launch | none => 0,
    core := n 6 2, xbase := n 16 4, drow := n 24 8, spkg := spkg % 4096, word0 := wordN (n 8 8), chunks := n 1 1, off := n 32 4,
    total := n 36 4, data := data, scales := if n 2 2 = 1 then ((bs.drop 64).drop (n 40 4)).take (64 * n 1 1) else [],
    landing := false, got := [], puts := [], xputs := [] }

end Sys2Proof.Machine
end

