-- ==== Sys2Proof/Machine/Link.lean ====
section
/-! DEFINITION. The Birotte ports: coming up, frames in and out, acknowledgements, credit, resending, keep-alives, and a peer
that goes down (R29 to R37, R53, R71, R273). -/

namespace Sys2Proof.Machine

open Sys2Proof

/-! ### Sequence numbers and timers (R32 to R35) -/

/-- One number is later than another (R34). -/
def later (a b : BitVec 32) : Bool := a != b && (a - b).toNat < 2 ^ 31

/-- The beats of a frame. -/
def TxFrame.beats (f : TxFrame) : Nat := f.payload.length / 64

/-- A number of microseconds in ck (R2). -/
def usec (n : Nat) : Nat := 850 * n

/-- The beats of receive space of a class (log 29). -/
def rxSpace : Nat := 1024

/-! ### Sending (R32 to R36) -/

/-- Send an acknowledgement (R32). It has no number of its own: the model sends 0 (log 82). -/
def State.sendAck (s : State) (p : Fin 32) (c : Fin 8) (dpkg : Nat) : State :=
  s.emit p (frameHead 1 c.val dpkg s.hub.pkg.toNat 0 (s.ports[p].cls[c]).ackNo 0)

/-- Send a data frame, or send it again. -/
def State.sendData (s : State) (p : Fin 32) (c : Fin 8) (f : TxFrame) : State :=
  s.emit p (frameHead 0 c.val f.dpkg.toNat s.hub.pkg.toNat f.seq.toNat (s.ports[p].cls[c]).ackNo 0 ++ f.payload)

/-- DATA_FRAME_SEND (R33): the next frame that has not been sent, when the credit covers it. -/
def execDataFrameSend (port : Fin 32) (cls : Fin 8) (s : State) : Res :=
  let b := s.ports[port]
  let k := b.cls[cls]
  if !b.live || b.frozen || s.hub.halted then .next s
  else
    match k.frames.find? (fun f => !f.sent) with
    | none => .next s
    | some f =>
      if k.credit < f.beats || 2 ^ 20 ≤ (k.frames.filter (·.sent)).length then .next s
      else
        .next ((s.updCls port cls (fun k =>
          { k with credit := k.credit - f.beats, frames := k.frames.map (fun x =>
              if x.seq == f.seq then { x with sent := true, sentAt := s.clk } else x) })).sendData port cls f)

/-- RESEND_TIMEOUT (R32): no acknowledgement has covered the oldest frame for 20 µs; it and every later one are sent
again. -/
def execResendTimeout (port : Fin 32) (cls : Fin 8) (s : State) : Res :=
  let b := s.ports[port]
  match b.cls[cls].frames.head? with
  | none => .next s
  | some f =>
    if !b.live || b.frozen || s.hub.halted || !f.sent || s.clk < f.sentAt + usec 20 then .next s
    else
      let again := b.cls[cls].frames.filter (·.sent)
      let s := again.foldl (fun s f => s.sendData port cls f) s
      .next (s.updCls port cls (fun k =>
        { k with frames := k.frames.map (fun x => if x.sent then { x with sentAt := s.clk } else x) }))

/-- The keep-alive of a port: a frame of class 0, with that class's ack field, to package number 0xffff (R30, R35; log 82). -/
def State.keepAlive (s : State) (p : Fin 32) : State :=
  s.emit p (frameHead 3 0 0xffff s.hub.pkg.toNat 0 (s.ports[p].cls[(0 : Fin 8)]).ackNo 0)

/-- KEEP_ALIVE (R35): every 10 µs. -/
def execKeepAlive (port : Fin 32) (s : State) : Res :=
  let b := s.ports[port]
  if !b.live || s.clk < b.lastKa + usec 10 then .next s
  else
    .next ((s.updPort port (fun b => { b with lastKa := s.clk })).keepAlive port)

/-! ### Receiving (R31 to R37) -/

/-- A malformed frame is counted, and nothing else happens (R31). -/
def State.countBad (s : State) (p : Fin 32) : State := s.updPort p (fun b => { b with malformed := b.malformed + 1 })

/-- What an ack field says: the frames up to that number have arrived (R32). -/
def State.acked (s : State) (p : Fin 32) (c : Fin 8) (ack : BitVec 32) : State :=
  s.updCls p c (fun k =>
    { k with
      frames := k.frames.filter (fun f => !f.sent || later f.seq ack),
      past := k.past ++ (k.frames.filter (fun f => f.sent && !later f.seq ack)).map (fun f => (f.seq, f.beats)) })

/-- The beats of the data frames that a class has sent with a number later than another, acknowledged or not (R33). -/
def TClass.beatsAfter (k : TClass) (ack : BitVec 32) : Nat :=
  (((k.frames.filter (fun f => f.sent && later f.seq ack)).map TxFrame.beats) ++
    ((k.past.filter (fun x => later x.1 ack)).map (·.2))).foldl (· + ·) 0

/-- The boot runs, so that boot messages are taken (R53). -/
def Hub.booting (h : Hub) : Bool := h.boot != .running

/-- A row that arrives on a port after the port's drain marker for its generation is of no generation that takes rows (R229). -/
def State.lateRow (s : State) (p : Fin 32) (r : Row) : Row :=
  if (s.gen r.gen).any (fun g => g.drained.getLsbD p.val) then { r with gen := 2 ^ 16 } else r

/-- The payload of a data frame in sequence reaches what its class is for: rows the routing engines, requests the runtime, boot
messages the boot, which while it does not run still counts those that break the table (R53, R71, R224, R231). What is kept
takes receive space until it has been dealt with; every other frame leaves its space free at once (R34). -/
def State.deliverFrame (s : State) (p : Fin 32) (f : FrameIn) : State :=
  let n := f.payload.length / 64
  let keep (s : State) : State := s.updCls p f.cls (fun k => { k with space := k.space - n })
  if f.cls = 5 then keep { s with rows := s.rows ++ [{ s.lateRow p (parseRow s f.spkg f.payload) with port := some p, beats := n }] }
  else if f.cls = 6 && n = 2 then keep (s.updPort p (fun b => { b with reqs := b.reqs ++ [(f.spkg, f.payload)] }))
  else if f.cls = 7 && s.hub.booting then keep (s.updPort p (fun b => { b with boots := b.boots ++ [f.payload] }))
  else
    let s := if f.cls = 7 && bootBad f.payload then s.countBad p else s
    s.sendGrant p f.cls

/-- A data frame: delivered if it is the next in sequence, and acknowledged either way (R32). -/
def State.recvData (s : State) (p : Fin 32) (f : FrameIn) : State :=
  let s := s.heard p
  if s.hub.halted || s.ports[p].frozen then s
  else if f.dpkg != s.hub.pkg then s.updPort p (fun b => { b with misdirected := b.misdirected + 1 })
  else
    let s := s.acked p f.cls f.ack
    let s :=
      if f.seq == s.ports[p].cls[f.cls].rx then
        (s.updCls p f.cls (fun k => { k with rx := k.rx + 1, got := true })).deliverFrame p f
      else s
    s.sendAck p f.cls f.spkg

/-- Take a frame on a port that is up: malformed, or of a type. -/
def State.recvFrame (s : State) (p : Fin 32) (ty : Nat) (bs : List Byte) (act : State → FrameIn → State) : Res :=
  if !s.ports[p].up || s.ports[p].retired then .next s
  else
    match parseFrame (s.etype p) bs with
    | none => .next (s.countBad p)
    | some f => if f.ty = ty then .next (act s f) else .next s

/-- DATA_FRAME_RECEIVE (R31, R32, R36, R37). -/
def execDataFrameReceive (port : Fin 32) (frame : List Byte) (s : State) : Res :=
  s.recvFrame port 0 frame (fun s f => s.recvData port f)

/-- ACKNOWLEDGEMENT (R32). -/
def execAcknowledgement (port : Fin 32) (frame : List Byte) (s : State) : Res :=
  s.recvFrame port 1 frame (fun s f => (s.heard port).acked port f.cls f.ack)

/-- CREDIT_GRANT (R33). -/
def execCreditGrant (port : Fin 32) (frame : List Byte) (s : State) : Res :=
  s.recvFrame port 2 frame (fun s f =>
    let s := (s.heard port).acked port f.cls f.ack
    s.updCls port f.cls (fun k =>
      { k with credit := f.credit - k.beatsAfter f.ack, past := k.past.filter (fun x => later x.1 f.ack) }))

/-- KEEP_ALIVE_RECEIPT (R35); while the package is halted the Porter answers it and repeats the last grants (R36). -/
def execKeepAliveReceipt (port : Fin 32) (s : State) : Res :=
  let b := s.ports[port]
  if !b.up || b.retired then .next s
  else
    let s := s.heard port
    if s.hub.halted then
      .next ((s.keepAlive port).sendGrants port)
    else .next s

/-- The partition of a port, 0xff for none. -/
def State.portPart (s : State) (p : Fin 32) : Nat :=
  ((List.range 16).find? (fun i => match s.partDef i with | some d => d.ports.getLsbD p.val | none => false)).getD 0xff

/-- PEER_DOWN (R35): no frame for 80 µs. Requests and boot messages that had arrived and that nothing has taken go with the port's state
(log 98). -/
def execPeerDown (port : Fin 32) (s : State) : Res :=
  let b := s.ports[port]
  if !b.live || s.clk < b.lastRx + usec 80 then .next s
  else
    .next (((s.loseRows port).updPort port (fun b =>
      { b with peerDown := true, cls := Vector.replicate 8 TClass.reset, reqs := [], boots := [] })).notify
        { kind := 4, ecode := 0, part := s.portPart port, master := masterWord 5 port.val 0, addr := 0 })

end Sys2Proof.Machine
end

