-- ==== Sys2Proof/Machine/Boot.lean ====
section
/-! DEFINITION. The configuration record, signed images, and the boot of hub die 0 (R43 to R55, R63 to R65). -/

namespace Sys2Proof.Machine

open Sys2Proof

/-! ### Records and images (R46, R47, R49, R50) -/

/-- The length of a configuration record. -/
def recLen : Nat := 1104

/-- A key's hash is the root's, or an owner's of a stored record (R47, R50). -/
def keyAllowed (stored : Option (List Byte)) (key : List Byte) : Bool :=
  let h := keyHash key
  let owners := match stored with
    | some r => ((List.range 4).map (fun i => cut r (8 + 32 * i) 32)).filter (fun (o : List Byte) => o.any (· != 0))
    | none => []
  h == Config.rootKeyHash || owners.contains h

/-- A record has the form of R46, is newer than a version, and is signed by its signer (R47). -/
def recordGood (version : Nat) (r : List Byte) : Bool :=
  r.length == recLen && cut r 0 4 == [0x56, 0x58, 0x43, 0x52] && zeroBytes r 140 4 && zeroBytes r 396 4 &&
    decide (version < fieldLE r 4 4) && verifyP256 (cut r 976 64) (cut r 0 1040) (cut r 1040 64)

/-- A record is accepted in place of the stored one (R47). -/
def recordOk (stored : Option (List Byte)) (r : List Byte) : Bool :=
  recordGood (match stored with | some x => fieldLE x 4 4 | none => 0) r && keyAllowed stored (cut r 976 64)

/-- A record passes the checks against the root key, with a version that counts as the stored one (R51, R54). -/
def recordRoot (version : Nat) (r : List Byte) : Bool :=
  recordGood version r && keyHash (cut r 976 64) == Config.rootKeyHash

/-- The payload bytes that an image's header names. -/
def imageSize (img : List Byte) : Nat := fieldLE img 8 4

/-- An image is valid for a type: its header, signer, signature, digest and security version (R49, R50). -/
def imageOk (stored : Option (List Byte)) (ty : Nat) (img : List Byte) : Bool :=
  let size := imageSize img
  let minSvn := match stored with | some r => fieldLE r (if ty = 1 then 136 else 138) 2 | none => 0
  img.length == 256 + size && cut img 0 4 == [0x56, 0x58, 0x49, 0x4d] && fieldLE img 4 2 == ty && size % 64 == 0 &&
    decide (size ≤ if ty = 1 then 0x100000 else 0x10000000) && fieldLE img 12 4 % 4 == 0 && decide (fieldLE img 12 4 < size) &&
    zeroBytes img 176 80 && keyAllowed stored (cut img 48 64) && verifyP256 (cut img 48 64) (cut img 0 112) (cut img 112 64) &&
    sha256 (img.drop 256) == cut img 16 32 && decide (minSvn ≤ fieldLE img 6 2)

/-- Extend a measurement (R55). -/
def Hub.extend (h : Hub) (n : Fin 4) (d : List Byte) : Hub := { h with meas := h.meas.set n.val (sha256 (h.meas[n] ++ d)) n.isLt }

/-- The boot firmware slot that is selected, or the other. -/
def Hub.slot (h : Hub) (b : Bool) : Option (List Byte) := if b then h.slotB else h.slotA

/-- A slot is marked valid (R63) and holds boot firmware that passes the check (R50, R51). -/
def Hub.slotOk (h : Hub) (b : Bool) : Bool :=
  (if b then h.validB else h.validA) && match h.slot b with | some img => imageOk h.record 1 img | none => false

/-! ### Boot messages (R52, R53) -/

/-- A boot message: its header of 64 bytes, the data, and zeros up to a whole beat. -/
def bootMsg (kind itype offset : Nat) (data : List Byte) (status : Nat) (ident : List Byte) : List Byte :=
  [0x56, 0x58, 0x42, 0x54] ++ bytesLE 1 kind ++ bytesLE 1 itype ++ [0, 0] ++ bytesLE 8 offset ++ bytesLE 4 data.length ++
    bytesLE 4 status ++ slice ident 0 32 ++ List.replicate 8 0 ++ data ++ List.replicate ((64 - data.length % 64) % 64) 0

/-- Queue a boot message on a port, to package number 0xffff (log 31). -/
def State.sendBoot (s : State) (p : Fin 32) (kind itype offset : Nat) (data : List Byte) (status : Nat) : State :=
  s.queueFrame p 7 0xffff (bootMsg kind itype offset data status s.hub.ident) 8

/-- The ports that have trained. -/
def State.upPorts (s : State) : List (Fin 32) := (List.finRange 32).filter (fun p => s.ports[p].live)

/-- A boot status, on every port that has trained (R53; log 31). -/
def State.bootStatus (s : State) (step what : Nat) : State :=
  s.upPorts.foldl (fun s p => s.sendBoot p 5 0 0 [] (step + 256 * what)) s

/-! ### Training (R34, R51, R53, R54) -/

/-- A pass of training and fetching begins at the lowest port (R51). -/
def State.trainAnew (s : State) : State := { s with hub := { s.hub with trained := 0, fetchAt := s.clk } }

/-- A port may train now. At step 5 the boot firmware trains the ports in ascending order; at step 4 the boot ROM does, once both
slots have failed; in recovery and in enrolment, which wait for an offer on a port, it does too (log 87); and later a port trains
whenever it will (R34, R51). -/
def State.mayTrain (s : State) (p : Fin 32) : Bool :=
  match s.hub.boot with
  | .step n => (n == 5 && decide (s.hub.trained ≤ p.val)) || (n == 4 && !s.hub.slotOk false && !s.hub.slotOk true)
  | .fetch ty _ _ => ty == 1 || decide (s.hub.trained ≤ p.val)
  | _ => true

/-- The boot status of a device that has stopped in recovery at a step: the record rejected, or the PUF's failure (R51, R53). -/
def recoveryWhat (step : Nat) : Nat := if step = 1 then 1 else 2

/-- PORT_COME_UP (R34): every class starts anew, less the space that rows still hold, and grants are sent. A port that trained
before its peer went down trains again at any time (R34). A device in recovery tells the peer so (R53; log 87). -/
def execPortComeUp (port : Fin 32) (s : State) : Res :=
  let b := s.ports[port]
  if b.retired || b.live || !(b.up || s.mayTrain port) then .next s
  else
    let k : TClass := { TClass.reset with space := rxSpace }
    -- space that rows of class 5 still hold (R34)
    let held := ((s.rows.filter (fun r => r.port == some port)).map (fun r => r.beats)).foldl (· + ·) 0
    let cls := (Vector.replicate 8 k).set 5 { k with space := rxSpace - held }
    let s := s.updPort port (fun b =>
      { b with up := true, peerDown := false, lastRx := s.clk, lastKa := s.clk, cls := cls, reqs := [], boots := [] })
    let s := ({ s with hub := { s.hub with trained := Nat.max s.hub.trained (port.val + 1) } } : State).sendGrants port
    match s.hub.boot with
    | .recovery n => .next (s.sendBoot port 5 0 0 [] (n + 256 * recoveryWhat n))
    | _ => .next s

/-! ### Where the boot stands -/

/-- Where the boot goes. -/
def State.bootAt (s : State) (b : BootSt) : State := { s with hub := { s.hub with boot := b, progressAt := s.clk } }

/-- The boot enters a step of R51, and says so (R53). -/
def State.enterStep (s : State) (n : Nat) : State := (s.trainAnew.bootAt (.step n)).bootStatus n 0

/-- The boot stops in recovery at a step (R51). -/
def State.recover (s : State) (step : Nat) : State := (s.bootAt (.recovery step)).bootStatus step (recoveryWhat step)

/-- Ask a port for the next bytes of an image (R53). -/
def State.askImage (s : State) (itype : Nat) (data : List Byte) (p : Fin 32) : State :=
  (s.bootAt (.fetch itype data p)).sendBoot p 1 itype data.length [] 0

/-- Begin to fetch an image from the lowest port that has trained; with none the boot waits (R51, R53). The ports go on training where
they stand. -/
def State.fetchImage (s : State) (itype : Nat) : State :=
  match s.upPorts with
  | p :: _ => ({ s with hub := { s.hub with fetchAt := s.clk } } : State).askImage itype [] p
  | [] => s

/-- Step 5 has not brought an image for 30 s: a failure, which a status reports, and training and fetching begin again at the lowest port
(R51, R53). No code of the status names it: the model sends 0 (log 99). -/
def State.fetchAgain (s : State) : State := (((s.bootStatus 5 0).trainAnew).bootAt (.step 5)).fetchImage 2

/-! ### The steps (R44, R51, R54) -/

/-- The device key of a seed enters the key store (R44). -/
def Hub.setKey (h : Hub) (seed : List Byte) : Hub :=
  let d := deviceKey seed
  { h with devPriv := d, devPub := pubOf d }

/-- The device identity stands once step 2 has succeeded (R44, R53). -/
def Hub.setIdent (h : Hub) : Hub := { h with ident := keyHash h.devPub }

/-- Step 1: the record is missing or blank and the device enrols, or it fails, or the boot goes on (R51, R54). R47's test of the
version has no stored record to be greater than here: the model takes 0, as R51 does in recovery (log 80). -/
def State.bootRecord (s : State) : State :=
  let h := s.hub
  let blank := match h.record with | none => true | some r => zeroBytes r 400 512
  if blank then
    let h := h.setKey (Config.enrolSeed h.resets)
    ({ s with hub := { h with blank := true, helper := Config.enrolHelper h.resets } } : State).bootAt .enrol
  else
    let r := h.record.getD []
    if !recordRoot 0 r then s.recover 1
    else
      ({ s with hub := { h.extend 0 (sha256 r) with blank := false, helper := cut r 400 512 } } : State).enterStep 2

/-- Step 2: the device key, and its certificate by the root (R44, R51). -/
def State.bootKey (s : State) : State :=
  let r := s.hub.record.getD []
  match Config.pufSeed s.hub.helper s.hub.resets with
  | none => s.recover 2
  | some seed =>
    let h := s.hub.setKey seed
    if verifyP256 (cut r 976 64) h.devPub (cut r 912 64) then ({ s with hub := h.setIdent } : State).enterStep 3
    else s.recover 2

/-- Step 3: the record's retirements (R46, R51). -/
def State.bootRepair (s : State) : State :=
  let r := s.hub.record.getD []
  let bit (off n : Nat) : Bool := bitN (fieldLE r (off + n / 8) 1) (n % 8)
  let lanes (c : Nat) : BitVec 4 := BitVec.ofNat 4 (fieldLE r (184 + c / 2) 1 / 16 ^ (c % 2))
  let s : State := { s with
    cores := s.cores.mapIdx (fun (c : Nat) (k : Core) =>
      { k with retired := k.retired || bit 144 c || lanes c == 0xf, lanesOut := k.lanesOut ||| lanes c }),
    ports := s.ports.mapIdx (fun (p : Nat) (b : BPort) => if bit 392 p then { b with retired := true } else b),
    chanOut := s.chanOut ||| BitVec.ofNat 384 (fieldLE r 344 48) }
  s.enterStep 4

/-- The boot firmware of a slot runs. -/
def State.runSlot (s : State) (b : Bool) : State :=
  let img := (s.hub.slot b).getD []
  ({ s with hub := s.hub.extend 1 (cut img 16 32) } : State).enterStep 5

/-- Step 4: the selected slot, then the other, then boot firmware from a port (R51); each slot that fails is a failure that a
status reports (R53). -/
def State.bootFirmware (s : State) : State :=
  if s.hub.slotOk s.hub.selB then s.runSlot s.hub.selB
  else
    let s := s.bootStatus 4 3
    if s.hub.slotOk (!s.hub.selB) then s.runSlot (!s.hub.selB) else (s.bootStatus 4 3).fetchImage 1

/-- Step 5: the runtime image, one held for this restart or one from a port (R51, R70). -/
def State.bootRuntime (s : State) : State :=
  match s.hub.rtNext with
  | some img => ({ s with hub := { s.hub with rtImage := some img, rtNext := none } } : State).enterStep 6
  | none => s.fetchImage 2

/-- Step 6: the runtime image is checked and runs, or is fetched again (R51). The first start since the reset of hub die 0
decides whether the PCIe port is enabled, by whether its link has trained; no later start does (R28). -/
def State.bootEnter (s : State) : State :=
  let img := s.hub.rtImage.getD []
  if imageOk s.hub.record 2 img then
    let h := s.hub
    let s : State := { s with hub := { h.extend 2 (cut img 16 32) with
      mboxOn := if h.ran then h.mboxOn else h.pcie, ran := true } }
    { s.bootAt .running with mbox := { s.mbox with st := 1 } }
  else ((s.bootStatus 6 3).bootAt (.step 5)).bootStatus 5 0

/-- A record whose write has begun stands in the flash, and the boot starts again (R47, R51, R54). -/
def State.rewritten (s : State) : Option State :=
  match s.hub.boot, s.hub.recNew with
  | .recovery _, some r => some (({ s with hub := { s.hub with record := some r, recNew := none } } : State).enterStep 1)
  | .enrol, some r => some (({ s with hub := { s.hub with record := some r, recNew := none } } : State).enterStep 1)
  | _, _ => none

/-- BOOT_SEQUENCE: the next step of R51. -/
def execBootSequence (s : State) : Res :=
  if s.hub.halted then .next s
  else
  match s.rewritten with
  | some t => .next t
  | none =>
    match s.hub.boot with
    | .step 1 => .next s.bootRecord
    | .step 2 => .next s.bootKey
    | .step 3 => .next s.bootRepair
    | .step 4 => .next s.bootFirmware
    | .step 5 => .next s.bootRuntime
    | .step 6 => .next s.bootEnter
    | _ => .next s

/-- The ck of a second. -/
def second : Nat := 850000000

/-- ENROLMENT_REPORT: every second, on every port that has trained (R54). -/
def execEnrolmentReport (s : State) : Res :=
  if s.hub.boot != .enrol || s.hub.halted || s.clk < s.hub.progressAt + second then .next s
  else
    let t := s.upPorts.foldl (fun t p => t.sendBoot p 3 0 0 (s.hub.devPub ++ slice s.hub.helper 0 512) 0) s
    .next { t with hub := { t.hub with progressAt := t.clk } }

/-- BOOT_REQUEST_RETRY: after 1 ms without progress the request goes to the next live port (R53). -/
def execBootRequestRetry (s : State) : Res :=
  match s.hub.boot with
  | .fetch ty data p =>
    if s.hub.halted || s.clk < s.hub.progressAt + usec 1000 then .next s
    else
      (match (s.upPorts.filter (fun q => p < q)) ++ s.upPorts with
      | q :: _ => .next (s.askImage ty data q)
      | [] => .next s)
  | _ => .next s

/-- BOOT_FETCH_RETRY: every 30 s the fetch of the runtime image begins again from the lowest port, also one that still makes progress
(R51; log 99). -/
def execBootFetchRetry (s : State) : Res :=
  match s.hub.boot with
  | .fetch 2 _ _ => if s.hub.halted || s.clk < s.hub.fetchAt + 30 * second then .next s else .next s.fetchAgain
  | .step 5 => if s.hub.halted || s.clk < s.hub.fetchAt + 30 * second then .next s else .next s.fetchAgain
  | _ => .next s

/-! ### What the device takes (R53) -/

/-- A boot message that has arrived on a port leaves its queue, and its space falls free; not while the package is halted
(R282). -/
def State.takeBoot (s : State) (p : Fin 32) : Option (List Byte × State) :=
  match s.ports[p].boots with
  | [] => none
  | m :: rest => if s.hub.halted then none else some (m, (s.updPort p (fun b => { b with boots := rest })).freeBeats p 7 (m.length / 64))

/-- An image that has arrived whole goes where it belongs (R50, R51). -/
def State.imageDone (s : State) (ty : Nat) (img : List Byte) : State :=
  if ty = 1 then
    if imageOk s.hub.record 1 img then ({ s with hub := s.hub.extend 1 (cut img 16 32) } : State).enterStep 5
    else (s.bootStatus 4 3).fetchImage 1
  else ({ s with hub := { s.hub with rtImage := some img } } : State).enterStep 6

/-- IMAGE_DATA: data at the next offset of the image that is being fetched (R53). -/
def execImageData (port : Fin 32) (s : State) : Res :=
  match s.takeBoot port with
  | none => .next s
  | some (m, t) =>
    if bootBad m then .next (t.countBad port)
    else if fieldLE m 4 1 != 2 then .next s
    else
      match s.hub.boot with
      | .fetch ty data p =>
        if fieldLE m 5 1 != ty || fieldLE m 8 8 != data.length then .next t
        else
          let data := data ++ cut m 64 (fieldLE m 16 4)
          if 256 ≤ data.length && 256 + imageSize data ≤ data.length then .next (t.imageDone ty (data.take (256 + imageSize data)))
          else .next (t.askImage ty data p)
      | _ => .next t

/-- RECORD_OFFER: a record offered to a device in recovery, where the stored version counts as 0, or in enrolment, where it is
the stored record's (R47, R51, R53, R54). A rejection reports the step at which the boot stands. -/
def execRecordOffer (port : Fin 32) (s : State) : Res :=
  match s.takeBoot port with
  | none => .next s
  | some (m, t) =>
    if bootBad m then .next (t.countBad port)
    else if fieldLE m 4 1 != 4 then .next s
    else
      let r := cut m 64 (fieldLE m 16 4)
      let write (t : State) : State := { t with hub := { t.hub with recNew := some r } }
      let version := match s.hub.record with | some x => fieldLE x 4 4 | none => 0
      match s.hub.boot with
      | .recovery n => if recordRoot 0 r then .next (write t) else .next (t.bootStatus n 1)
      | .enrol =>
        if recordRoot version r && cut r 400 512 == slice s.hub.helper 0 512 then .next (write t) else .next (t.bootStatus 1 1)
      | _ => .next t

/-! ### Firmware update (R63 to R65) -/

/-- The system cores alone reset and boot the selected slot (R64). -/
def State.switchOver (s : State) (b : Bool) (at_ : Option Nat) : State :=
  let h := s.hub
  ({ s with
    hub := { h with prevSel := h.selB, selB := b, health := 0, switchAt := at_ }, mbox := { s.mbox with st := 2 } } : State).enterStep 4

/-- A boot firmware image is written to the slot that is not selected. The flash interface checks it there and marks the slot
valid or not; it switches the selector only if it is valid (R63). -/
def State.updateFirmware (s : State) (img : List Byte) : State :=
  let h := s.hub
  let ok := imageOk h.record 1 img
  let h := if h.selB then { h with slotA := some img, validA := ok } else { h with slotB := some img, validB := ok }
  let t : State := { s with hub := h }
  if ok then t.switchOver (!s.hub.selB) (some s.clk) else t

/-- FIRMWARE_UPDATE (R63). -/
def execFirmwareUpdate (image : List Byte) (s : State) : Res :=
  if s.hub.boot == .running && !s.hub.halted then .next (s.updateFirmware image) else .next s

/-- HEALTH_TIMEOUT: no health word within 10 s of a switch-over (R65). -/
def execHealthTimeout (s : State) : Res :=
  match s.hub.switchAt with
  | none => .next s
  | some t =>
    if s.hub.health != 0 then .next { s with hub := { s.hub with switchAt := none } }
    else if s.hub.halted || s.clk < t + 10 * second then .next s
    else .next (s.switchOver s.hub.prevSel none)

end Sys2Proof.Machine
end

