-- ==== Sys2Proof/Machine/Kv.lean ====
section
/-! DEFINITION. The allocators of the KV pools and their commands, references, and the disabling of a pool (R234, R235, R242,
R247 to R252, R447). -/

namespace Sys2Proof.Machine

open Sys2Proof

/-! ### References (R242) -/

/-- A reference: its holder, the frame's address, the physical address of the entry it was read from. -/
structure Ref where
  who : Holder
  frame : Nat
  entry : Nat
  deriving DecidableEq, Repr

/-- The references that the running instance of a core holds, for launches of a partition. -/
def State.refsOn (s : State) (c : CoreId) (part : Nat) : List Ref :=
  let n := s.instAt c
  if !n.live || (s.launchAt n.launch).rec_.part != part then []
  else
    (List.range 4).flatMap (fun t =>
      match (s.engAt c (threadId t)).v.vq.head? with
      | none => []
      | some q => q.refs.map (fun r =>
          { who := { core := c, unit := t, launch := n.launch, seq := q.seq, elem := r.1 }, frame := r.2.1, entry := r.2.2 })) ++
    (n.ports.toList.zipIdx).flatMap (fun p =>
      match p.1.run with
      | none => []
      | some st => st.grips.map (fun g =>
          { who := { core := c, unit := 8 + p.2, launch := n.launch, seq := st.seq, elem := g.elem }, frame := g.frame, entry := g.entry }))

/-- Every reference on the frames of a partition's pool. -/
def State.refs (s : State) (part : Nat) : List Ref := (List.finRange 320).flatMap (fun c => s.refsOn c part)

/-- The holders of references read from an entry. -/
def State.holders (s : State) (part pa : Nat) : List Holder := ((s.refs part).filter (fun r => r.entry == pa)).map (·.who)

/-! ### Issue (R447) -/

/-- Issue of a KV command: its result register, its checks, its alignment. -/
def State.issueKv (s : State) (i : Instr) (rd : SReg) (a b : Word) (bad : Bool) (align : Nat) (q : Bool) (stl : Stl) : Res :=
  if !s.isCaller || rd == 0 || bad then s.illegal i
  else if a.toNat % align != 0 then .next (s.trapMe 0x04 (misInfo a.toNat align))
  else s.tqPush i q a b 0 stl (fun g => g.setPend rd true)

/-- KVALLOC: a count of 1 to 64 (R447). -/
def execKvalloc (rd rs1 rs2 : SReg) (q : Bool) (stl : Stl) (s : State) : Res :=
  let n := fieldW (s.rg rs2) 6 0
  s.issueKv (.kvalloc rd rs1 rs2 q stl) rd (s.rg rs1) (s.rg rs2) (n = 0 || 64 < n) 8 q stl
/-- KVFREE (R447). -/
def execKvfree (rd rs1 : SReg) (q : Bool) (stl : Stl) (s : State) : Res :=
  s.issueKv (.kvfree rd rs1 q stl) rd (s.rg rs1) 0 false 8 q stl
/-- KVPIN (R447). -/
def execKvpin (rd rs1 : SReg) (q : Bool) (stl : Stl) (s : State) : Res :=
  s.issueKv (.kvpin rd rs1 q stl) rd (s.rg rs1) 0 false 8 q stl
/-- KVUNPIN (R447). -/
def execKvunpin (rd rs1 : SReg) (q : Bool) (stl : Stl) (s : State) : Res :=
  s.issueKv (.kvunpin rd rs1 q stl) rd (s.rg rs1) 0 false 8 q stl
/-- KVEVICT: 1 to 256 candidates (R447). -/
def execKvevict (rd rs1 rs2 : SReg) (q : Bool) (stl : Stl) (s : State) : Res :=
  let n := (s.rg rs2).toNat
  s.issueKv (.kvevict rd rs1 rs2 q stl) rd (s.rg rs1) (s.rg rs2) (n = 0 || 256 < n) 16 q stl
/-- KVINV (R447). -/
def execKvinv (rd rs1 rs2 : SReg) (q : Bool) (stl : Stl) (s : State) : Res :=
  s.issueKv (.kvinv rd rs1 rs2 q stl) rd (s.rg rs1) (s.rg rs2) false 8 q stl

/-! ### Acceptance (R235, R248, R427) -/

/-- The result register of a KV command. -/
def kvRd : Instr → SReg
  | .kvalloc rd _ _ _ _ => rd
  | .kvfree rd _ _ _ => rd
  | .kvpin rd _ _ _ => rd
  | .kvunpin rd _ _ _ => rd
  | .kvevict rd _ _ _ _ => rd
  | .kvinv rd _ _ _ _ => rd
  | _ => 0

/-- A result word (R248). -/
def kvWord (status aux count : Nat) : Word := wordN (status * 2 ^ 56 + aux % 65536 * 2 ^ 16 + count % 65536)

/-- A command that an accepted command reads or writes entries with: `kvinv` only writes, `kvpin` and `kvunpin` only
read. -/
def kvNeed : Instr → Nat
  | .kvalloc _ _ _ _ _ => permW
  | .kvinv _ _ _ _ _ => permW
  | .kvpin _ _ _ _ => permR
  | .kvunpin _ _ _ _ => permR
  | _ => permR + permW

/-- An entry as a command accepted before a disable sees it (R235). -/
def Pool.entryKv (p : Pool) (w : Nat) : Entry := ({ p with busy := false } : Pool).entry w

/-- A frame that may be evicted: not pinned, not referenced, not evicting (R251). -/
def State.idle (s : State) (part : Nat) (p : Pool) (i f : Nat) : Bool :=
  match p.frame i f with
  | none => false
  | some x => x.pins = 0 && !x.evicting && (s.refs part).all (fun r => r.frame != p.frameVa i f)

/-- The candidate of a list: entry address, spill address, of which the bits below 4 KiB count as zero. -/
def candidate (bs : List Byte) (j : Nat) : Nat × Nat := (fieldLE bs (16 * j) 8, fieldLE bs (16 * j + 8) 8 / 4096 * 4096)

/-- The entries of the candidates, each translated, and the first entries up to the victim correctable (R248). -/
def State.checkCands (s : State) (l : Launch) (p : Pool) (bs : List Byte) (n : Nat) : Except (AFault × Nat) Unit := do
  let ps ← (List.range n).mapM (fun j => s.engMap l (permR + permW + permRaw) (candidate bs j).1 8)
  let upto := (ps.takeWhile (fun x =>
    match p.entryKv (numLE (s.engGet x)) with
    | .frame i f => !s.idle l.rec_.part p i f
    | _ => true)).length
  let _ ← (List.range (Nat.min n (upto + 1))).mapM (fun j => s.engMap l (permR + permW) (candidate bs j).1 8)
  return ()

/-- What a command reads before it is accepted: the list of `kvevict`; or what it meets (R248). -/
def State.kvCheck (s : State) (c : CoreId) (l : Launch) (x : TqEnt) : Except (AFault × Nat) (List Byte) :=
  match x.cmd with
  | .kvalloc _ _ _ _ _ =>
    ((List.range (fieldW x.b 6 0)).mapM (fun j => s.engMap l permW ((x.a.toNat + 8 * j) % 2 ^ 64) 8)).map (fun _ => [])
  | .kvevict _ _ _ _ _ =>
    (match s.readBlock c false x.a.toNat (16 * x.b.toNat) with
    | .error f => .error (f, x.a.toNat)
    | .ok bs => (s.checkCands l (s.poolOf l.rec_.part) bs x.b.toNat).map (fun _ => bs))
  | i => (s.engMap l (kvNeed i) x.a.toNat 8).map (fun _ => [])

/-- The slot whose allocator accesses the entries of a command: the cursor's for `kvalloc`, the first for the others (log 91). -/
def kvSlot (p : Pool) (i : Instr) (b : Word) : Nat :=
  match i with
  | .kvalloc _ _ _ _ _ => fieldW b 24 16 % p.nch
  | _ => 0

/-- The allocator of a channel freezes (R24, R248, R272). -/
def State.kvFreeze (s : State) (part ch code addr : Nat) : State :=
  (s.updPool part (fun p => { p with frozen := ch :: p.frozen })).notifyFreeze code part (masterWord 8 (ch / 48) ch) addr

/-- A KV command at the head of its queue: refused while no pool is enabled, faulted, or accepted by an allocator of its
pool, which hold 64 in all. An access of the allocator to an unpopulated address freezes it, and the command tries again once it goes
on (R248, R274). -/
def State.kvHead (s : State) (c : CoreId) (q : Fin 2) (x : TqEnt) : State :=
  let l := s.launchOf c
  let p := s.poolOf l.rec_.part
  if !p.en || p.busy then
    (s.updEng c callerId (fun g => g.landAt x.seq (kvRd x.cmd) (kvWord 6 0 0))).tqPop c q
  else if 64 ≤ p.cmds.length || !s.tqMay c x 15 false || p.frozen.contains (p.chan (kvSlot p x.cmd x.b)) then s
  else
    match s.kvCheck c l x with
    | .error (.freeze 6 a, _) => s.kvFreeze l.rec_.part (p.chan (kvSlot p x.cmd x.b)) 6 a
    | .error e => s.tqFault c q x e.1
    | .ok bs =>
      let k : KvCmd :=
        { cmd := x.cmd, a := x.a, b := x.b, core := c, launch := l.id, seq := x.seq, list := bs, got := 0, waiting := false,
          hold := [], frame := none, src := [], dst := [], copied := 0, puts := [], res := 0,
          ent := { x with back := false }, tq := q }
      (s.updPool l.rec_.part (fun p => { p with cmds := p.cmds ++ [k] })).tqPop c q

/-! ### Service (R247 to R252) -/

/-- What one step of a command comes to: more to do, a freeze of the allocator of a channel, the end. -/
inductive KvStep where
  | more (s : State) (k : KvCmd)
  | freeze (chan code addr : Nat)
  | fin (s : State) (res : Word)
  /-- uncorrectable data: ECODE 0x0c on the Caller at the command -/
  | fault (info : Word)
  | idle
  deriving DecidableEq, Repr

/-- A block's header as `kvalloc` writes it (R238). -/
def Pool.header (p : Pool) (value : Bool) : List Byte :=
  [if value then 2 else 1] ++ bytesLE 1 p.fmt ++ bytesLE 2 p.dh ++ List.replicate 60 0 ++
    (if value then [] else
      (List.replicate p.dh (bytesLE 2 0x7f80)).flatten ++ (List.replicate p.dh (bytesLE 2 0xff80)).flatten)

/-- The units of every header of a frame. -/
def Pool.headerPuts (p : Pool) (ps : List (Nat × Nat × Nat)) : List Put :=
  let (va, pa, _) := ps.headD (0, 0, 0)
  p.blocks.flatMap (fun b =>
    let o := p.blockOff b.1 b.2
    (putsOf 8 [(va + o, pa + o, (p.header b.1).length)] (p.header b.1)).map (fun x => { x with whole := true }))

/-- The slot and frame for the next block of `kvalloc` (R247). -/
def Pool.pickFrame (p : Pool) (cursor : Nat) : Option (Nat × Nat) :=
  let used (i : Nat) : List Nat := (p.frames.filter (fun f => f.slot == i)).map (·.num)
  match ((List.range p.nch).map (fun d => (cursor + d) % p.nch)).find? (fun i => (used i).length < p.nfr) with
  | none => none
  | some i => ((List.range p.nfr).find? (fun f => !(used i).contains f)).map (fun f => (i, f))

/-- The next block of `kvalloc`. An entry whose word has become uncorrectable since acceptance faults the command while it has changed
nothing, and later ends it with status 8 (log 91). -/
def State.kvAllocStep (s : State) (l : Launch) (p : Pool) (k : KvCmd) : KvStep :=
  let cur := fieldW k.b 24 16 % p.nch
  let done (status : Nat) : KvStep := .fin s (kvWord status ((cur + k.got) % p.nch) k.got)
  if fieldW k.b 6 0 ≤ k.got then done 0
  else
    match p.pickFrame (cur + k.got) with
    | none => done 5
    | some (i, f) =>
      if p.frozen.contains (p.chan i) then .idle
      else
      match s.engMap l permW (p.frameVa i f) (2 ^ p.fshift) with
      | .error (.freeze code addr, _) => .freeze (p.chan i) code addr
      | .error _ => done 8
      | .ok ps =>
        match s.engMap l permW ((k.a.toNat + 8 * k.got) % 2 ^ 64) 8 with
        | .error (.freeze code addr, _) => .freeze (p.chan i) code addr
        | .error (.trap 0x0c info, _) => if k.got = 0 then .fault info else done 8
        | .error _ => done 8
        | .ok pe =>
          let x : Frame := { slot := i, num := f, pins := 0, evicting := false, wrote := 0 }
          .more (s.updPool l.rec_.part (fun q => { q with frames := q.frames ++ [x] }))
            { k with got := k.got + 1, puts := p.headerPuts ps ++ putsOf 8 pe (bytesLE 8 (p.frameVa i f + 1)) }

/-- The entry that a command names, as a step of it reads it: its pieces and value; one whose translation faults since counts as not valid,
an unpopulated address freezes the allocator, and uncorrectable data is the command's fault (R248). -/
def State.kvEntry (s : State) (l : Launch) (p : Pool) (k : KvCmd) (need a : Nat) (f : List (Nat × Nat × Nat) × Nat → KvStep) : KvStep :=
  match s.engMap l need a 8 with
  | .error (.freeze code addr, _) => .freeze (p.chan (kvSlot p k.cmd k.b)) code addr
  | .error (.trap 0x0c info, _) => .fault info
  | .error _ => f ([], 0)
  | .ok ps => f (ps, numLE (s.engGet ps))

/-- A step on a frame, unless its allocator is frozen. -/
def Pool.onFrame (p : Pool) (i : Nat) (k : KvStep) : KvStep := if p.frozen.contains (p.chan i) then .idle else k

/-- The physical address of an entry. -/
def entryPa (ps : List (Nat × Nat × Nat)) : Nat := (ps.head?.map (fun x => x.2.1)).getD 0

/-- `kvpin` and `kvunpin` (R249). -/
def State.kvPinStep (s : State) (l : Launch) (p : Pool) (k : KvCmd) (pin : Bool) : KvStep :=
  s.kvEntry l p k permR k.a.toNat fun e =>
  match p.entryKv e.2 with
  | .frame i f =>
    p.onFrame i (match p.frame i f with
    | none => .fin s (kvWord 2 0 0)
    | some x =>
      if pin && x.evicting then .fin s (kvWord 7 0 0)
      else if pin && 255 ≤ x.pins then .fin s (kvWord 3 0 0)
      else if !pin && x.pins = 0 then .fin s (kvWord 4 0 0)
      else
        .fin (s.updPool l.rec_.part (fun q => q.updFrame i f (fun y => { y with pins := if pin then y.pins + 1 else y.pins - 1 })))
          (kvWord 0 0 0))
  | _ => .fin s (kvWord 2 0 0)

/-- `kvfree` (R250). -/
def State.kvFreeStep (s : State) (l : Launch) (p : Pool) (k : KvCmd) : KvStep :=
  s.kvEntry l p k (permR + permW) k.a.toNat fun (ps, w) =>
  match p.entryKv w with
  | .frame i f =>
    p.onFrame i (match p.frame i f with
    | none => .fin s (kvWord 2 0 0)
    | some x =>
      if x.pins != 0 then .fin s (kvWord 3 0 0)
      else if x.evicting then .fin s (kvWord 7 0 0)
      else
        .more (s.engPut l ps (bytesLE 8 0))
          { k with waiting := true, hold := s.holders l.rec_.part (entryPa ps), frame := some (i, f), res := kvWord 0 0 0 })
  | _ => .fin s (kvWord 2 0 0)

/-- `kvinv` (R252). -/
def State.kvInvStep (s : State) (l : Launch) (p : Pool) (k : KvCmd) : KvStep :=
  if p.entryKv k.b.toNat == .bad then .fin s (kvWord 2 0 0)
  else
    s.kvEntry l p k permW k.a.toNat fun (ps, _) =>
    if ps.isEmpty then .fin s (kvWord 2 0 0)
    else
      .more (s.engPut l ps (bytesLE 8 k.b.toNat))
        { k with waiting := true, hold := s.holders l.rec_.part (entryPa ps), res := kvWord 0 0 0 }

/-- `kvevict` at its next candidate, whose index is `got` (R251): it passes on, or takes steps 2 and 3. -/
def State.kvEvictStep (s : State) (l : Launch) (p : Pool) (k : KvCmd) : KvStep :=
  let j := k.got
  let (ea, spill) := candidate k.list j
  if k.b.toNat ≤ j then .fin s (kvWord 1 0 0)
  else
    s.kvEntry l p k (permR + permW) ea fun (ps, w) =>
    match (match p.entryKv w with | .frame i f => if s.idle l.rec_.part p i f then some (i, f) else none | _ => none) with
    | none => .more s { k with got := j + 1 }
    | some (i, f) =>
    if p.frozen.contains (p.chan i) then .idle
    else
    match s.engMap l (permR + permRaw) (p.frameVa i f) (2 ^ p.fshift), s.engMap l (permW + permRaw) spill (2 ^ p.fshift) with
    | .error (.freeze code addr, _), _ => .freeze (p.chan i) code addr
    | .error _, _ => .fin s (kvWord 8 j 0)
    | _, .error (.freeze code addr, _) => .freeze (p.chan i) code addr
    | _, .error _ => .fin s (kvWord 8 j 0)
    | .ok src, .ok dst =>
      let s' := (s.updPool l.rec_.part (fun q => q.updFrame i f (fun y => { y with evicting := true }))).engPut l ps
        (bytesLE 8 (spill + 2))
      .more s' { k with
        waiting := true, hold := s.holders l.rec_.part (entryPa ps), frame := some (i, f), src := src, dst := dst,
        res := kvWord 0 j 0 }

/-- The 8-byte units of ranges, in order, by virtual and physical address. -/
def unitsIn (ps : List (Nat × Nat × Nat)) : List (Nat × Nat) :=
  ps.flatMap (fun p => (List.range (p.2.2 / 8)).map (fun i => (p.1 + 8 * i, p.2.1 + 8 * i)))

/-- The copy of the next unit of an evicted frame; once its units cover a protected word, that is uncorrectable in the spill area if it is
in the frame (R25, R251). -/
def State.kvCopy (s : State) (l : Launch) (src dst : Nat × Nat) : State :=
  let t := s.putG l { va := dst.1, pa := dst.2, bytes := s.mem.readBytes src.2 8, whole := true }
  if dst.2 % 32 = 24 && s.poison.contains (src.2 / 32 * 32) then { t with poison := insertNat (dst.2 / 32 * 32) t.poison } else t

/-- A unit that an allocator writes or copies lies where there is no memory (R24). -/
def State.noMem (s : State) (l : Launch) (pa : Nat) : Bool := devBase ≤ pa || !s.populated l.rec_.part pa 8

/-- The next step of an accepted command. -/
def State.kvServe (s : State) (p : Pool) (k : KvCmd) : KvStep :=
  let l := s.launchAt k.launch
  if p.frozen.contains (p.chan (kvSlot p k.cmd k.b)) then .idle
  else if let x :: ps := k.puts then
    if s.noMem l x.pa then .freeze (p.chan (kvSlot p k.cmd k.b)) 6 x.pa
    else if !x.whole && s.putHit l x then .freeze (p.chan (kvSlot p k.cmd k.b)) 6 x.va
    else .more (s.putG l x) { k with puts := ps }
  else if k.waiting then
    let live := k.hold.filter (fun h => (s.refs l.rec_.part).any (fun r => r.who == h))
    if !live.isEmpty then .idle
    else if let (src, dst) :: _ := ((unitsIn k.src).zip (unitsIn k.dst)).drop k.copied then
      if s.noMem l src.2 then .freeze (p.chan (kvSlot p k.cmd k.b)) 6 src.2
      else if s.noMem l dst.2 then .freeze (p.chan (kvSlot p k.cmd k.b)) 6 dst.2
      else if s.headerHit l.rec_.part false dst.1 8 then .freeze (p.chan (kvSlot p k.cmd k.b)) 6 dst.1
      else .more (s.kvCopy l src dst) { k with copied := k.copied + 1 }
    else
      let s := match k.frame with
        | none => s
        | some (i, f) => s.updPool l.rec_.part (fun q =>
            { q with frames := q.frames.filter (fun x => !(x.slot == i && x.num == f)) })
      .fin s k.res
  else
    match k.cmd with
    | .kvalloc _ _ _ _ _ => s.kvAllocStep l p k
    | .kvpin _ _ _ _ => s.kvPinStep l p k true
    | .kvunpin _ _ _ _ => s.kvPinStep l p k false
    | .kvfree _ _ _ _ => s.kvFreeStep l p k
    | .kvinv _ _ _ _ _ => s.kvInvStep l p k
    | .kvevict _ _ _ _ _ => s.kvEvictStep l p k
    | _ => .fin s 0

/-- The result word of a command lands with its Caller, running or parked. -/
def State.kvLand (s : State) (k : KvCmd) (w : Word) : State :=
  match s.instFor k.launch k.core with
  | none => s
  | some parked =>
    s.updInstP k.core parked (fun n => n.updEng callerId (fun g => g.landAt k.seq (kvRd k.cmd) w))

/-- A command allocates frames. -/
def KvCmd.allocs (k : KvCmd) : Bool :=
  match k.cmd with
  | .kvalloc _ _ _ _ _ => true
  | _ => false

/-- The `i`-th command that an allocator holds may take a step: `kvalloc` commands are served one after another (R247). -/
def Pool.mayServe (p : Pool) (i : Nat) : Bool :=
  match p.cmds[i]? with
  | none => false
  | some k => !(k.allocs && (p.cmds.take i).any KvCmd.allocs)

/-- An entry comes back to its tile queue: to the head, or behind a head that has begun. -/
def TileQ.putBack (t : TileQ) (x : TqEnt) : TileQ :=
  match t.ents with
  | y :: rest => if y.begun then { t with ents := y :: x :: rest } else { t with ents := x :: y :: rest }
  | [] => { t with ents := [x] }

/-- A command that has met uncorrectable data on an allocator leaves it with nothing changed, and faults: it stands in its queue again,
which stops, and the Caller takes the trap; while a trap is open there it is a double fault (R248, R268, R270). -/
def State.kvFault (s : State) (k : KvCmd) (info : Word) : State :=
  let c := k.core
  let x : TqEnt := { k.ent with back := true, held := (s.engAt c callerId).tr.trap }
  let t : Trap :=
    { code := 0x0c, info := info, epc := x.pc, src := 2 + k.tq.val, conv := false, seq := x.seq, acc := none, fired := 0, elem := none }
  let s := s.updTq c k.tq (fun q => q.putBack x)
  if (s.engAt c callerId).tr.trap then s.freezeEng c callerId 0x0c t.addr
  else (s.updTq c k.tq (fun q => { q with stopped := true })).raiseTrap c callerId t

/-- As `kvFault`, where the command's instance is: running, parked, or nowhere. -/
def State.kvBack (s : State) (k : KvCmd) (info : Word) : State :=
  let s := s.foundG (s.launchAt k.launch) (info.toNat / 4096)
  match s.instFor k.launch k.core with
  | none => s
  | some false => s.kvFault k info
  | some true => s.asParked k.core (fun t => t.kvFault k info)

/-- A command takes its next step. -/
def State.allocTake (s : State) (part i : Nat) (k : KvCmd) : State :=
  match s.kvServe (s.poolOf part) k with
  | .idle => s
  | .more t k' => t.updPool part (fun p => { p with cmds := p.cmds.set i k' })
  | .fin t w => (t.updPool part (fun p => { p with cmds := removeAt p.cmds i })).kvLand k w
  | .fault info => (s.updPool part (fun p => { p with cmds := removeAt p.cmds i })).kvBack k info
  | .freeze ch code addr => s.kvFreeze part ch code addr

/-- One step of a partition's allocators, on any command that they may serve (R161). -/
def State.allocStep (s : State) (part : Nat) : State :=
  if s.hub.halted then s
  else
    let p := s.poolOf part
    let (i, s) := s.anyOf ((List.range p.cmds.length).filter p.mayServe)
    match i with
    | none => s
    | some i => match p.cmds[i]? with | some k => s.allocTake part i k | none => s

/-! ### Enabling and disabling (R234, R235) -/

/-- KV_POOL_ENABLE: a write of KVPOOL with EN = 1. -/
def execKvPoolEnable (part : Fin 16) (v : Word) (s : State) : Res := .next (if s.hub.halted then s else s.poolEnable part.val v)

/-- KV_POOL_DISABLE: a write of KVPOOL with EN = 0 that keeps ADDR. -/
def execKvPoolDisable (part : Fin 16) (s : State) : Res := .next (if s.hub.halted then s else s.poolDisable part.val none)

/-- KV_POOL_DISABLE_COMPLETE: once no accepted command and no reference is left. -/
def execKvPoolDisableComplete (part : Fin 16) (s : State) : Res :=
  let p := s.poolOf part.val
  if p.busy && p.cmds.isEmpty && (s.refs part.val).isEmpty then
    .next (s.updPool part.val (fun p => { p with frames := [], en := false, busy := false }))
  else .next s

end Sys2Proof.Machine
end

