-- ==== Sys2Proof/Machine/Complete.lean ====
section
/-! DEFINITION. The commands of the engines: what the head of a tile queue does outside the array, and the steps of the
routing engines and KV allocators (R170, R426 to R431). -/

namespace Sys2Proof.Machine

open Sys2Proof

/-- The command of a mode change acts: the queue's later passes run in the mode (R431). -/
def State.modeHead (s : State) (c : CoreId) (q : Fin 2) (red : Bool) : State :=
  (s.updTq c q (fun t => { t with red := red })).tqPop c q

/-- The head of a tile queue, by its command. The array's commands wait for its grant (R429). -/
def State.headAct (s : State) (c : CoreId) (q : Fin 2) (x : TqEnt) : State :=
  let port (p : BitVec 3) : Fin 8 := Fin.ofNat 8 p.toNat
  match x.cmd with
  | .mdrain f _ => s.drainStep c q x f
  | .mmodeStd _ _ => s.modeHead c q false
  | .mmodeRed _ _ => s.modeHead c q true
  | .sstrm rd _ p _ _ => s.bindHead c q x (port p) rd .affine
  | .agather rd _ p _ _ => s.bindHead c q x (Fin.ofNat 8 p.toNat) rd .agather
  | .ssusp p _ _ => (s.actSusp c (port p)).tqPop c q
  | .sres p _ _ => (s.actRes c (port p)).tqPop c q
  | .skill p _ _ => (s.actKill c (port p)).tqPop c q
  | .snote p _ _ => (s.actNote c (port p)).tqPop c q
  | .rtpush _ _ _ => s.pushHead c q x
  | .rdisp _ _ _ => s.routeHead c q x 0
  | .rcombPart _ _ _ => s.routeHead c q x 1
  | .rcombFin _ _ _ => s.routeHead c q x 2
  | .rgenOpen _ _ _ _ _ => s.openHead c q x
  | .rgenRetire _ _ _ => s.retireHead c q x
  | .kvalloc _ _ _ _ _ => s.kvHead c q x
  | .kvfree _ _ _ _ => s.kvHead c q x
  | .kvpin _ _ _ _ => s.kvHead c q x
  | .kvunpin _ _ _ _ => s.kvHead c q x
  | .kvevict _ _ _ _ _ => s.kvHead c q x
  | .kvinv _ _ _ _ _ => s.kvHead c q x
  | _ => s

/-- The next step of a tile queue's head; while a pre-emption is asked for, only an `mdrain` goes on, to the end of its row (R107). -/
def State.tileStep (s : State) (c : CoreId) (q : Fin 2) : State :=
  match s.tqHead c q with
  | some x => s.headAct c q x
  | none => if (s.coreAt c).preReq then s.drainOut c q else s

/-- ENGINE_COMMAND_COMPLETION (R170): the next step of a command, up to its completion. -/
def execEngineCommandCompletion (unit : UnitSel) (s : State) : Res :=
  match unit with
  | .tile c q => .next (s.tileStep c q)
  | .route d => .next (s.routeStep d)
  | .alloc p => .next (s.allocStep p.val)

end Sys2Proof.Machine
end

