-- ==== Sys2Proof/Machine/Speculation.lean ====
section
/-! DEFINITION. Commutative speculation: tasks, lock entries, conflicts, the abort and its replay, and commit (R253 to R264,
R449). -/

namespace Sys2Proof.Machine

open Sys2Proof

/-- Tasks exist only in launches with BOOST and without DET (R253). -/
def State.specOn (s : State) : Bool := (s.recOf s.core).boost && !(s.recOf s.core).det

/-- The open tasks of a launch, running or parked. -/
def State.tasksOf (s : State) (l : Launch) : List Task := (s.instsOf l).flatMap (fun n => n.engs.toList.filterMap (·.task))

/-- The task of an engine of a launch, running or parked. -/
def State.taskAt (s : State) (id : Nat) (c : CoreId) (e : EngId) : Option Task :=
  match s.instFor id c with
  | none => none
  | some parked => (((s.coreAt c).inst? parked).engs[e]).task

/-! ### Registration (R256, R257) -/

/-- SCTAB: once every earlier access has performed, the 520-byte image becomes the table of the launch on every core of it
(R256, R257). -/
def execSctab (rs1 : SReg) (stl : Stl) (s : State) : Res :=
  let a := (s.rg rs1).toNat
  if !s.specOn || s.me.taskOpen then s.illegal (.sctab rs1 stl)
  else if a % 8 != 0 then .next (s.trapMe 0x04 (misInfo a 8))
  else if !s.allDone then s.stall
  else
    match s.readBlock s.core s.sup a 520 with
    | .error f => .next (s.deliver s.core s.eng f)
    | .ok bs =>
      .next ((s.updLaunch (s.instAt s.core).launch (fun l =>
        { l with comm := Vector.ofFn (fun i => wordN (fieldLE bs (8 * i.val) 8)), loaded := wordN (fieldLE bs 512 8) })).finish 4 stl [])

/-- SREG: registers or unregisters the inverse handler of a kind, also inside a handler (R256). -/
def execSreg (k : BitVec 6) (rs1 : SReg) (stl : Stl) (s : State) : Res :=
  let a := s.rg rs1
  if !s.specOn then s.illegal (.sreg k rs1 stl)
  else if a.toNat % 4 != 0 then .next (s.trapMe 0x04 (misInfo a.toNat 4))
  else .next ((s.updInst s.core (fun n => { n with handlers := n.handlers.set k.toNat a k.isLt })).finish 4 stl [])

/-! ### Opening a task (R254, R256, R261) -/

/-- SBEGIN: an exclusive task waits until no other task of the launch is open, and every other `sbegin` waits for it (R254,
R256, R261). -/
def execSbegin (rd : SReg) (off : BitVec 16) (stl : Stl) (s : State) : Res :=
  let g := s.me
  let open_ := s.tasksOf (s.launchOf s.core)
  if !s.specOn || g.taskOpen then s.illegal (.sbegin rd off stl)
  else if g.ulimit < g.ubase + 32 then .next (s.trapMe 0x12 0)
  else if (g.nextExcl && !open_.isEmpty) || open_.any (·.excl) then s.stall
  else
    let t : Task :=
      { seq := g.keepSeq.getD (s.clk * 4096 + s.lidx s.core * 8 + s.eng.val), excl := g.nextExcl, sd := rd,
        path := branchTarget g.pc off, committing := false, abort := none }
    let st : Word := if g.nextExcl then wordN (2 ^ 62) else 0
    .next ((s.updMe (fun h => { h.wr rd st with task := some t, nextExcl := false, keepSeq := none })).finish 4 stl [])

/-! ### Conflicts (R257 to R259) -/

/-- Two kinds commute in a launch (R257). -/
def Launch.commute (l : Launch) (a b : Nat) : Bool :=
  let row (k : Nat) : Word := l.comm.toList.getD k 0
  l.loaded.getLsbD a && l.loaded.getLsbD b && (row a).getLsbD b && (row b).getLsbD a

/-- The home of a hash (R258). -/
def Launch.lockHome (l : Launch) (h : Nat) : CoreId := l.coreOf (h % (l.rec_.w * l.rec_.h))

/-- An entry belongs to the task of an engine. -/
def Lock.mine (x : Lock) (id : Nat) (c : CoreId) (e : EngId) : Bool := x.launch == id && x.core == c && x.eng == e

/-- The entries of other open tasks under a hash that conflict with a kind. -/
def State.conflicts (s : State) (l : Launch) (c : CoreId) (e : EngId) (h k : Nat) : List Lock :=
  (s.coreAt (l.lockHome h)).locks.filter (fun x =>
    x.launch == l.id && x.hash == h && !x.mine l.id c e && !l.commute k x.kind)

/-- The owner of an entry is older than a task: a committing one is older than every other (R262). -/
def State.older (s : State) (x : Lock) (seq : Nat) : Bool :=
  match s.taskAt x.launch x.core x.eng with
  | none => false
  | some q => q.committing || q.seq < seq

/-- Aim an abort at an engine's task: the first one stays, and neither a committing nor an exclusive task takes one (R259,
R261, R262). -/
def Eng.aim (g : Eng) (cause kind hash : Nat) : Eng :=
  match g.task with
  | none => g
  | some t =>
    if t.committing || t.excl || t.abort.isSome then g
    else
      { g with
        task := some { t with abort := some { cause := cause, kind := kind, hash := hash, at_ := .aimed, pc := 0, seq := 0, lr := 0 } },
        sopWait := none }

/-- Aim an abort at the owner of an entry: it records the lowest of its kinds that conflict (R259). -/
def State.aimAt (s : State) (confl : List Lock) (x : Lock) : State :=
  let ks := (confl.filter (fun y => y.mine x.launch x.core x.eng)).map (·.kind)
  s.updEng x.core x.eng (fun g => g.aim 1 (ks.foldl Nat.min 63) x.hash)

/-- The record that `sop` pushes (R258). -/
def undoRecord (handler a0 a1 : Word) (h k : Nat) : List Byte :=
  bytesLE 8 handler.toNat ++ bytesLE 8 a0.toNat ++ bytesLE 8 a1.toNat ++ bytesLE 4 h ++ bytesLE 1 k ++ [0, 0, 0]

/-- The abort of the executing engine's own task, whose instruction does not return. -/
def State.abortMe (s : State) (cause kind hash : Nat) : Res := .next (s.updMe (fun g => g.aim cause kind hash))

/-- The push of a record, after the lock check: a class-15 store to the undo stack, in words of 8 bytes that wait in the class queue
(R163, R258). The `sop` waits until they have performed (R449). -/
def State.sopPush (s : State) (handler a0 a1 : Word) (h k : Nat) : Res :=
  let g := s.me
  if g.ulimit < g.ubase + 32 * (g.udepth + 1) then s.abortMe 3 k h
  else
    let bs := undoRecord handler a0 a1 h k
    let word (i : Nat) : Acc :=
      { s.mkAcc .store 15 true (wordN (g.ubase + 32 * g.udepth + 8 * i)) 8 (numLE (slice bs (8 * i) 8)) with elem := i, of_ := 4 }
    .next ((((List.range 4).map word).foldl State.pendAcc s).updMe (fun g => { g with sopSeq := some g.seq }))

/-- A `sop` whose record has been queued: once the record's stores have performed, DEPTH counts it and the instruction completes (R258,
R449). -/
def State.sopEnd (s : State) (q : Nat) (stl : Stl) : Res :=
  if s.me.accs.any (fun a => a.seq == q && a.isAccess) then s.stall
  else .next ((s.updMe (fun g => { g with udepth := g.udepth + 1, sopSeq := none })).finish 4 stl [])

/-- The owner of an entry is parked: the core has resumed before its siblings, and no abort can be aimed there yet (R264). -/
def State.ownerParked (s : State) (x : Lock) : Bool := s.instFor x.launch x.core != some false

/-- The lock check of a task's `sop`, in one instant at the home, and what follows it: the task loses to an older owner, or the
younger owners are aborted and it waits until they have released their entries (R258, R259). -/
def State.sopCheck (s : State) (t : Task) (handler a0 a1 : Word) (h k : Nat) : Res :=
  let l := s.launchOf s.core
  let home := l.lockHome h
  let confl := s.conflicts l s.core s.eng h k
  if confl.any (fun x => s.older x t.seq) then s.abortMe 1 k h
  else if confl.any s.ownerParked then s.stall
  else if !confl.isEmpty then
    let w : SopWait := { kind := k, hash := h, on := confl.map (fun x => (x.core, x.eng)) }
    .next ((confl.foldl (fun s x => s.aimAt confl x) s).updMe (fun g => { g with sopWait := some w }))
  else
    let locks := (s.coreAt home).locks
    let e : Lock := { launch := l.id, core := s.core, eng := s.eng, hash := h, kind := k }
    if locks.contains e then s.sopPush handler a0 a1 h k
    else if 256 ≤ locks.length then s.abortMe 4 k h
    else (s.updCore home (fun c => { c with locks := c.locks ++ [e] })).sopPush handler a0 a1 h k

/-- SOP: the lock check is made at issue; the push then waits behind the engine's earlier accesses, and the `sop` for the push (R256,
R258, R449). -/
def execSop (k : BitVec 6) (rh ra rb : SReg) (stl : Stl) (s : State) : Res :=
  let g := s.me
  let handler := (s.instAt s.core).handlers[k.toNat]'(k.isLt)
  if !s.specOn || !g.inTask then s.illegal (.sop k rh ra rb stl)
  else if handler == 0 then .next (s.trapMe 0x11 (wordN k.toNat))
  else
    match g.task with
    | none => s.illegal (.sop k rh ra rb stl)
    | some t =>
      if t.excl then .next (s.finish 4 stl [])
      else
        match g.sopSeq with
        | some q => s.sopEnd q stl
        | none => s.sopCheck t handler (s.rg ra) (s.rg rb) (fieldW (s.rg rh) 31 0) k.toNat

/-- SOP_WAIT_COMPLETE: the entries that the waiting `sop` met have all been released, and it is judged again (R259). -/
def execSopWaitComplete (core : CoreId) (e : EngId) (s : State) : Res :=
  match (s.engAt core e).sopWait with
  | none => .next s
  | some w => if w.on.isEmpty then .next (s.updEng core e (fun g => { g with sopWait := none })) else .next s

/-! ### Closing a task (R260 to R262) -/

/-- An engine waits no longer for the entries of another's task. -/
def Eng.released (g : Eng) (c : CoreId) (e : EngId) : Eng :=
  { g with sopWait := g.sopWait.map (fun w => { w with on := w.on.filter (· != (c, e)) }) }

/-- The engines of a launch's instance wait no longer for the entries of a task. -/
def Inst.released (n : Inst) (id : Nat) (c : CoreId) (e : EngId) : Inst :=
  if n.launch == id then { n with engs := n.engs.map (fun g => g.released c e) } else n

/-- The entries of an engine's task are released at every home, and each `sop` that waits for them is told (R259, R260). -/
def State.releaseLocks (s : State) (id : Nat) (c : CoreId) (e : EngId) : State :=
  { s with cores := s.cores.map (fun (k : Core) =>
      { k with locks := k.locks.filter (fun x => !x.mine id c e), inst := k.inst.released id c e, parked := k.parked.released id c e }) }

/-- An abort was aimed at the engine's task before the task began to commit: it wins (R262). -/
def Eng.doomed (g : Eng) : Bool := match g.task with | some t => t.abort.isSome && !t.committing | none => false

/-- SCOMMIT (R262). In a supervisor handler, where an abort waits for `eret` (R263), one that the abort has beaten has no effect (log 97). -/
def execScommit (stl : Stl) (s : State) : Res :=
  let g := s.me
  if !s.specOn || !g.inTask then s.illegal (.scommit stl)
  else if g.doomed then .next (s.finish 4 stl [])
  else
    let s := s.updMe (fun g => { g with task := g.task.map (fun t => { t with committing := true }) })
    if !s.allDone then .next s
    else
      let s := s.releaseLocks (s.instAt s.core).launch s.core s.eng
      .next ((s.updMe (fun g => { g with task := none, udepth := 0 })).finish 4 stl [])

/-- SABORT: not in an exclusive task (R256, R260). -/
def execSabort (stl : Stl) (s : State) : Res :=
  let g := s.me
  if !s.specOn || !g.inTask || (match g.task with | some t => t.excl | none => false) then s.illegal (.sabort stl)
  else .next ((s.finish 4 stl []).updMe (fun g => g.aim 2 0 0))

/-- Change the abort under way. -/
def Eng.updAbort (g : Eng) (f : Abort → Abort) : Eng :=
  { g with task := g.task.map (fun t => { t with abort := t.abort.map f }) }

/-- The task status word of an abort (R261). -/
def abortWord (a : Abort) : Word :=
  wordN (2 ^ 63 + (if a.cause = 3 || a.cause = 4 then 2 ^ 62 else 0) + a.cause % 256 * 2 ^ 48 + a.kind % 64 * 2 ^ 32 + a.hash % 2 ^ 32)

/-- The replay is over: the entries are released, sd is written, and the abort path is next (R260, R261). -/
def State.abortEnd (s : State) (c : CoreId) (e : EngId) (t : Task) (a : Abort) : State :=
  let s := s.releaseLocks (s.instAt c).launch c e
  s.updEng c e (fun g =>
    { (g.wr 31 a.lr).wr t.sd (abortWord a) with
      pc := t.path, task := none, nextExcl := a.cause == 3 || a.cause == 4, keepSeq := if a.cause = 1 then some t.seq else none })

/-- The trap of a record that cannot be replayed (R260). -/
def State.recordTrap (s : State) (c : CoreId) (e : EngId) (a : Abort) (inner : Nat) : State :=
  s.raiseTrap c e
    { code := 0x10, info := wordN inner, epc := a.pc, src := 5, conv := false, seq := (s.engAt c e).seq, acc := none, fired := 0,
      elem := none }

/-- The top record is popped: its handler is called (R260). -/
def State.popRecord (s : State) (c : CoreId) (e : EngId) (a : Abort) : State :=
  let g := s.engAt c e
  match s.readBlock c g.tr.priv (g.ubase + 32 * (g.udepth - 1)) 32 with
  | .error (.freeze code addr) => s.freezeEng c e code addr
  | .error (.trap code _) => s.recordTrap c e a code
  | .ok bs =>
    if 64 ≤ fieldLE bs 28 1 || !zeroBytes bs 29 3 then s.recordTrap c e a 1
    else
      let w (o n : Nat) : Word := wordN (fieldLE bs o n)
      s.updEng c e (fun g =>
        { ((((g.wr 1 (w 8 8)).wr 2 (w 16 8)).wr 3 (w 24 4)).wr 4 (w 28 1)).wr 31 replayLr with pc := w 0 8 }.updAbort
          (fun a => { a with at_ := .inHandler }))

/-- The registers that the replay writes are free. -/
def Eng.replayFree (g : Eng) (sd : SReg) : Bool := !([1, 2, 3, 4, 31, sd] : List SReg).any g.held

/-- SPECULATION_ABORT: the next piece of an abort (R260): issue stops, a record is popped, a handler has returned, or the
task ends. A record is read after every earlier access of the engine has performed. -/
def execSpeculationAbort (core : CoreId) (e : EngId) (s : State) : Res :=
  let g := s.engAt core e
  match g.task with
  | none => .next s
  | some t =>
    match t.abort with
    | none => .next s
    | some a =>
      if !s.unitsRun core || !g.running || g.frozen || !g.aborting || !g.traps.isEmpty then .next s
      else
        match a.at_ with
        | .aimed =>
          if !g.v.vq.isEmpty || g.held 31 then .next s
          else .next (s.updEng core e (fun g => { g with sopSeq := none }.updAbort (fun a => { a with at_ := .popping, pc := g.pc, seq := g.seq, lr := g.rd 31 })))
        | .inHandler =>
          .next (s.updEng core e (fun g => { g with udepth := g.udepth - 1 }.updAbort (fun a => { a with at_ := .popping })))
        | .popping =>
          if !g.replayFree t.sd || !s.commandOk core e g.seq 15 false then .next s
          else if 0 < g.udepth then .next (s.popRecord core e a)
          else .next (s.abortEnd core e t a)

end Sys2Proof.Machine
end

