-- ==== Sys2Proof/Machine/Lifecycle.lean ====
section
/-! DEFINITION. Barrier phases and limits, waiting traps, and the life of an instance and of its launch: its start, its
pre-emption, its resuming and its end; submissions and placement (R74 to R93, R107 to R117, R173, R267, R336). -/

namespace Sys2Proof.Machine

open Sys2Proof

/-! ### Barriers, limits and traps -/

/-- BARRIER_PHASE_COMPLETE: the end of a ck at a barrier of a core's instances: its arrivals are counted, and a phase may complete, for
a parked instance too (R107, R110, R336). -/
def execBarrierPhaseComplete (core : CoreId) (b : BitVec 6) (s : State) : Res :=
  .next (s.updCore core (fun k =>
    { k with inst := if k.inst.live then k.inst.settle b s.clk false else k.inst,
             parked := if k.parked.live then k.parked.settle b s.clk true else k.parked }))

/-- The ck of a limit is over: the wait ends with status 1, also one that a user-level handler interrupted (R147, R173). -/
def Eng.expireWait (g : Eng) (clk : Nat) : Eng :=
  let g := match g.wait with
    | .twait _ rd e => if e < clk then (g.wr rd 1).wake clk else g
    | _ => g
  match g.uiWait with
  | .twait _ rd e => if e < clk then { g.wrPlain rd 1 with uiWait := .woken } else g
  | _ => g

/-- BAR_TWAIT_EXPIRY (R173). -/
def execBarTwaitExpiry (core : CoreId) (e : EngId) (s : State) : Res :=
  if s.unitsLive core then .next (s.updEng core e (fun g => g.expireWait s.clk)) else .next s

/-- The waiting trap that an engine enters next: the first in program order that may be entered (R267). -/
def Eng.dueTrap (g : Eng) : Option Trap :=
  (g.traps.filter g.mayTrap).foldl (fun best x =>
    match best with
    | none => some x
    | some y => if x.seq < y.seq then some x else some y) none

/-- TRAP_ENTRY (R267). -/
def execTrapEntry (core : CoreId) (e : EngId) (s : State) : Res :=
  let g := s.engAt core e
  if !s.unitsRun core || g.frozen then .next s
  else
    match g.dueTrap with
    | none => .next s
    | some x => .next ((s.updEng core e (fun g => { g with traps := g.traps.erase x })).enterTrap core e x)

/-! ### Pre-emption (R107, R108, R113) -/

/-- An access of some engine of a core may still perform. -/
def State.accsDue (s : State) (c : CoreId) : Bool :=
  (List.finRange 5).any (fun e => (s.findPerform c e (fun a => !a.isV || a.kind.writes)).isSome)

/-- The stream of a port must move on to reach a beat boundary, and can. -/
def State.strmMoves (s : State) (c : CoreId) (p : Fin 8) : Bool :=
  match (s.portAt c p).run with
  | some st => (s.strmActs c p).any (fun a => match s.strmAct c st a with | .error .wait => false | _ => true)
  | none => false

/-- The head of a tile queue stands between two rows of an `mdrain`, or can go no further. -/
def State.tqMidRow (s : State) (c : CoreId) (q : Fin 2) : Bool := match s.tqStand c q with | some x => x.midRow | none => false

/-- The streams, the drains and the array of a core stand at the points of R107: at a beat, at a row, at the end of a pass. What its engines have issued performs when it
may, also later (R177). -/
def State.atStops (s : State) (c : CoreId) : Bool :=
  (List.finRange 8).all (fun p => !s.strmMoves c p) && (List.finRange 2).all (fun q => !s.tqMidRow c q) && (s.coreAt c).zrun.isNone

/-- Replace the bytes of a range of memory. -/
def Memory.splice (m : Memory) (a : Nat) (bs : List Byte) : Memory :=
  m.filter (fun x => decide (x.1 < a)) ++
    (bs.zipIdx).filterMap (fun x => if x.1 = Config.blankByte then none else some (a + x.2, x.1)) ++
    m.filter (fun x => decide (a + bs.length ≤ x.1))

/-- The offset in the park area of a byte of the scalar image, whose two parts follow one another (R111). -/
def imageAt (i : Nat) : Nat := if i < 0xe00 then 0x40000 + i else 0x44000 + (i - 0xe00)

/-- The bytes of the scalar image as the park area holds them. -/
def Core.image (k : Core) : List Byte := k.park.mem.readBytes 0x40000 0xe00 ++ k.park.mem.readBytes 0x44000 0x4000

/-- The hardware writes a scalar image and keeps its CRC; the image's bytes are its own (log 6). -/
def Core.writeImage (k : Core) (id : Nat) : Core :=
  let bs := (List.range 0x4e00).map (fun i => Config.imageByte id (imageAt i))
  { k with
    park := { k.park with
      mem := (k.park.mem.splice 0x40000 (bs.take 0xe00)).splice 0x44000 (bs.drop 0xe00),
      poison := unpoison (unpoison k.park.poison 8 0x40000 0xe00) 8 0x44000 0x4000 },
    imgCrc := some (crc32c bs) }

/-- The tag image of the threads whose tag words the instance holds: all, unless it has been resumed and has not owned the
register file since (R108, R111). -/
def Core.writeTags (k : Core) : Core :=
  let thread (t : Nat) : VSt := (k.inst.engs[t % 5]'(Nat.mod_lt _ (by decide))).v
  let mine (t : Nat) : Bool := k.owns || !k.inst.resumed || (thread t).inval
  let words (t : Nat) : List Byte := (thread t).tags.toList.flatMap (fun w => bytesLE 4 (w.toNat % 0x80000))
  let put (b : Buf) (t : Nat) : Buf :=
    let at_ := 0x40e00 + 0x80 * t
    if mine t then { b with mem := b.mem.splice at_ (words t), poison := unpoison b.poison 8 at_ 0x80 } else b
  { k with park := (List.range 4).foldl put k.park }

/-- An engine as it is parked. -/
def Eng.park (g : Eng) : Eng :=
  let g := g.atStop
  { g with v := { g.v with waitSince := none } }

/-- An instance as it is parked (R107, R246). -/
def Inst.park (n : Inst) (clk : Nat) : Inst :=
  { n with
    engs := n.engs.map Eng.park, tqs := n.tqs.map (fun t => { t with ents := t.ents.map TqEnt.park }),
    ports := n.ports.map (fun q => { q with run := q.run.map Strm.atStop }), stopped := true, parkedAt := clk }

/-- A core parks its running instance, which keeps the register file if it owns it (R108, R114, R153). -/
def Core.parkInst (k : Core) (clk id : Nat) : Core :=
  let k := (k.writeTags).writeImage id
  { k with
    parked := k.inst.park clk, inst := Inst.reset, preReq := false,
    owner := if k.owner == .running then .parked else k.owner, tlb := k.tlb.map (fun t => { t with parked := true }) }

/-- PRE_EMPTION: once every engine stands at its stop point the instance is parked (R107); a core whose retirement was
pending is then retired (R62). A core that is promised to no launch falls free (R81). -/
def execPreEmption (core : CoreId) (s : State) : Res :=
  let k := s.coreAt core
  if !k.preReq || s.haltedAt core then .next s
  else if !k.inst.live then .next (s.updCore core (fun k => { k with preReq := false }))
  else if !s.atStops core then .next s
  else
    let (id, s) := s.free
    let s := s.updCore core (fun k => k.parkInst s.clk id)
    let s : State := { s with links := s.links.map (fun l => if l.core == core then { l with parkedInst := true } else l) }
    .next (if k.retirePend then s.retireNow core else if k.next.isNone then { s with round := s.round + 1 } else s)

/-- PENDING_CORE_RETIREMENT: no launch holds the core any more (R62). -/
def execPendingCoreRetirement (core : CoreId) (s : State) : Res :=
  let k := s.coreAt core
  if k.retirePend && !k.heldByLaunch then .next (s.retireNow core) else .next s

/-! ### Start and resuming (R87, R110, R116, R117) -/

/-- INSTANCE_START (R87, R88): a core that a launch has been placed on starts its instance. -/
def execInstanceStart (core : CoreId) (s : State) : Res :=
  let k := s.coreAt core
  match k.next with
  | none => .next s
  | some id =>
    let l := s.launchAt id
    if k.inst.live || k.retired || s.haltedAt core || l.stopping || l.st != .running then .next s else .next (s.startInst core l)

/-- A limit moves later by the ck spent parked (R110). -/
def Wait.later (w : Wait) (d : Nat) : Wait :=
  match w with
  | .twait b rd e => .twait b rd (e + d)
  | w => w

/-- An engine as it is resumed: its limits move, a `sop` that waited judges again, its head begins again at VSTART, unless a group
still scatters, and an `unfreeze` that came while it was parked takes effect (R107, R110, R264, R274, R397). -/
def Eng.unpark (g : Eng) (d : Nat) : Eng :=
  let late (q : QConvoy) : QConvoy := { q with expiry := q.expiry.map (· + d) }
  let g := g.atStop
  { g with
    wait := g.wait.later d, uiWait := g.uiWait.later d, sopWait := none, v := { g.v with vq := g.v.vq.map late },
    aside := g.aside.map (fun a => { a with vq := a.vq.map late }), frozen := g.frozen && !g.thaw, thaw := false }

/-- A stream port as it is resumed (R274). -/
def Port.unpark (q : Port) : Port := { q with frozen := q.frozen && !q.thaw, thaw := false }

/-- Home groups and L of a resumed thread: its registers survive with the same groups and room for their length (R117). -/
def State.reshape (s : State) (c : CoreId) (t : Nat) : State :=
  let e : EngId := Fin.ofNat 5 t
  let v := (s.engAt c e).v
  let homes := homesOf (s.instAt c).quad (s.coreAt c).lanesOut t
  let l := regLen homes.length v.vregs v.vlcap
  if homes == v.homes && v.len ≤ l then s else s.moveHomes c e homes l

/-- The scalar image passes the check of R113, and can be read. -/
def Core.imageOk (k : Core) : Bool :=
  let bad := k.park.bad blkS
  k.imgCrc == some (crc32c k.image) && !poisoned bad 8 0x40000 0xe00 && !poisoned bad 8 0x44000 0x4000

/-- INSTANCE_RESUME (R108, R113, R117). -/
def execInstanceResume (core : CoreId) (s : State) : Res :=
  let k := s.coreAt core
  if !k.resumeReq || k.inst.live || k.retired || s.haltedAt core then .next s
  else
    let p := k.parked
    let l := s.launchAt p.launch
    if !p.live || l.stopping then .next s
    else if !k.imageOk then
      .next ((s.updCore core (fun k => { k with resumeReq := false })).fatal p.launch 1 0x0c (p.lx + l.rec_.w * p.ly) 0)
    else
      let d := s.clk - p.parkedAt
      let s := s.updCore core (fun k =>
        { k with
          inst := { p with engs := p.engs.map (fun g => g.unpark d), ports := p.ports.map Port.unpark, resumed := true, stopped := false }, parked := Inst.reset, resumeReq := false,
          imgCrc := none, owner := if k.owner == .parked then .running else k.owner,
          tlb := k.tlb.map (fun t => { t with parked := false }) })
      let s := { s with links := s.links.map (fun l => if l.core == core then { l with parkedInst := false } else l) }
      .next ((List.range 4).foldl (fun s t => s.reshape core t) s)

/-! ### Ends (R62, R83, R93, R143) -/

/-- A command of the instance on a core is with a Factor, a routing engine, an allocator or the dispatcher (R93, R170). -/
def State.cmdsOut (s : State) (c : CoreId) : Bool :=
  let id := (s.instAt c).launch
  s.dies.toList.any (fun d => d.gate.any (fun g => g.core == c && g.launch == id) || d.route.any (fun k => k.core == c && k.launch == id)) ||
    s.parts.toList.any (fun p => p.pool.cmds.any (fun k => k.core == c && k.launch == id)) ||
    s.subs.any (fun b => b.core == some c && b.parent == id) || (s.coreAt c).reels.any (fun r => r.launch == id) ||
    (s.coreAt c).gangArr.any (fun r => r.1 == id)

/-- Everything that the Caller's `halt` waits for has come to its end (R92, R93). -/
def State.instDone (s : State) (c : CoreId) : Bool :=
  let n := s.instAt c
  let g := s.engAt c callerId
  s.unitsRun c && g.running && !g.frozen && g.wait == .halting && g.traps.isEmpty && !n.runningIn 15 &&
    n.tqs.toList.all (fun t => t.ents.isEmpty) && n.ports.toList.all (fun q => q.run.isNone && q.list.isEmpty) &&
    n.engs.toList.all (fun g => g.accs.isEmpty) && !s.cmdsOut c

/-- The status word that a register of either bank holds (R148). -/
def Eng.statWord (g : Eng) (t : StatReg) : Word :=
  if t.shadow then g.shadow[(t.reg.toNat - 24) % 6]'(Nat.mod_lt _ (by decide)) else g.regs[t.reg.toNat]'(t.reg.isLt)

/-- A status word that the Caller named holds STATE 3 and no instruction has read it (R143). -/
def Eng.unreadError (g : Eng) : Bool := g.stats.any (fun t => !t.read && fieldW (g.statWord t) 63 62 == 3)

/-- An instance has come to its end: it owns no register file any more, no block of it is dirty, and its translations are dropped (R93,
R114, R153). -/
def Core.finished (k : Core) : Core :=
  { k with inst := { k.inst.clean with ending := true }, tlb := k.tlb.filter (·.parked), owner := if k.owner == .running then .nobody else k.owner }

/-- INSTANCE_END (R93, R143). -/
def execInstanceEnd (core : CoreId) (s : State) : Res :=
  if !s.instDone core then .next s
  else if (s.engAt core callerId).unreadError then
    .next (s.fatal (s.instAt core).launch 1 0x13 (s.lidx core) callerId.val)
  else .next (s.updCore core Core.finished)

/-- A launch may end now: every instance has come to its end (R93), or it was stopped, the accesses of its engines that may perform
have performed, and no other fatal end of the same ck can come before the one that it reports (R83, R271). -/
def State.mayEnd (s : State) (l : Launch) : Bool :=
  (l.st == .running || l.st == .parked) && (!l.stopping || l.status != 1 || l.fatalAt < s.clk) &&
    l.coreList.all (fun c =>
      let k := s.coreAt c
      let here := k.inst.live && k.inst.launch == l.id
      let there := k.parked.live && k.parked.launch == l.id
      if l.stopping then
        !(here && (s.accsDue c || (List.finRange 8).any (s.strmMoves c))) && !(there && (s.swapInst c).accsDue c)
      else k.next != some l.id && ((here && k.inst.ending) || (there && k.parked.ending)))

/-- LAUNCH_END (R83): its commands that have not completed go with it. -/
def execLaunchEnd (id : Nat) (s : State) : Res :=
  let l := s.launchAt id
  if !s.mayEnd l then .next s
  else
    let s : State := { s with
      dies := s.dies.map (fun (d : Die) => { d with route := d.route.filter (fun k => k.launch != id) }),
      parts := s.parts.map (fun (p : Part) =>
        { p with pool := { p.pool with cmds := p.pool.cmds.filter (fun k => k.launch != id) } }) }
    .next (s.endLaunch l)

/-! ### Submissions (R74 to R78) -/

/-- LAUNCH_PORT_SUBMIT: a system core's write of its LREC (R75), while it runs: core 0 from the boot on, the others once step 6 has
released them (R51), none while the package is halted (R282). -/
def execLaunchPortSubmit (port : Fin 16) (v : Word) (s : State) : Res :=
  .next (if s.hub.halted || (port != 0 && s.hub.boot != .running) then s else s.portSubmit port v)

/-- The place of a submission among those of one ck: launch ports, then compute cores (R78). -/
def Submission.rank (b : Submission) : Nat :=
  match b.core with
  | some c => 16 + c.val
  | none => match b.port with | some p => p.val | none => 0

/-- The submission that is taken next. -/
def firstSub : List Submission → Option Submission
  | [] => none
  | b :: rest =>
    match firstSub rest with
    | none => some b
    | some x => if x.at_ < b.at_ || (x.at_ = b.at_ && x.rank < b.rank) then some x else some b

/-- The record of a submission, as its bytes, or none if it cannot be read. -/
def State.subBytes (s : State) (b : Submission) : Option (List Byte) :=
  match b.recBytes with
  | some bs => some bs
  | none => match s.readPhys noPart b.addr 64 b.addr with | .ok bs => some bs | .error _ => none

/-- A `launch` asks for what its parent may not give (R77). -/
def childBad (parent r : LRec) : Bool := r.ptroot != 0 || r.part != parent.part || (!parent.fg && r.fg)

/-- The status of a submission (R76): the first refusal, or 0. -/
def State.judgeSub (s : State) (b : Submission) (bs : Option (List Byte)) : Nat :=
  match bs with
  | none => 6
  | some bs =>
    let r := parseRec bs
    if recBad bs then 2
    else if b.core.isSome && childBad (s.launchAt b.parent).rec_ r then 5
    else
      match (if r.part < 16 then s.partDef r.part else none) with
      | none => 4
      | some d =>
        if d.w < r.w || d.h < r.h then 3
        else if 64 ≤ (s.launches.filter (fun l => l.st == .queued && l.rec_.queue == r.queue)).length then 1
        else 0

/-- The launch that an accepted submission becomes (R74, R77). -/
def State.launchFrom (s : State) (b : Submission) (bs : List Byte) : Launch :=
  let r := parseRec bs
  let who : Submitter := match b.core, b.tag, b.port with
    | some c, _, _ => .core c
    | none, some t, _ => t.1
    | none, none, some p => .runtime p
    | none, none, none => .host
  { blankLaunch with
    id := s.nextId, rec_ := if b.core.isSome then { r with ptroot := (s.launchAt b.parent).rec_.ptroot } else r, by_ := who,
    reqTag := match b.tag with | some t => t.2 | none => 0, st := .queued }

/-- The answer to a submission: LRES, the rd of `launch`, or the response to a refused request (R70, R75, R78). -/
def State.answerSub (s : State) (b : Submission) (status : Nat) : State :=
  let s := match b.port with
    | some p => { s with hub := { s.hub with
        lres := s.hub.lres.set p.val status p.isLt, lbusy := s.hub.lbusy.set p.val false p.isLt } }
    | none => s
  let s := match b.core with
    | some c =>
      (match s.instFor b.parent c with
      | some parked => s.updInstP c parked (fun n => n.updEng callerId (fun g => g.landAt b.seq b.rd (wordN status)))
      | none => s)
    | none => s
  match b.tag with
  | some t =>
    -- the request that stood at the head of those accepted has been dealt with (R70)
    let s : State := { s with mbox := { s.mbox with reqs := s.mbox.reqs.drop 1 } }
    if status = 0 then s else s.respond t.1 1 (16 + status) t.2 0
  | none => s

/-- The dispatcher may take a submission in this ck: it has taken none in it, and what was presented in an earlier ck, or what
has been presented in this one once the ck is over, stands in order, and no placement round is still due (R78, R81). -/
def State.mayTake (s : State) (b : Submission) : Bool := s.takenAt != some s.clk && s.round == 0 && decide (b.at_ < s.clk)

/-- SUBMISSION_TAKE (R76, R78): the earliest presented is accepted or refused, one a ck, once the ck in which it was presented
is over, so that all of that ck are there to be ordered (log 79). -/
def execSubmissionTake (s : State) : Res :=
  match firstSub s.subs with
  | none => .next s
  | some b =>
    if !s.mayTake b || s.hub.halted then .next s
    else
    let s : State := { s with subs := s.subs.erase b, takenAt := some s.clk }
    let bs := s.subBytes b
    let status := s.judgeSub b bs
    let s := if status = 0 then
        { s with launches := s.launches ++ [s.launchFrom b (bs.getD [])], nextId := s.nextId + 1, round := s.round + 1 }
      else s
    .next (s.answerSub b status)

/-- PLACEMENT_ROUND (R81): one is due when a core has fallen free or a launch has been accepted. -/
def execPlacementRound (s : State) : Res := if 0 < s.round && !s.hub.halted then .next s.placementRound else .next s

/-- SPLIT_APPLY: a waiting SPLIT takes effect on a core that holds no instance (R89). -/
def execSplitApply (core : CoreId) (s : State) : Res := .next (s.updCore core Core.settleIdle)

end Sys2Proof.Machine
end

