-- ==== Sys2Proof/Machine/Device.lean ====
section
/-! DEFINITION. The events of the package around the cores: register writes and repair commands, notifications, partition
resets, UCIe edges, CXL removal, power and temperature, and the debug halt (R4, R17, R27, R39, R40, R58 to R66, R272, R282,
R284, R349). -/

namespace Sys2Proof.Machine

open Sys2Proof

/-- What a system core does, unless the debug port has stopped it (R282). -/
def State.unlessHalted (s t : State) : Res := .next (if s.hub.halted then s else t)

/-! ### Registers (R4, R66, R272, R284, R349) -/

/-- REGISTER_WRITE: a supervisor's write of device registers (R4, R474). -/
def execRegisterWrite (addr bytes : Nat) (v : Word) (s : State) : Res :=
  s.unlessHalted (if devBase ≤ addr then s.devWrite addr bytes v else s)

/-- TRC_WRITE (R284). -/
def execTrcWrite (core : CoreId) (v : Word) (s : State) : Res := s.unlessHalted (s.updCore core (fun k => k.writeTrc v))

/-- HEALTH_WORD: a write of the health word; 0 is ignored (R66). -/
def execHealthWord (v : Word) (s : State) : Res := s.unlessHalted (s.devWrite (devBase + 0x1008) 8 v)

/-- UNFREEZE_REGISTER (R274, R349). -/
def execUnfreezeRegister (master : BitVec 32) (s : State) : Res :=
  let (r, t) := s.unfreeze master none
  s.unlessHalted { t with hub := { t.hub with unfreezeRes := r } }

/-- NOTIFICATION_POP: the read of the queue's first register (R272). -/
def execNotificationPop (s : State) : Res := s.unlessHalted s.popNotif.2

/-! ### Repair commands (R58, R60 to R62) -/

/-- RETIRE_CORE (R62). -/
def execRetireCore (target : BitVec 11) (s : State) : Res := s.unlessHalted (s.repair 1 target)
/-- RETIRE_LANE_GROUP (R62). -/
def execRetireLaneGroup (target : BitVec 11) (s : State) : Res := s.unlessHalted (s.repair 2 target)
/-- RETIRE_CHANNEL (R62). -/
def execRetireChannel (target : BitVec 11) (s : State) : Res := s.unlessHalted (s.repair 3 target)
/-- RETIRE_PORT (R62). -/
def execRetirePort (target : BitVec 11) (s : State) : Res := s.unlessHalted (s.repair 4 target)
/-- RESET_PARTITION (R58). -/
def execResetPartition (target : BitVec 11) (s : State) : Res := s.unlessHalted (s.repair 5 target)
/-- RE_IMAGE_PARTITION (R58). -/
def execReImagePartition (target : BitVec 11) (s : State) : Res := s.unlessHalted (s.repair 6 target)
/-- REPAIR_BAD_OPERATION: operations 0 and 7 to 15 only set STATUS 3 (R60). -/
def execRepairBadOperation (op : BitVec 4) (target : BitVec 11) (s : State) : Res :=
  s.unlessHalted (if op == 0 || 7 ≤ op.toNat then s.repair op target else s)

/-- PARTITION_RESET_COMPLETE: once every launch with a core in the rectangle has ended and its submitter has been told (R58). -/
def execPartitionResetComplete (part : Fin 16) (s : State) : Res :=
  let x := s.parts[part]
  match x.resetting, x.pdef with
  | some reimage, some d =>
    if d.cores.any (fun c => (s.coreAt c).occupied) then .next s
    else if (List.finRange 32).any (fun q => d.ports.getLsbD q.val && s.ports[q].answers) then .next s
    else .next (s.finishReset part.val d reimage)
  | _, _ => .next s

/-! ### UCIe edges (R15, R17) -/

/-- Two dies share an edge: compute dies in two rows of four, hub die 0 (8) west of dies 0 and 4, hub die 1 (9) east of dies
3 and 7 (R15). -/
def dieEdge (a b : Nat) : Bool :=
  (b = a + 1 && b < 8 && a != 3) || (b = a + 4 && b < 8) || (b = 8 && (a = 0 || a = 4)) || (b = 9 && (a = 3 || a = 7))

/-- An edge of the package, its lower die first. -/
def edgeOf (a b : Fin 10) : Option (Fin 10 × Fin 10) :=
  if dieEdge a.val b.val then some (a, b) else if dieEdge b.val a.val then some (b, a) else none

/-- UCIE_RETRAIN: traffic on the edge stalls, which only delays it (R17; log 30). -/
def execUcieRetrain (a b : Fin 10) (s : State) : Res :=
  match edgeOf a b with
  | some e => .next (if s.edges.contains e then s else { s with edges := e :: s.edges })
  | none => .next s

/-- UCIE_RETRAINING_END (R17). -/
def execUcieRetrainingEnd (a b : Fin 10) (s : State) : Res :=
  match edgeOf a b with
  | some e => .next { s with edges := s.edges.erase e }
  | none => .next s

/-- UCIE_RETRAINING_FAILURE: every launch with a core on either die ends (R17, R272). R272 gives the notification's master the
type of a die and names neither which of the two nor an address: the model names the lower one, and address 0 (log 83). -/
def execUcieRetrainingFailure (a b : Fin 10) (s : State) : Res :=
  match edgeOf a b with
  | none => .next s
  | some e =>
    if !s.edges.contains e then .next s
    else
      let on (c : CoreId) : Bool := (dieOf c).val == e.1.val || (dieOf c).val == e.2.val
      let hit := s.launches.filter (fun l => (l.st == .running || l.st == .parked) && l.coreList.any on)
      let s := hit.foldl (fun s l => s.fatal l.id 1 0x0c 0 0) { s with edges := s.edges.erase e }
      .next (s.notify { kind := 5, ecode := 0, part := 0xff, master := masterWord 6 e.1.val 0, addr := 0 })

/-! ### CXL (R27) -/

/-- The physical address of a waiting access, if it has one. -/
def State.accPa (s : State) (c : CoreId) (a : Acc) : Option Nat :=
  match a.loc with
  | some (.g pa) => some pa
  | some _ => none
  | none =>
    if a.isAccess then
      match s.resolve c a.sup a.sp a.addr a.bytes a.kind.reads a.kind.writes with
      | .ok (.g pa) => some pa
      | _ => none
    else none

/-- A physical address lies in the window of a CXL port (R22). -/
def inCxl (port : Fin 8) (pa : Nat) : Bool :=
  0x100000000000 + 0x20000000000 * port.val ≤ pa && pa < 0x100000000000 + 0x20000000000 * (port.val + 1)

/-- A place in G that an access of a core's running instance goes to lies in the window of a CXL port. -/
def State.toCxl (s : State) (port : Fin 8) (c : CoreId) (a : Word) (len need : Nat) : Bool :=
  match s.xlateUser c a.toNat len need with
  | .ok pa => inCxl port pa
  | .error _ => false

/-- A unit that a stream has issued goes to a CXL window next: to read, or to write what it has read. -/
def State.pieceCxl (s : State) (port : Fin 8) (c : CoreId) (st : Strm) (p : Piece) : Bool :=
  if p.got.isNone then st.spaces.1 == 0 && s.toCxl port c p.src p.len permR
  else st.spaces.2 == 0 && s.toCxl port c p.dst p.len permW

/-- What the running instance of a core has outstanding to a CXL window that has no device any more: an access of an engine will find
uncorrectable data, and a stream ends with error code 3 (R27, R142). -/
def State.cxlLost (s : State) (port : Fin 8) (c : CoreId) : State :=
  let acc (a : Acc) : Acc :=
    match s.accPa c a with
    | some pa => if inCxl port pa then { a with gone := true, loc := some (.g pa) } else a
    | none => a
  let strm (st : Strm) : Strm :=
    if st.flight.any (s.pieceCxl port c st) then { st with err := 3, flight := [], grips := [] } else st
  s.updInst c (fun n =>
    { n with
      engs := n.engs.map (fun g => { g with accs := g.accs.map acc }),
      ports := n.ports.map (fun q => { q with run := q.run.map strm }) })

/-- A unit that an engine of a die has still to write goes to a CXL window. -/
def Put.toCxl (p : Put) (port : Fin 8) : Bool := inCxl port p.pa

/-- The units that the dies' engines have still to write to a CXL window are lost: a routing command that has one ends with error code
3, an entry of a Factor in error, and a row that lands is refused, as one whose place holds uncorrectable data; an allocator makes its
accesses one after another, and finds no memory there (R24, R27, R220, R226; log 28). -/
def State.putsLost (s : State) (port : Fin 8) : State :=
  let out (ps : List Put) : List Put := ps.filter (fun p => !p.toCxl port)
  let route (k : RouteCmd) : RouteCmd :=
    let j : RouteCmd := { k with puts := out k.puts }
    match k.puts.find? (fun p => p.toCxl port) with
    | some p => j.fail 3 p.va
    | none => j
  let s : State := { s with
    dies := s.dies.map (fun (d : Die) => { d with route := d.route.map route }) }
  let s := (List.range s.rows.length).reverse.foldl (fun s n =>
    match s.rows[n]? with
    | some r =>
      (match r.puts.find? (fun p => p.toCxl port) with
      | some p => s.refuseAt n (if r.combine && r.die < 8 then Fin.ofNat 8 r.die else dieOf ((s.launchAt r.launch).coreOf r.core)) r p.va
      | none => s)
    | none => s) s
  (List.finRange 8).foldl (fun s d =>
    match s.dies[d].gate with
    | [] => s
    | g :: _ => if g.puts.any (fun p => p.toCxl port) then s.gateError d g 0 else s) s

/-- CXL_SURPRISE_REMOVAL: what is outstanding to the window completes as uncorrectable, and the window then has no device (R27). -/
def execCxlSurpriseRemoval (port : Fin 8) (s : State) : Res :=
  if s.cxl[port].isNone then .next s
  else
    let s := (List.finRange 320).foldl (fun s c =>
      let s := if (s.coreAt c).inst.live then s.cxlLost port c else s
      s.asParked c (fun t => t.cxlLost port c)) s
    let s := s.putsLost port
    let size := 0x20000000000
    .next { s with
      cxl := s.cxl.set port.val none port.isLt, poison := s.poison.filter (fun a => !inCxl port a),
      mem := s.mem.clear (0x100000000000 + size * port.val) size }

/-! ### Power and temperature (R39, R40) -/

/-- POWER_ESTIMATE: the controller's estimate of VCORE current; above the limit it delays tile passes (R39). -/
def execPowerEstimate (amps : Nat) (s : State) : Res := .next { s with hub := { s.hub with estimate := amps } }

/-- A die's hottest junction, with its notification of kind 7 (R40, R272). -/
def State.thermal (s : State) (die : Fin 10) (celsius : BitVec 8) (hot : Bool) (what : Nat) : State :=
  ({ s with hub := { s.hub with
      temps := s.hub.temps.set die.val celsius die.isLt, hots := s.hub.hots.set die.val hot die.isLt } } : State).notify
    { kind := 7, ecode := 0, part := 0xff, master := masterWord 6 die.val 0, addr := wordN (celsius.toNat + what * 256) }

/-- THERMAL_THROTTLE_ENTER: a die reaches 105 °C (R40). -/
def execThermalThrottleEnter (die : Fin 10) (celsius : BitVec 8) (s : State) : Res :=
  if 105 ≤ celsius.toNat && !s.hub.hots[die] then .next (s.thermal die celsius true 1) else .next s

/-- THERMAL_THROTTLE_LEAVE (R40). -/
def execThermalThrottleLeave (die : Fin 10) (celsius : BitVec 8) (s : State) : Res :=
  if celsius.toNat < 105 && s.hub.hots[die] then .next (s.thermal die celsius false 2) else .next s

/-- THERMAL_HALT: a die reaches 115 °C; every compute core halts until its partition is reset (R40). -/
def execThermalHalt (die : Fin 10) (celsius : BitVec 8) (s : State) : Res :=
  if 115 ≤ celsius.toNat && ((s.hub.temps[die]).toNat < 115 || s.cores.any (fun k => !k.halted)) then
    let s : State := { s with cores := s.cores.map (fun (k : Core) => { k with halted := true }) }
    .next (s.thermal die celsius s.hub.hots[die] 3)
  else .next s

/-! ### Debug (R36, R282) -/

/-- DEBUG_HALT (R282). -/
def execDebugHalt (s : State) : Res := .next { s with hub := { s.hub with halted := true } }

/-- DEBUG_RESUME (R282): the ports grant what has fallen free (R34). -/
def execDebugResume (s : State) : Res :=
  let s : State := { s with hub := { s.hub with halted := false } }
  .next ((List.finRange 32).foldl (fun s p => s.sendGrants p) s)

end Sys2Proof.Machine
end

