-- ==== Sys2Proof/Machine/Mailbox.lean ====
section
/-! DEFINITION. Requests and their responses: the mailbox, requests over Birotte, and what the runtime does with each
(R47, R50, R56, R67 to R71, R84). -/

namespace Sys2Proof.Machine

open Sys2Proof

/-! ### Taking requests (R68 to R71) -/

/-- The op of a request. -/
def Request.op (r : Request) : Nat := fieldLE r.bytes 0 1

/-- The tag of a request. -/
def Request.tag (r : Request) : BitVec 32 := BitVec.ofNat 32 (fieldLE r.bytes 4 4)

/-- A request is malformed: a reserved op, or a reserved byte of its header that is not zero (R69, R70; log 32). -/
def Request.bad (r : Request) : Bool := r.op = 0 || 5 < r.op || !zeroBytes r.bytes 1 3 || !zeroBytes r.bytes 8 8

/-- The runtime runs. -/
def State.runtime (s : State) : Bool := s.hub.boot == .running && !s.hub.halted

/-- Answer a request. -/
def State.answer (s : State) (r : Request) (status : Nat) : State := s.respond r.by_ r.op status r.tag 0

/-- The runtime accepts a request: it waits behind those accepted before it, or is malformed and answered (R70). -/
def State.accept (s : State) (r : Request) : State :=
  if r.bad then s.answer r 2 else { s with mbox := { s.mbox with reqs := s.mbox.reqs ++ [r] } }

/-- MAILBOX_POLL: the next request of the ring, while no response waits (R68). A request is accepted once those before it
have been dealt with, so that responses keep the order of acceptance (R70). -/
def execMailboxPoll (s : State) : Res :=
  let m := s.mbox
  if !s.runtime || !s.hub.mboxOn || m.st != 1 || !m.waiting.isEmpty || !m.reqs.isEmpty || m.reqpi == m.reqci then .next s
  else
    let r : Request := { by_ := .host, bytes := m.rings.readBytes (0x1000 + 128 * (m.reqci.toNat % 256)) 128 }
    .next (({ s with mbox := { m with reqci := m.reqci + 1 } } : State).accept r)

/-- BIROTTE_REQUEST: the next request that has arrived on a port, while no response waits (R68, R71). -/
def execBirotteRequest (port : Fin 32) (s : State) : Res :=
  match s.ports[port].reqs with
  | [] => .next s
  | (spkg, bs) :: rest =>
    if !s.runtime || !s.mbox.reqs.isEmpty || !s.mbox.waiting.isEmpty then .next s
    else
      .next (((s.updPort port (fun b => { b with reqs := rest })).freeBeats port 6 2).accept { by_ := .pkg port spkg, bytes := bs })

/-- RESPONSE_RELEASE: a response that found the ring full enters it (R68), unless the debug port has stopped the system cores
(R282). -/
def execResponseRelease (s : State) : Res :=
  let m := s.mbox
  match m.waiting with
  | [] => .next s
  | bs :: rest =>
    if s.hub.halted || m.rspci.toNat + 256 ≤ m.rsppi.toNat then .next s
    else
      .next { s with mbox := { m with
        waiting := rest, rings := m.rings.writeBytes (0x9000 + m.rsppi.toNat % 256 * 32) bs, rsppi := m.rsppi + 1,
        msix := m.msix + 1 } }

/-- The request that the runtime deals with next, if it has an op; and the state without it. -/
def State.nextReq (s : State) (op : Nat) : Option (Request × State) :=
  match s.mbox.reqs with
  | [] => none
  | r :: rest => if s.runtime && r.op = op then some (r, { s with mbox := { s.mbox with reqs := rest } }) else none

/-! ### Requests (R69, R70) -/

/-- SUBMIT_LAUNCH: the record goes to the dispatcher, which answers through SUBMISSION_TAKE. The request stays the runtime's
oldest until then, so that a refusal is answered in its place (R70). -/
def execSubmitLaunch (s : State) : Res :=
  match s.nextReq 1 with
  | none => .next s
  | some (r, _) =>
    if s.subs.any (fun b => b.tag.isSome) then .next s
    else
    let sub : Submission :=
      { port := none, core := none, parent := 0, addr := 0, recBytes := some (cut r.bytes 16 64), rd := 0, seq := 0,
        tag := some (r.by_, r.tag), at_ := s.clk }
    .next { s with subs := s.subs ++ [sub] }

/-- Two requests come from one submitter: the host, or one package over whatever port (R71). -/
def Submitter.same : Submitter → Submitter → Bool
  | .host, .host => true
  | .pkg _ a, .pkg _ b => a == b
  | _, _ => false

/-- The launch of a submitter that a tag names and a cancel may still end (R84): the first accepted, where several of its
launches carry the tag (log 81). -/
def State.cancelTarget (s : State) (who : Submitter) (tag : BitVec 32) : Option Launch :=
  s.launches.find? (fun l => l.by_.same who && l.rec_.tag == tag && l.st != .ended && !l.stopping)

/-- CANCEL_LAUNCH (R84). -/
def execCancelLaunch (s : State) : Res :=
  match s.nextReq 2 with
  | none => .next s
  | some (r, s) =>
    match s.cancelTarget r.by_ (BitVec.ofNat 32 (fieldLE r.bytes 16 4)) with
    | none => .next (s.answer r 1)
    | some l =>
      let s := (s.fatal l.id 2 0 0 0).answer r 0
      .next (if l.st == .queued then s.endLaunch (s.launchAt l.id) else s)

/-- The attestation report for a nonce: 260 bytes and their signature (R56). -/
def State.report (s : State) (nonce : List Byte) (k : Nat) : List Byte :=
  let h := s.hub
  let body := slice nonce 0 32 ++ h.ident ++ h.devPub ++ bytesLE 2 (Config.stepping % 65535 + 1) ++ bytesLE 2 1 ++ h.meas.toList.flatten
  body ++ signP256 h.devPriv (Config.nonce k) body

/-- ATTEST: the report is written to the host, or the write fails (R56, R70). -/
def execAttest (written : Bool) (s : State) : Res :=
  match s.nextReq 3 with
  | none => .next s
  | some (r, s) =>
    if !written then .next (s.answer r 3)
    else
      let (k, s) := s.free
      let s := { s with hostMem := s.hostMem.writeBytes (fieldLE r.bytes 48 8) (s.report (cut r.bytes 16 32) k) }
      .next (s.answer r 0)

/-- The bytes of the host's memory at the address that a request gives, or none where the read fails (R69). -/
def State.hostBytes (s : State) (r : Request) (read : Bool) (len : Nat) : Option (List Byte) :=
  if read then some (s.hostMem.readBytes (fieldLE r.bytes 16 8) len) else none

/-- CONFIGURATION_RECORD: the record that the host's memory holds at the request's address, unless the read fails; an accepted
one is written to the flash, and once it stands there the request is answered (R47, R69, R70). -/
def execConfigurationRecord (read : Bool) (s : State) : Res :=
  match s.nextReq 4 with
  | none => .next s
  | some (r, t) =>
    match s.hub.recNew with
    | some x => .next (({ t with hub := { t.hub with record := some x, recNew := none } } : State).answer r 0)
    | none =>
      match s.hostBytes r read recLen with
      | none => .next (t.answer r 3)
      | some bs =>
        if recordOk s.hub.record bs then .next { s with hub := { s.hub with recNew := some bs } } else .next (t.answer r 4)

/-- POWER_FAIL: a record that was being written is the old one or the new one, and the package starts from nothing (R47). -/
def State.powerFail (s : State) (keepOld : Bool) (fresh : State) : State :=
  match s.hub.recNew with
  | some r => if keepOld then fresh else { fresh with hub := { fresh.hub with record := some r } }
  | none => fresh

/-- RUNTIME_IMAGE: the image that the host's memory holds at the request's address, in its length, unless the read fails (R50,
R63, R69, R70). -/
def execRuntimeImage (read : Bool) (s : State) : Res :=
  match s.nextReq 5 with
  | none => .next s
  | some (r, s) =>
    let long := decide (0x10000000 + 256 < fieldLE r.bytes 24 4)
    match (if long then none else s.hostBytes r read (fieldLE r.bytes 24 4)) with
    | none => .next (s.answer r 3)
    | some img =>
      if imageOk s.hub.record 1 img then .next ((s.answer r 0).updateFirmware img)
      else if imageOk s.hub.record 2 img then .next ((({ s with hub := { s.hub with rtNext := some img } } : State)).answer r 0)
      else .next (s.answer r 5)

end Sys2Proof.Machine
end

