-- ==== Sys2Proof/Machine/Moves.lean ====
section
/-! DEFINITION. The moves of the outside world and of the runtime that no row of the opcode table names (R24 to R27,
R37, R39, R51, R55, R57, R67, R276, R277). -/

namespace Sys2Proof.Machine

open Sys2Proof

/-- A write of the mailbox by the PCIe host (R67): REQPI and RSPCI take the bytes of a write that covers them whole, and a
narrower one leaves them; both rings take bytes; everything else ignores writes (log 86). -/
def State.hostWrite (s : State) (off : Nat) (bs : List Byte) : Res :=
  if 0x10000 < off + bs.length then .fault .outsideMailbox
  else
    let m := s.mbox
    let index (at_ : Nat) (old : Word) : Word :=
      if off ≤ at_ && at_ + 8 ≤ off + bs.length then wordN (fieldLE bs (at_ - off) 8) else old
    let lo := Nat.max off 0x1000
    .next { s with mbox := { m with
      reqpi := index 0 m.reqpi, rspci := index 0x18 m.rspci, rings := m.rings.writeBytes lo (cut bs (lo - off) (0xb000 - lo)) } }

/-- A byte of the mailbox as the host reads it: the indices, STATE, the rings, and zero at every offset not listed (R67). -/
def Mailbox.byte (m : Mailbox) (o : Nat) : Byte :=
  let reg (v : Word) : Byte := BitVec.ofNat 8 (v.toNat / 2 ^ (8 * (o % 8)))
  match o / 8 with
  | 0 => reg m.reqpi
  | 1 => reg m.reqci
  | 2 => reg m.rsppi
  | 3 => reg m.rspci
  | 4 => reg (wordN m.st)
  | _ => if 0x1000 ≤ o && o < 0xb000 then m.rings.read o else 0

/-- A read of the mailbox by the PCIe host, which keeps what it has read (R67). -/
def State.hostRead (s : State) (off len : Nat) : Res :=
  if 0x10000 < off + len then .fault .outsideMailbox
  else .next { s with hostSeen := (List.range len).map (fun i => s.mbox.byte (off + i)) }

/-- Mark a protected word uncorrectable, if it is memory (R25, R276). -/
def State.poisonWord (s : State) (pa : Nat) : State :=
  if s.populated noPart (pa / 32 * 32) 32 then
    { s with poison := insertNat (pa / 32 * 32) s.poison,
             links := s.links.filter (fun k => k.line != .g (pa / 64 * 64)) }
  else s

/-- Mark an 8-byte word of a core's buffer uncorrectable, by the space codes 1, 3, 4 and 6; the park area follows S, as a
supervisor's S addresses have it (R111, R123, R265, R276). -/
def State.poisonBuf (s : State) (c : CoreId) (sp off : Nat) : State :=
  let bad (b : Buf) : Buf := { b with poison := insertNat (off / 8 * 8) b.poison }
  match sp with
  | 1 =>
    if 0x200000 ≤ off then s.updCore c (fun k => { k with park := { k.park with
      poison := insertNat ((off - 0x200000) / 8 * 8) k.park.poison } })
    else
    { s.updCore c (fun k => { k with bufS := bad k.bufS }) with
      links := s.links.filter (fun k => k.line != .s c (off / 64 * 64)) }
  | 3 => s.updCore c (fun k => { k with bufX := bad k.bufX })
  | 4 => s.updCore c (fun k => { k with bufW := bad k.bufW })
  | 6 => s.updCore c (fun k => { k with bufZ := bad k.bufZ })
  | _ => s

/-- The state after a reset of hub die 0: as `State.reset`, but for what flash holds and the count of resets (R51,
log 11). -/
def State.restart (s : State) : State :=
  let h := s.hub
  { State.reset with
    agenda := s.agenda, freeCtr := s.freeCtr, hostMem := s.hostMem, cxl := s.cxl,
    hub := { Hub.reset with
      resets := h.resets + 1, record := h.record, slotA := h.slotA, slotB := h.slotB, selB := h.selB,
      validA := h.validA, validB := h.validB } }

/-- POWER_FAIL (R47). -/
def execPowerFail (keepOld : Bool) (s : State) : Res := .next (s.powerFail keepOld s.restart)

/-- A partition's definition is one that R57 allows: an aligned rectangle on the package that shares no core, channel or port
with another partition's. -/
def State.partFits (s : State) (p : Fin 16) (d : PartDef) : Bool :=
  0 < d.w && 0 < d.h && d.x0 % d.w = 0 && d.y0 % d.h = 0 && d.x0 + d.w ≤ 20 && d.y0 + d.h ≤ 16 &&
    (List.finRange 16).all (fun q =>
      q == p || match s.parts[q].pdef with
        | none => true
        | some x => d.chans &&& x.chans == 0 && d.ports &&& x.ports == 0 && (List.finRange 320).all (fun c => !(d.hasCore c && x.hasCore c)))

/-- Define a partition, or undefine it (R57). -/
def State.definePart (s : State) (p : Fin 16) (d : Option PartDef) : State :=
  if match d with | some d => s.partFits p d | none => true then s.updPart p.val (fun x => { x with pdef := d }) else s

/-- A core has something to do before this ck is over: the end of the ck at a barrier, a share window that begins, or a lane group's
choice (R101, R102, R336). -/
def State.ckDue (s : State) (c : CoreId) : Bool :=
  let k := s.coreAt c
  let bars (n : Inst) : Bool := n.live && n.bars.any (fun b => b.due s.clk)
  bars k.inst || bars k.parked || s.windowDue c || s.choiceDue c || s.mergeDue c

/-- A core will have something to do in the next ck: a phase that is to complete, or a head that waits for a slot (R102, R336). -/
def State.ckNext (s : State) (c : CoreId) : Bool :=
  let k := s.coreAt c
  let bars (n : Inst) : Bool := n.live && n.bars.any (fun b => b.init && b.exp ≤ b.cnt)
  bars k.inst || bars k.parked || (List.range 4).any (fun t => s.headReady c (threadId t))

/-- The ck that may pass of `n`: none while a core has something to do in this one, or the package is halted; with an instance live, no
more than the share window still has (R101, R282). -/
def State.ckPass (s : State) (n : Nat) : Nat :=
  if s.hub.halted || (List.finRange 320).any s.ckDue then 0
  else if (List.finRange 320).any s.ckNext then Nat.min n 1
  else if s.cores.any (fun k => k.inst.live) then Nat.min n (256 - s.clk % 256)
  else n

/-- What the runtime does, while it runs (R51, R282). -/
def State.ifRuntime (s t : State) : State := if s.runtime then t else s

/-- A move of the outside world. Issues and events are no part of this (Step.lean). -/
def State.outside (s : State) (m : Move) : Res :=
  match m with
  | .issue _ _ => .next s
  | .ev _ => .next s
  | .hostWrite off bs => s.hostWrite off bs
  | .hostRead off len => s.hostRead off len
  | .hostMem a bs => .next { s with hostMem := s.hostMem.writeBytes a bs }
  | .definePart p d => .next (s.ifRuntime (s.definePart p d))
  | .setPkg n => .next (s.ifRuntime (if n == 0xffff then s else { s with hub := { s.hub with pkg := n } }))
  | .setLimit a => .next (s.ifRuntime { s with hub := { s.hub with limit := Nat.min a 9000 } })
  | .setEtype h v => .next (s.ifRuntime { s with hub := { s.hub with etypes := s.hub.etypes.set h.val v h.isLt } })
  | .pcieTrain => .next { s with hub := { s.hub with pcie := true } }
  | .extend d => .next (s.ifRuntime { s with hub := s.hub.extend 3 d })
  | .cxl p n => .next { s with cxl := s.cxl.set p.val (some n) p.isLt }
  | .poisonG a => .next (s.poisonWord a)
  | .corrected => .next { s with hub := { s.hub with corrected := s.hub.corrected + 1 } }
  | .poisonBuf c sp off => .next (s.poisonBuf c sp off)
  | .laneError c l => .next (s.updCore c (fun k => { k with laneErr := some (l % 64) }))
  | .reset => .next s.restart
  | .pass n => .next { s with clk := s.clk + s.ckPass n }

end Sys2Proof.Machine
end

