-- ==== Sys2Proof/Machine/VAlone.lean ====
section
/-! DEFINITION. A vector instruction by itself, as the rows of R319 name it: it enters the vector queue of its thread as a
convoy of one, and where the queue was empty it runs at once, with nothing between its elements (log 23). -/

namespace Sys2Proof.Machine

open Sys2Proof

/-- A read of a vector load of a convoy. -/
def QConvoy.ownRead (q : QConvoy) (a : Acc) : Bool := q.has a && a.isV

/-- The head runs on: its groups issue and commit, and their reads perform, for as long as it is the head and can. A convoy
without `vwait` takes all its elements as one group. -/
def State.drive (c : CoreId) (e : EngId) (seq : Nat) : Nat → State → State
  | 0, s => s
  | n + 1, s =>
    match s.headOf c e with
    | none => s
    | some q =>
      if q.seq != seq || (s.engAt c e).frozen then s
      else
        let lg := (s.engAt c e).v.homes.headD 0
        let t :=
          if q.start.isNone then s.beginHead c e q
          else if q.fly.isEmpty then
            (match q.nextGroup with
            | some (lo, hi) => s.issueGroup c e lg lo (if q.grp = 1 then hi else q.tot)
            | none => s.completeHead c e q)
          else s.settle c e settleFuel
        t.performAll c e q.ownRead (t.engAt c e).accs.length |>.drive c e seq n

/-- Steps that a lone instruction can need: to begin, and for each element its reads and its commit. -/
def QConvoy.driveFuel (q : QConvoy) : Nat := 8 + 4 * q.tot

/-- A vector instruction by itself on the executing engine. -/
def State.alone (s : State) (op : VOp) (f : VF) : Res :=
  let g := s.me
  let v : VSlot := { op := op, f := f }
  if s.isCaller || (vregsBad g.vregsNow [v]).isSome || (taskBad g [v]).isSome then .next (s.trapMe 0x01 (encSlot v))
  else if 16 ≤ (g.v.vq.filter (fun q => !q.isMark)).length then s.stall
  else
    let q := g.entry [v]
    let t := s.updMe (fun h => { h.enqueue q with seq := h.seq + 8, cyc := s.clk + 1, skip := 0 })
    if !g.v.vq.isEmpty then .next t
    else
      let t := State.drive s.core s.eng q.seq 1 t
      let fuel := match t.headOf s.core s.eng with | some r => r.driveFuel | none => 0
      let t := State.drive s.core s.eng q.seq fuel t
      -- what it has handed to the order machine performs, where it may
      .next (t.performAll s.core s.eng (fun a => q.has a && a.vec) (t.engAt s.core s.eng).accs.length)

/-- VADD, by itself. -/
def execVadd (f : VF) (s : State) : Res := s.alone .vadd f
/-- VSUB, by itself. -/
def execVsub (f : VF) (s : State) : Res := s.alone .vsub f
/-- VADDS, by itself. -/
def execVadds (f : VF) (s : State) : Res := s.alone .vadds f
/-- VSUBS, by itself. -/
def execVsubs (f : VF) (s : State) : Res := s.alone .vsubs f
/-- VMUL, by itself. -/
def execVmul (f : VF) (s : State) : Res := s.alone .vmul f
/-- VMIN, by itself. -/
def execVmin (f : VF) (s : State) : Res := s.alone .vmin f
/-- VMAX, by itself. -/
def execVmax (f : VF) (s : State) : Res := s.alone .vmax f
/-- VABS, by itself. -/
def execVabs (f : VF) (s : State) : Res := s.alone .vabs f
/-- VNEG, by itself. -/
def execVneg (f : VF) (s : State) : Res := s.alone .vneg f
/-- VNOT, by itself. -/
def execVnot (f : VF) (s : State) : Res := s.alone .vnot f
/-- VAND, by itself. -/
def execVand (f : VF) (s : State) : Res := s.alone .vand f
/-- VOR, by itself. -/
def execVor (f : VF) (s : State) : Res := s.alone .vor f
/-- VXOR, by itself. -/
def execVxor (f : VF) (s : State) : Res := s.alone .vxor f
/-- VSHL, by itself. -/
def execVshl (f : VF) (s : State) : Res := s.alone .vshl f
/-- VSHR, by itself. -/
def execVshr (f : VF) (s : State) : Res := s.alone .vshr f
/-- VSRA, by itself. -/
def execVsra (f : VF) (s : State) : Res := s.alone .vsra f
/-- VDIV, by itself. -/
def execVdiv (f : VF) (s : State) : Res := s.alone .vdiv f
/-- VSQRT, by itself. -/
def execVsqrt (f : VF) (s : State) : Res := s.alone .vsqrt f
/-- VRSQRT, by itself. -/
def execVrsqrt (f : VF) (s : State) : Res := s.alone .vrsqrt f
/-- VRCP, by itself. -/
def execVrcp (f : VF) (s : State) : Res := s.alone .vrcp f
/-- VCLASS, by itself. -/
def execVclass (f : VF) (s : State) : Res := s.alone .vclass f
/-- VCMP, by itself. -/
def execVcmp (f : VF) (s : State) : Res := s.alone .vcmp f
/-- VSEL, by itself. -/
def execVsel (f : VF) (s : State) : Res := s.alone .vsel f
/-- VMOV, by itself. -/
def execVmov (f : VF) (s : State) : Res := s.alone .vmov f
/-- VBCAST, by itself. -/
def execVbcast (f : VF) (s : State) : Res := s.alone .vbcast f
/-- VID, by itself. -/
def execVid (f : VF) (s : State) : Res := s.alone .vid f
/-- VMAND, by itself. -/
def execVmand (f : VF) (s : State) : Res := s.alone .vmand f
/-- VMOR, by itself. -/
def execVmor (f : VF) (s : State) : Res := s.alone .vmor f
/-- VMNOT, by itself. -/
def execVmnot (f : VF) (s : State) : Res := s.alone .vmnot f
/-- VFMA, by itself. -/
def execVfma (f : VF) (s : State) : Res := s.alone .vfma f
/-- VFMS, by itself. -/
def execVfms (f : VF) (s : State) : Res := s.alone .vfms f
/-- VFNMA, by itself. -/
def execVfnma (f : VF) (s : State) : Res := s.alone .vfnma f
/-- VWMAC, by itself. -/
def execVwmac (f : VF) (s : State) : Res := s.alone .vwmac f
/-- VDOT_BLK, by itself. -/
def execVdotBlk (f : VF) (s : State) : Res := s.alone .vdotBlk f
/-- VCVT, by itself. -/
def execVcvt (f : VF) (s : State) : Res := s.alone .vcvt f
/-- VLD, by itself. -/
def execVld (f : VF) (s : State) : Res := s.alone .vld f
/-- VLDS, by itself. -/
def execVlds (f : VF) (s : State) : Res := s.alone .vlds f
/-- VLDX, by itself. -/
def execVldx (f : VF) (s : State) : Res := s.alone .vldx f
/-- VGL, by itself. -/
def execVgl (f : VF) (s : State) : Res := s.alone .vgl f
/-- VLD_IPB, by itself. -/
def execVldIpb (f : VF) (s : State) : Res := s.alone .vldIpb f
/-- VLD_Z, by itself. -/
def execVldZ (f : VF) (s : State) : Res := s.alone .vldZ f
/-- VST, by itself. -/
def execVst (f : VF) (s : State) : Res := s.alone .vst f
/-- VSTS, by itself. -/
def execVsts (f : VF) (s : State) : Res := s.alone .vsts f
/-- VSTX, by itself. -/
def execVstx (f : VF) (s : State) : Res := s.alone .vstx f
/-- VST_X, by itself. -/
def execVstX (f : VF) (s : State) : Res := s.alone .vstX f
/-- VSC, by itself. -/
def execVsc (f : VF) (s : State) : Res := s.alone .vsc f
/-- VAMO, by itself. -/
def execVamo (f : VF) (s : State) : Res := s.alone .vamo f
/-- VWAIT, by itself. -/
def execVwait (f : VF) (s : State) : Res := s.alone .vwait f
/-- VSORTR, by itself. -/
def execVsortr (f : VF) (s : State) : Res := s.alone .vsortr f
/-- VCHK, by itself. -/
def execVchk (f : VF) (s : State) : Res := s.alone .vchk f
/-- VMERGE, by itself. -/
def execVmerge (f : VF) (s : State) : Res := s.alone .vmerge f
/-- VINTER, by itself. -/
def execVinter (f : VF) (s : State) : Res := s.alone .vinter f
/-- VUNIQ, by itself. -/
def execVuniq (f : VF) (s : State) : Res := s.alone .vuniq f
/-- VRANK, by itself. -/
def execVrank (f : VF) (s : State) : Res := s.alone .vrank f
/-- VPART, by itself. -/
def execVpart (f : VF) (s : State) : Res := s.alone .vpart f
/-- VMRGS, by itself. -/
def execVmrgs (f : VF) (s : State) : Res := s.alone .vmrgs f
/-- VRED, by itself. -/
def execVred (f : VF) (s : State) : Res := s.alone .vred f
/-- VSCAN, by itself. -/
def execVscan (f : VF) (s : State) : Res := s.alone .vscan f
/-- VSEGRED, by itself. -/
def execVsegred (f : VF) (s : State) : Res := s.alone .vsegred f
/-- VSEGSCAN, by itself. -/
def execVsegscan (f : VF) (s : State) : Res := s.alone .vsegscan f
/-- VSEGLD, by itself. -/
def execVsegld (f : VF) (s : State) : Res := s.alone .vsegld f
/-- VPERM, by itself. -/
def execVperm (f : VF) (s : State) : Res := s.alone .vperm f
/-- VCOMPRESS, by itself. -/
def execVcompress (f : VF) (s : State) : Res := s.alone .vcompress f
/-- VEXPAND, by itself. -/
def execVexpand (f : VF) (s : State) : Res := s.alone .vexpand f
/-- VSLIDE, by itself. -/
def execVslide (f : VF) (s : State) : Res := s.alone .vslide f
/-- VREV, by itself. -/
def execVrev (f : VF) (s : State) : Res := s.alone .vrev f
/-- VSIN, by itself. -/
def execVsin (f : VF) (s : State) : Res := s.alone .vsin f
/-- VCOS, by itself. -/
def execVcos (f : VF) (s : State) : Res := s.alone .vcos f
/-- VEXP2, by itself. -/
def execVexp2 (f : VF) (s : State) : Res := s.alone .vexp2 f
/-- VLOG2, by itself. -/
def execVlog2 (f : VF) (s : State) : Res := s.alone .vlog2 f
/-- VTANH, by itself. -/
def execVtanh (f : VF) (s : State) : Res := s.alone .vtanh f
/-- VSIGM, by itself. -/
def execVsigm (f : VF) (s : State) : Res := s.alone .vsigm f
/-- VMM_COPY, by itself. -/
def execVmmCopy (f : VF) (s : State) : Res := s.alone .vmmCopy f
/-- VMM_FILL, by itself. -/
def execVmmFill (f : VF) (s : State) : Res := s.alone .vmmFill f

end Sys2Proof.Machine
end

