-- ==== Sys2Proof/Machine/Dispatch.lean ====
section
/-! DEFINITION. One arm a constructor: the meaning of each instruction and event. -/

namespace Sys2Proof.Machine

open Sys2Proof

/-- The effect of an instruction on the engine that `State.core` and `State.eng` name, or of an event. -/
def exec (i : Instr) (s : State) : Host.Outcome State Fault Refusal :=
  match i with
  | .add rd rs1 rs2 stl => Sys2Proof.Machine.execAdd rd rs1 rs2 stl s
  | .sub rd rs1 rs2 stl => Sys2Proof.Machine.execSub rd rs1 rs2 stl s
  | .mul rd rs1 rs2 stl => Sys2Proof.Machine.execMul rd rs1 rs2 stl s
  | .mulh rd rs1 rs2 stl => Sys2Proof.Machine.execMulh rd rs1 rs2 stl s
  | .mulhn rd rs1 rs2 stl => Sys2Proof.Machine.execMulhn rd rs1 rs2 stl s
  | .div rd rs1 rs2 stl => Sys2Proof.Machine.execDiv rd rs1 rs2 stl s
  | .divn rd rs1 rs2 stl => Sys2Proof.Machine.execDivn rd rs1 rs2 stl s
  | .rem rd rs1 rs2 stl => Sys2Proof.Machine.execRem rd rs1 rs2 stl s
  | .remn rd rs1 rs2 stl => Sys2Proof.Machine.execRemn rd rs1 rs2 stl s
  | .and rd rs1 rs2 stl => Sys2Proof.Machine.execAnd rd rs1 rs2 stl s
  | .or rd rs1 rs2 stl => Sys2Proof.Machine.execOr rd rs1 rs2 stl s
  | .xor rd rs1 rs2 stl => Sys2Proof.Machine.execXor rd rs1 rs2 stl s
  | .shl rd rs1 rs2 stl => Sys2Proof.Machine.execShl rd rs1 rs2 stl s
  | .shr rd rs1 rs2 stl => Sys2Proof.Machine.execShr rd rs1 rs2 stl s
  | .sra rd rs1 rs2 stl => Sys2Proof.Machine.execSra rd rs1 rs2 stl s
  | .min rd rs1 rs2 stl => Sys2Proof.Machine.execMin rd rs1 rs2 stl s
  | .max rd rs1 rs2 stl => Sys2Proof.Machine.execMax rd rs1 rs2 stl s
  | .minn rd rs1 rs2 stl => Sys2Proof.Machine.execMinn rd rs1 rs2 stl s
  | .maxn rd rs1 rs2 stl => Sys2Proof.Machine.execMaxn rd rs1 rs2 stl s
  | .clz rd rs1 stl => Sys2Proof.Machine.execClz rd rs1 stl s
  | .ctz rd rs1 stl => Sys2Proof.Machine.execCtz rd rs1 stl s
  | .popc rd rs1 stl => Sys2Proof.Machine.execPopc rd rs1 stl s
  | .mov rd rs1 stl => Sys2Proof.Machine.execMov rd rs1 stl s
  | .sel rd p rs1 rs2 stl => Sys2Proof.Machine.execSel rd p rs1 rs2 stl s
  | .cmpEq pd rs1 rs2 stl => Sys2Proof.Machine.execCmpEq pd rs1 rs2 stl s
  | .cmpNe pd rs1 rs2 stl => Sys2Proof.Machine.execCmpNe pd rs1 rs2 stl s
  | .cmpLt pd rs1 rs2 stl => Sys2Proof.Machine.execCmpLt pd rs1 rs2 stl s
  | .cmpGe pd rs1 rs2 stl => Sys2Proof.Machine.execCmpGe pd rs1 rs2 stl s
  | .cmpLtn pd rs1 rs2 stl => Sys2Proof.Machine.execCmpLtn pd rs1 rs2 stl s
  | .cmpGen pd rs1 rs2 stl => Sys2Proof.Machine.execCmpGen pd rs1 rs2 stl s
  | .pand pd pa pb stl => Sys2Proof.Machine.execPand pd pa pb stl s
  | .por pd pa pb stl => Sys2Proof.Machine.execPor pd pa pb stl s
  | .pnot pd pa stl => Sys2Proof.Machine.execPnot pd pa stl s
  | .addi rd rs1 imm stl => Sys2Proof.Machine.execAddi rd rs1 imm stl s
  | .andi rd rs1 imm stl => Sys2Proof.Machine.execAndi rd rs1 imm stl s
  | .ori rd rs1 imm stl => Sys2Proof.Machine.execOri rd rs1 imm stl s
  | .xori rd rs1 imm stl => Sys2Proof.Machine.execXori rd rs1 imm stl s
  | .shli rd rs1 imm stl => Sys2Proof.Machine.execShli rd rs1 imm stl s
  | .shri rd rs1 imm stl => Sys2Proof.Machine.execShri rd rs1 imm stl s
  | .srai rd rs1 imm stl => Sys2Proof.Machine.execSrai rd rs1 imm stl s
  | .li rd imm stl => Sys2Proof.Machine.execLi rd imm stl s
  | .lih rd q imm stl => Sys2Proof.Machine.execLih rd q imm stl s
  | .cmpiEq pd rs1 imm stl => Sys2Proof.Machine.execCmpiEq pd rs1 imm stl s
  | .cmpiNe pd rs1 imm stl => Sys2Proof.Machine.execCmpiNe pd rs1 imm stl s
  | .cmpiLt pd rs1 imm stl => Sys2Proof.Machine.execCmpiLt pd rs1 imm stl s
  | .cmpiGe pd rs1 imm stl => Sys2Proof.Machine.execCmpiGe pd rs1 imm stl s
  | .cmpiLtn pd rs1 imm stl => Sys2Proof.Machine.execCmpiLtn pd rs1 imm stl s
  | .cmpiGen pd rs1 imm stl => Sys2Proof.Machine.execCmpiGen pd rs1 imm stl s
  | .ld f stl => Sys2Proof.Machine.execLd f stl s
  | .ldn f stl => Sys2Proof.Machine.execLdn f stl s
  | .st f stl => Sys2Proof.Machine.execSt f stl s
  | .amoAdd f stl => Sys2Proof.Machine.execAmoAdd f stl s
  | .amoMin f stl => Sys2Proof.Machine.execAmoMin f stl s
  | .amoMax f stl => Sys2Proof.Machine.execAmoMax f stl s
  | .amoSwap f stl => Sys2Proof.Machine.execAmoSwap f stl s
  | .amoCas f stl => Sys2Proof.Machine.execAmoCas f stl s
  | .amoAnd f stl => Sys2Proof.Machine.execAmoAnd f stl s
  | .amoOr f stl => Sys2Proof.Machine.execAmoOr f stl s
  | .br off stl => Sys2Proof.Machine.execBr off stl s
  | .call off stl => Sys2Proof.Machine.execCall off stl s
  | .bp p off stl => Sys2Proof.Machine.execBp p off stl s
  | .jr rs1 stl => Sys2Proof.Machine.execJr rs1 stl s
  | .ret stl => Sys2Proof.Machine.execRet stl s
  | .vstrip rs off stl => Sys2Proof.Machine.execVstrip rs off stl s
  | .barInit b rs1 scope stl => Sys2Proof.Machine.execBarInit b rs1 scope stl s
  | .barArrive b rs1 mode stl => Sys2Proof.Machine.execBarArrive b rs1 mode stl s
  | .barWait b stl => Sys2Proof.Machine.execBarWait b stl s
  | .barTwait rd b rs1 stl => Sys2Proof.Machine.execBarTwait rd b rs1 stl s
  | .barTest rd b stl => Sys2Proof.Machine.execBarTest rd b stl s
  | .fence scope mask stl => Sys2Proof.Machine.execFence scope mask stl s
  | .fork t rs off stl => Sys2Proof.Machine.execFork t rs off stl s
  | .rendez mask stl => Sys2Proof.Machine.execRendez mask stl s
  | .launch rd rs1 stl => Sys2Proof.Machine.execLaunch rd rs1 stl s
  | .ident rd sel stl => Sys2Proof.Machine.execIdent rd sel stl s
  | .clk rd stl => Sys2Proof.Machine.execClk rd stl s
  | .crRd r num stl => Sys2Proof.Machine.execCrRd r num stl s
  | .crWr r num stl => Sys2Proof.Machine.execCrWr r num stl s
  | .crSet r num stl => Sys2Proof.Machine.execCrSet r num stl s
  | .crClr r num stl => Sys2Proof.Machine.execCrClr r num stl s
  | .trap imm stl => Sys2Proof.Machine.execTrap imm stl s
  | .eret stl => Sys2Proof.Machine.execEret stl s
  | .ueret stl => Sys2Proof.Machine.execUeret stl s
  | .halt stl => Sys2Proof.Machine.execHalt stl s
  | .tlbinv rs1 stl => Sys2Proof.Machine.execTlbinv rs1 stl s
  | .tlbinvAll stl => Sys2Proof.Machine.execTlbinvAll stl s
  | .nop stl => Sys2Proof.Machine.execNop stl s
  | .unfreeze rd rs1 stl => Sys2Proof.Machine.execUnfreeze rd rs1 stl s
  | .psample rs1 stl => Sys2Proof.Machine.execPsample rs1 stl s
  | .mclaimX n stl => Sys2Proof.Machine.execMclaimX n stl s
  | .mclaimXScl n stl => Sys2Proof.Machine.execMclaimXScl n stl s
  | .mclaimW n stl => Sys2Proof.Machine.execMclaimW n stl s
  | .mreleaseX n stl => Sys2Proof.Machine.execMreleaseX n stl s
  | .mreleaseW n stl => Sys2Proof.Machine.execMreleaseW n stl s
  | .mzero n q stl => Sys2Proof.Machine.execMzero n q stl s
  | .mqprio n stl => Sys2Proof.Machine.execMqprio n stl s
  | .mmodeStd q stl => Sys2Proof.Machine.execMmodeStd q stl s
  | .mmodeRed q stl => Sys2Proof.Machine.execMmodeRed q stl s
  | .mma f stl => Sys2Proof.Machine.execMma f stl s
  | .mmar f stl => Sys2Proof.Machine.execMmar f stl s
  | .mreel f stl => Sys2Proof.Machine.execMreel f stl s
  | .mdrain f stl => Sys2Proof.Machine.execMdrain f stl s
  | .sstrm rd rs1 port q stl => Sys2Proof.Machine.execSstrm rd rs1 port q stl s
  | .speek rd rs1 stl => Sys2Proof.Machine.execSpeek rd rs1 stl s
  | .ssusp port q stl => Sys2Proof.Machine.execSsusp port q stl s
  | .sres port q stl => Sys2Proof.Machine.execSres port q stl s
  | .skill port q stl => Sys2Proof.Machine.execSkill port q stl s
  | .snote port q stl => Sys2Proof.Machine.execSnote port q stl s
  | .rtpush rs1 q stl => Sys2Proof.Machine.execRtpush rs1 q stl s
  | .rdisp rs1 q stl => Sys2Proof.Machine.execRdisp rs1 q stl s
  | .rcombPart rs1 q stl => Sys2Proof.Machine.execRcombPart rs1 q stl s
  | .rcombFin rs1 q stl => Sys2Proof.Machine.execRcombFin rs1 q stl s
  | .rgenOpen rn rs1 rs2 q stl => Sys2Proof.Machine.execRgenOpen rn rs1 rs2 q stl s
  | .rgenRetire rs1 q stl => Sys2Proof.Machine.execRgenRetire rs1 q stl s
  | .abound rd rs1 vd stl => Sys2Proof.Machine.execAbound rd rs1 vd stl s
  | .agather rd rs1 port q stl => Sys2Proof.Machine.execAgather rd rs1 port q stl s
  | .kvalloc rd rs1 rs2 q stl => Sys2Proof.Machine.execKvalloc rd rs1 rs2 q stl s
  | .kvfree rd rs1 q stl => Sys2Proof.Machine.execKvfree rd rs1 q stl s
  | .kvpin rd rs1 q stl => Sys2Proof.Machine.execKvpin rd rs1 q stl s
  | .kvunpin rd rs1 q stl => Sys2Proof.Machine.execKvunpin rd rs1 q stl s
  | .kvevict rd rs1 rs2 q stl => Sys2Proof.Machine.execKvevict rd rs1 rs2 q stl s
  | .kvinv rd rs1 rs2 q stl => Sys2Proof.Machine.execKvinv rd rs1 rs2 q stl s
  | .sctab rs1 stl => Sys2Proof.Machine.execSctab rs1 stl s
  | .scommit stl => Sys2Proof.Machine.execScommit stl s
  | .sabort stl => Sys2Proof.Machine.execSabort stl s
  | .sop k rh ra rb stl => Sys2Proof.Machine.execSop k rh ra rb stl s
  | .sreg k rs1 stl => Sys2Proof.Machine.execSreg k rs1 stl s
  | .sbegin rd off stl => Sys2Proof.Machine.execSbegin rd off stl s
  | .vcfg f stl => Sys2Proof.Machine.execVcfg f stl s
  | .vreshape n stl => Sys2Proof.Machine.execVreshape n stl s
  | .vquad p stl => Sys2Proof.Machine.execVquad p stl s
  | .convoy slots stl => Sys2Proof.Machine.execConvoy slots stl s
  | .vadd f => Sys2Proof.Machine.execVadd f s
  | .vsub f => Sys2Proof.Machine.execVsub f s
  | .vadds f => Sys2Proof.Machine.execVadds f s
  | .vsubs f => Sys2Proof.Machine.execVsubs f s
  | .vmul f => Sys2Proof.Machine.execVmul f s
  | .vmin f => Sys2Proof.Machine.execVmin f s
  | .vmax f => Sys2Proof.Machine.execVmax f s
  | .vabs f => Sys2Proof.Machine.execVabs f s
  | .vneg f => Sys2Proof.Machine.execVneg f s
  | .vnot f => Sys2Proof.Machine.execVnot f s
  | .vand f => Sys2Proof.Machine.execVand f s
  | .vor f => Sys2Proof.Machine.execVor f s
  | .vxor f => Sys2Proof.Machine.execVxor f s
  | .vshl f => Sys2Proof.Machine.execVshl f s
  | .vshr f => Sys2Proof.Machine.execVshr f s
  | .vsra f => Sys2Proof.Machine.execVsra f s
  | .vdiv f => Sys2Proof.Machine.execVdiv f s
  | .vsqrt f => Sys2Proof.Machine.execVsqrt f s
  | .vrsqrt f => Sys2Proof.Machine.execVrsqrt f s
  | .vrcp f => Sys2Proof.Machine.execVrcp f s
  | .vclass f => Sys2Proof.Machine.execVclass f s
  | .vcmp f => Sys2Proof.Machine.execVcmp f s
  | .vsel f => Sys2Proof.Machine.execVsel f s
  | .vmov f => Sys2Proof.Machine.execVmov f s
  | .vbcast f => Sys2Proof.Machine.execVbcast f s
  | .vid f => Sys2Proof.Machine.execVid f s
  | .vmand f => Sys2Proof.Machine.execVmand f s
  | .vmor f => Sys2Proof.Machine.execVmor f s
  | .vmnot f => Sys2Proof.Machine.execVmnot f s
  | .vfma f => Sys2Proof.Machine.execVfma f s
  | .vfms f => Sys2Proof.Machine.execVfms f s
  | .vfnma f => Sys2Proof.Machine.execVfnma f s
  | .vwmac f => Sys2Proof.Machine.execVwmac f s
  | .vdotBlk f => Sys2Proof.Machine.execVdotBlk f s
  | .vcvt f => Sys2Proof.Machine.execVcvt f s
  | .vld f => Sys2Proof.Machine.execVld f s
  | .vlds f => Sys2Proof.Machine.execVlds f s
  | .vldx f => Sys2Proof.Machine.execVldx f s
  | .vgl f => Sys2Proof.Machine.execVgl f s
  | .vldIpb f => Sys2Proof.Machine.execVldIpb f s
  | .vldZ f => Sys2Proof.Machine.execVldZ f s
  | .vst f => Sys2Proof.Machine.execVst f s
  | .vsts f => Sys2Proof.Machine.execVsts f s
  | .vstx f => Sys2Proof.Machine.execVstx f s
  | .vstX f => Sys2Proof.Machine.execVstX f s
  | .vsc f => Sys2Proof.Machine.execVsc f s
  | .vamo f => Sys2Proof.Machine.execVamo f s
  | .vwait f => Sys2Proof.Machine.execVwait f s
  | .vsortr f => Sys2Proof.Machine.execVsortr f s
  | .vchk f => Sys2Proof.Machine.execVchk f s
  | .vmerge f => Sys2Proof.Machine.execVmerge f s
  | .vinter f => Sys2Proof.Machine.execVinter f s
  | .vuniq f => Sys2Proof.Machine.execVuniq f s
  | .vrank f => Sys2Proof.Machine.execVrank f s
  | .vpart f => Sys2Proof.Machine.execVpart f s
  | .vmrgs f => Sys2Proof.Machine.execVmrgs f s
  | .vred f => Sys2Proof.Machine.execVred f s
  | .vscan f => Sys2Proof.Machine.execVscan f s
  | .vsegred f => Sys2Proof.Machine.execVsegred f s
  | .vsegscan f => Sys2Proof.Machine.execVsegscan f s
  | .vsegld f => Sys2Proof.Machine.execVsegld f s
  | .vperm f => Sys2Proof.Machine.execVperm f s
  | .vcompress f => Sys2Proof.Machine.execVcompress f s
  | .vexpand f => Sys2Proof.Machine.execVexpand f s
  | .vslide f => Sys2Proof.Machine.execVslide f s
  | .vrev f => Sys2Proof.Machine.execVrev f s
  | .vsin f => Sys2Proof.Machine.execVsin f s
  | .vcos f => Sys2Proof.Machine.execVcos f s
  | .vexp2 f => Sys2Proof.Machine.execVexp2 f s
  | .vlog2 f => Sys2Proof.Machine.execVlog2 f s
  | .vtanh f => Sys2Proof.Machine.execVtanh f s
  | .vsigm f => Sys2Proof.Machine.execVsigm f s
  | .vmmCopy f => Sys2Proof.Machine.execVmmCopy f s
  | .vmmFill f => Sys2Proof.Machine.execVmmFill f s
  | .elementPerform sel => Sys2Proof.Machine.execElementPerform sel s
  | .barrierPhaseComplete core b => Sys2Proof.Machine.execBarrierPhaseComplete core b s
  | .barTwaitExpiry core e => Sys2Proof.Machine.execBarTwaitExpiry core e s
  | .vwaitExpiry core e => Sys2Proof.Machine.execVwaitExpiry core e s
  | .feedLimitExpiry core e => Sys2Proof.Machine.execFeedLimitExpiry core e s
  | .shareWindow core => Sys2Proof.Machine.execShareWindow core s
  | .matrixGrant core => Sys2Proof.Machine.execMatrixGrant core s
  | .reelComplete core => Sys2Proof.Machine.execReelComplete core s
  | .streamStart core port => Sys2Proof.Machine.execStreamStart core port s
  | .streamEnd core port => Sys2Proof.Machine.execStreamEnd core port s
  | .userInterrupt core => Sys2Proof.Machine.execUserInterrupt core s
  | .trapEntry core e => Sys2Proof.Machine.execTrapEntry core e s
  | .factorGateEntry die => Sys2Proof.Machine.execFactorGateEntry die s
  | .rowArrival n => Sys2Proof.Machine.execRowArrival n s
  | .combineRowArrival n => Sys2Proof.Machine.execCombineRowArrival n s
  | .drainMarkerArrival port gen => Sys2Proof.Machine.execDrainMarkerArrival port gen s
  | .speculationAbort core e => Sys2Proof.Machine.execSpeculationAbort core e s
  | .sopWaitComplete core e => Sys2Proof.Machine.execSopWaitComplete core e s
  | .kvPoolEnable part v => Sys2Proof.Machine.execKvPoolEnable part v s
  | .kvPoolDisable part => Sys2Proof.Machine.execKvPoolDisable part s
  | .kvPoolDisableComplete part => Sys2Proof.Machine.execKvPoolDisableComplete part s
  | .preEmption core => Sys2Proof.Machine.execPreEmption core s
  | .instanceStart core => Sys2Proof.Machine.execInstanceStart core s
  | .instanceResume core => Sys2Proof.Machine.execInstanceResume core s
  | .instanceEnd core => Sys2Proof.Machine.execInstanceEnd core s
  | .launchEnd id => Sys2Proof.Machine.execLaunchEnd id s
  | .launchPortSubmit port v => Sys2Proof.Machine.execLaunchPortSubmit port v s
  | .submissionTake => Sys2Proof.Machine.execSubmissionTake s
  | .placementRound => Sys2Proof.Machine.execPlacementRound s
  | .mailboxPoll => Sys2Proof.Machine.execMailboxPoll s
  | .submitLaunch => Sys2Proof.Machine.execSubmitLaunch s
  | .cancelLaunch => Sys2Proof.Machine.execCancelLaunch s
  | .attest written => Sys2Proof.Machine.execAttest written s
  | .configurationRecord read => Sys2Proof.Machine.execConfigurationRecord read s
  | .runtimeImage read => Sys2Proof.Machine.execRuntimeImage read s
  | .responseRelease => Sys2Proof.Machine.execResponseRelease s
  | .birotteRequest port => Sys2Proof.Machine.execBirotteRequest port s
  | .retireCore target => Sys2Proof.Machine.execRetireCore target s
  | .retireLaneGroup target => Sys2Proof.Machine.execRetireLaneGroup target s
  | .retireChannel target => Sys2Proof.Machine.execRetireChannel target s
  | .retirePort target => Sys2Proof.Machine.execRetirePort target s
  | .resetPartition target => Sys2Proof.Machine.execResetPartition target s
  | .reImagePartition target => Sys2Proof.Machine.execReImagePartition target s
  | .repairBadOperation op target => Sys2Proof.Machine.execRepairBadOperation op target s
  | .pendingCoreRetirement core => Sys2Proof.Machine.execPendingCoreRetirement core s
  | .healthWord v => Sys2Proof.Machine.execHealthWord v s
  | .firmwareUpdate image => Sys2Proof.Machine.execFirmwareUpdate image s
  | .healthTimeout => Sys2Proof.Machine.execHealthTimeout s
  | .notificationPop => Sys2Proof.Machine.execNotificationPop s
  | .unfreezeRegister master => Sys2Proof.Machine.execUnfreezeRegister master s
  | .splitApply core => Sys2Proof.Machine.execSplitApply core s
  | .trcWrite core v => Sys2Proof.Machine.execTrcWrite core v s
  | .registerWrite addr bytes v => Sys2Proof.Machine.execRegisterWrite addr bytes v s
  | .bootSequence => Sys2Proof.Machine.execBootSequence s
  | .enrolmentReport => Sys2Proof.Machine.execEnrolmentReport s
  | .bootRequestRetry => Sys2Proof.Machine.execBootRequestRetry s
  | .bootFetchRetry => Sys2Proof.Machine.execBootFetchRetry s
  | .imageData port => Sys2Proof.Machine.execImageData port s
  | .recordOffer port => Sys2Proof.Machine.execRecordOffer port s
  | .portComeUp port => Sys2Proof.Machine.execPortComeUp port s
  | .dataFrameReceive port frame => Sys2Proof.Machine.execDataFrameReceive port frame s
  | .acknowledgement port frame => Sys2Proof.Machine.execAcknowledgement port frame s
  | .creditGrant port frame => Sys2Proof.Machine.execCreditGrant port frame s
  | .dataFrameSend port cls => Sys2Proof.Machine.execDataFrameSend port cls s
  | .resendTimeout port cls => Sys2Proof.Machine.execResendTimeout port cls s
  | .keepAlive port => Sys2Proof.Machine.execKeepAlive port s
  | .peerDown port => Sys2Proof.Machine.execPeerDown port s
  | .ucieRetrain a b => Sys2Proof.Machine.execUcieRetrain a b s
  | .ucieRetrainingFailure a b => Sys2Proof.Machine.execUcieRetrainingFailure a b s
  | .cxlSurpriseRemoval port => Sys2Proof.Machine.execCxlSurpriseRemoval port s
  | .powerEstimate amps => Sys2Proof.Machine.execPowerEstimate amps s
  | .thermalThrottleEnter die celsius => Sys2Proof.Machine.execThermalThrottleEnter die celsius s
  | .thermalThrottleLeave die celsius => Sys2Proof.Machine.execThermalThrottleLeave die celsius s
  | .thermalHalt die celsius => Sys2Proof.Machine.execThermalHalt die celsius s
  | .debugHalt => Sys2Proof.Machine.execDebugHalt s
  | .debugResume => Sys2Proof.Machine.execDebugResume s
  | .elementGroupIssue core g => Sys2Proof.Machine.execElementGroupIssue core g s
  | .engineCommandCompletion unit => Sys2Proof.Machine.execEngineCommandCompletion unit s
  | .partitionResetComplete part => Sys2Proof.Machine.execPartitionResetComplete part s
  | .ucieRetrainingEnd a b => Sys2Proof.Machine.execUcieRetrainingEnd a b s
  | .powerFail keepOld => Sys2Proof.Machine.execPowerFail keepOld s
  | .keepAliveReceipt port => Sys2Proof.Machine.execKeepAliveReceipt port s

end Sys2Proof.Machine
end

