-- ==== Sys2Proof/Machine/Pick.lean ====
section
/-! DEFINITION. The move that the machine makes by itself when the agenda is empty (R161; log 2). -/

namespace Sys2Proof.Machine

open Sys2Proof

/-- The moves of an engine of a running instance. -/
def State.engMoves (s : State) (c : CoreId) (e : EngId) : List Move :=
  let g := s.engAt c e
  (if g.running then [.issue c e, .ev (.trapEntry c e), .ev (.speculationAbort c e), .ev (.sopWaitComplete c e)] else []) ++
    (match g.wait, g.uiWait with | .none, .none => [] | _, _ => [.ev (.barTwaitExpiry c e)]) ++
    (if g.v.vq.isEmpty then [] else [.ev (.vwaitExpiry c e), .ev (.feedLimitExpiry c e)]) ++
    (List.range g.accs.length).map (fun n => .ev (.elementPerform (.acc c e n)))

/-- The moves of a stream port. -/
def State.portMoves (s : State) (c : CoreId) (p : Fin 8) : List Move :=
  let q := s.portAt c p
  (if q.run.isSome then [.ev (.elementPerform (.stream c p)), .ev (.streamEnd c p)] else []) ++
    (if q.list.isEmpty then [] else [.ev (.streamStart c p)]) ++ (if q.irq.isSome then [.ev (.userInterrupt c)] else [])

/-- The moves of the parked instance of a core: what it has issued performs, and its barriers go on (R107, R177). -/
def State.parkedMoves (s : State) (c : CoreId) : List Move :=
  let n := (s.coreAt c).parked
  if !n.live then []
  else (List.finRange 5).flatMap (fun e =>
    (List.range (n.engs[e].accs.length)).map (fun i => .ev (.elementPerform (.parkedAcc c e i))))

/-- The barriers of a core at which the ck has something to count (R336). -/
def State.barMoves (s : State) (c : CoreId) : List Move :=
  let k := s.coreAt c
  let due (n : Inst) (b : Nat) : Bool := n.live && (n.bars.toList.getD b Barrier.reset).due s.clk
  ((List.range 64).filter (fun b => due k.inst b || due k.parked b)).map (fun b => .ev (.barrierPhaseComplete c (BitVec.ofNat 6 b)))

/-- The moves of a core. -/
def State.coreMoves (s : State) (c : CoreId) : List Move :=
  let k := s.coreAt c
  (if k.next.isSome then [.ev (.instanceStart c)] else []) ++ (if k.resumeReq then [.ev (.instanceResume c)] else []) ++
    (if k.preReq then [.ev (.preEmption c)] else []) ++ (if k.retirePend then [.ev (.pendingCoreRetirement c)] else []) ++
    (if k.splitNew.isSome then [.ev (.splitApply c)] else []) ++
    s.barMoves c ++ s.parkedMoves c ++
    (if k.inst.live then
      (List.finRange 5).flatMap (s.engMoves c) ++ (List.finRange 8).flatMap (s.portMoves c) ++
        (if k.inst.engs.any (fun g => !g.v.vq.isEmpty) then (List.finRange 4).map (fun g => .ev (.elementGroupIssue c g)) else []) ++
        [.ev (.shareWindow c), .ev (.engineCommandCompletion (.tile c 0)), .ev (.engineCommandCompletion (.tile c 1)),
         .ev (.matrixGrant c), .ev (.reelComplete c), .ev (.instanceEnd c)]
    else [])

/-- The moves of a Birotte port. -/
def State.linkMoves (s : State) (p : Fin 32) : List Move :=
  if !s.ports[p].live then []
  else
    [.ev (.keepAlive p), .ev (.peerDown p), .ev (.imageData p), .ev (.recordOffer p), .ev (.birotteRequest p)] ++
      (List.finRange 8).flatMap (fun c =>
        if (s.ports[p].cls[c]).frames.isEmpty then [] else [.ev (.dataFrameSend p c), .ev (.resendTimeout p c)])

/-- The moves of the dies, the partitions, the launches, and the rows on their way. -/
def State.dieMoves (s : State) : List Move :=
  (List.finRange 8).flatMap (fun d =>
      (if s.dies[d].gate.isEmpty then [] else [.ev (.factorGateEntry d)]) ++
        (if s.dies[d].route.isEmpty then [] else [.ev (.engineCommandCompletion (.route d))])) ++
    (List.finRange 16).flatMap (fun p =>
      (if s.parts[p].pool.cmds.isEmpty then [] else [.ev (.engineCommandCompletion (.alloc p))]) ++
        (if s.parts[p].pool.busy then [.ev (.kvPoolDisableComplete p)] else []) ++
        (if s.parts[p].resetting.isSome then [.ev (.partitionResetComplete p)] else [])) ++
    (List.range s.rows.length).flatMap (fun n => [.ev (.rowArrival n), .ev (.combineRowArrival n)]) ++
    (s.launches.filter (fun l => l.st != .ended)).map (fun l => .ev (.launchEnd l.id))

/-- The moves of hub die 0 and of the runtime. -/
def State.hubMoves (s : State) : List Move :=
  (if s.hub.boot == .running then [.ev .mailboxPoll, .ev .healthTimeout]
   else [.ev .bootSequence, .ev .enrolmentReport, .ev .bootRequestRetry, .ev .bootFetchRetry]) ++
    (match s.mbox.reqs with
    | [] => []
    | r :: _ =>
      match fieldLE r.bytes 0 1 with
      | 1 => [.ev .submitLaunch]
      | 2 => [.ev .cancelLaunch]
      | 3 => [.ev (.attest true)]
      | 4 => [.ev (.configurationRecord true)]
      | _ => [.ev (.runtimeImage true)]) ++
    (if s.mbox.waiting.isEmpty then [] else [.ev .responseRelease]) ++
    (if s.subs.isEmpty then [] else [.ev .submissionTake]) ++ (if 0 < s.round then [.ev .placementRound] else []) ++ [.pass 1]

/-- The moves that the package can make by itself, one or more for each agent with something to do. -/
def State.moves (s : State) : List Move :=
  s.hubMoves ++ s.dieMoves ++ (List.finRange 32).flatMap s.linkMoves ++ (List.finRange 320).flatMap s.coreMoves

/-- The move that comes next with an empty agenda: the agents take turns. -/
def State.pick (s : State) : Move :=
  let ms := s.moves
  ms.getD (s.turn % ms.length) (.pass 1)

/-- The instance, running alone on core 0, in which `withFetchWord` places an instruction (log 21). -/
def probeLaunch : Launch := { blankLaunch with id := 1, st := .running }

/-- The address at which `withFetchWord` places an instruction: 4 modulo 8, so that a header may stand there. -/
def probePc : Nat := 0x1004

/-- A state in which an engine of core 0 runs at supervisor privilege, at an address with given bytes (log 21). -/
def State.probe (s : State) (e : EngId) (bs : List Byte) : State :=
  { s with
    core := 0, eng := e, agenda := [.issue 0 e],
    launches := [probeLaunch],
    mem := s.mem.writeBytes probePc bs,
    cores := s.cores.set 0 { s.cores[0] with
      inst := (Inst.boot probeLaunch 0 0).updEng e (fun g =>
        { g with running := true, pc := wordN probePc, tr := { g.tr with priv := true } }), owner := .running } }

end Sys2Proof.Machine
end

