-- ==== Sys2Proof/Machine/Step.lean ====
section
/-! DEFINITION. One step of the package: one agent's move (R161). -/

namespace Sys2Proof.Machine

open Sys2Proof

/-- An engine issues its next instruction, if it may (R119, R320). -/
def issue (s : State) (c : CoreId) (e : EngId) : Host.Outcome State Fault Refusal :=
  if !s.mayIssue c e then .next s
  else
    match (s.select c e).front with
    | .error t => .next t
    | .ok (i, t) => exec i t

/-- One move. -/
def move (m : Move) (s : State) : Host.Outcome State Fault Refusal :=
  match m with
  | .issue c e => issue s c e
  | .ev i => exec i s
  | m => s.outside m

/-- One step: the head of the agenda, or the move that the machine picks (log 2). -/
def step (s : State) : Host.Outcome State Fault Refusal :=
  match s.agenda with
  | m :: rest => move m { s with agenda := rest }
  | [] => move s.pick { s with turn := s.turn + 1 }

/-- `s` with an instruction stored where `step` fetches its next one (log 21). -/
def State.withFetchWord (s : State) (nbits w : Nat) : State :=
  let e : EngId := match decodeTableWord nbits w with
    | some i => if threadOnly i then 0 else callerId
    | none => callerId
  s.probe e (leBytes maxInsnBytes (w % 2 ^ nbits))

end Sys2Proof.Machine
end

