-- ==== Sys2Proof/Safety.lean ====
section
/-! DEFINITION. What the claims call a sound state and a safe step. -/

namespace Sys2Proof.Machine

open Sys2Proof

/-- What every step keeps: main memory and the PCIe host's memory are in canonical form, and the notification queue holds
no more than its 1,024 records (R64). -/
def State.Inv (s : State) : Prop :=
  s.mem.wf = true ∧ s.hostMem.wf = true ∧ s.hub.notifs.length ≤ notifCap

/-- A step is safe: it answers a next state. -/
def Safe (r : Host.Outcome State Fault Refusal) : Prop := ∃ t, r = .next t

end Sys2Proof.Machine

namespace Sys2Proof.Claims

open Sys2Proof Sys2Proof.Machine

/-! ### What changes and what does not -/

/-- Only the executing engine differs: every other engine, every buffer, memory and every register elsewhere is as before. -/
def onlyMe (s t : State) : Prop := t = s.updMe (fun _ => t.me)

/-- Of an engine only the scalar registers, the predicates, the status words' list, the pc, and what counts its issue differ:
no flag, no control register, no trap register and no vector state. -/
def engKept (g h : Eng) : Prop :=
  h = { g with
    regs := h.regs, shadow := h.shadow, preds := h.preds, stats := h.stats, pc := h.pc, seq := h.seq, cyc := h.cyc,
    skip := h.skip, lat := h.lat }

/-- Every byte of main memory, and of the S of every core, reads as before. -/
def bytesKept (s t : State) : Prop :=
  (∀ a, t.mem.read a = s.mem.read a) ∧
    ∀ (c : CoreId) (a : Nat), (t.coreAt c).bufS.read blkS a = (s.coreAt c).bufS.read blkS a

/-- An instruction of the executing engine completes: the frame that all the register instructions share. -/
def completed (s t : State) : Prop := onlyMe s t ∧ engKept s.me t.me ∧ bytesKept s t

/-- The scalar registers, those below the shadows too, are unchanged. -/
def regsKept (g h : Eng) : Prop := h.regs = g.regs ∧ h.shadow = g.shadow

/-- The register `rd` reads `v`, and every other register reads as before: s0 reads 0 (R322). An ordinary register
below a shadow and the shadows of a handler that does not run are unchanged. -/
def regSet (g h : Eng) (rd : SReg) (v : Word) : Prop :=
  (∀ r, h.rd r = if r = rd ∧ r ≠ 0 then v else g.rd r) ∧
    (∀ r : Fin 32, (g.tr.uirq = true ∧ 24 ≤ r.val ∧ r.val ≤ 29) ∨ r.val ≠ rd.toNat → h.regs[r] = g.regs[r]) ∧
    (g.tr.uirq = false → h.shadow = g.shadow)

/-- The predicate `pd` reads `v`, and every other predicate reads as before: p0 reads true (R322). -/
def predSet (g h : Eng) (pd : PReg) (v : Bool) : Prop := ∀ p, h.rdP p = if p = pd ∧ p ≠ 0 then v else g.rdP p

/-- A trap of the executing engine would be entered at once: none is open and no other cause waits, its vector queue is empty,
it waits at no barrier, no abort of its task has begun, and its instance has not been stopped for a pre-emption (R107, R260, R267,
R270). -/
def trapFree (s : State) : Prop :=
  s.me.tr.trap = false ∧ s.me.traps = [] ∧ s.me.v.vq = [] ∧ s.me.wait = .none ∧
    (∀ k a, s.me.task = some k → k.abort = some a → a.at_ = .aimed) ∧
    (s.instAt s.core).stopped = false

/-- The executing engine has taken a trap of its scalar instruction: the trap registers hold the cause, EPC the instruction's
address, PPRIV the privilege before; it runs at supervisor privilege at the vector of the code; the queue and the resume
address are set aside; nothing else has changed (R265, R267). -/
def entered (s t : State) (code : Nat) (info : Word) : Prop :=
  t = s.updMe (fun _ => t.me) ∧
    t.me.tr = { ecode := code, einfo := info, epc := s.me.pc &&& 0xffffffffffffc, src := 0,
                raw := code == 0x0a && info == 1, epcw := false, uirq := s.me.tr.uirq, ppriv := s.me.tr.priv, trap := true,
                priv := true } ∧
    t.me.pc = wordN (fieldW (s.coreAt s.core).tbase 51 12 * 4096 + 0x40 * code) ∧
    t.me = { s.me with
      tr := t.me.tr, pc := t.me.pc, sopWait := none, v := { s.me.v with vstart := t.me.v.vstart },
      aside := some { vq := [], resume := s.me.pc, acc := none, seq := s.me.seq, fired := firedOf s.me.skip code info,
                      skip := firedOf s.me.skip code info, tq := none, firstUse := code == 0x0a && info == 1, late := false,
                      vstart := s.me.v.vstart } } ∧
    t.me.v.vstart = if code = 0x0a ∧ info = 1 then 0 else s.me.v.vstart

end Sys2Proof.Claims
end

