-- ==== Sys2Proof/Certificates/Slice0/Obligations.lean ====
section
/-! DEFINITION. The statements for the provers: what the spec's rules say of the machine. The vocabulary stands first, in
`Sys2Proof.Claims`; each statement's docstring names the rules it formalises. -/

namespace Sys2Proof.Claims

open Sys2Proof Sys2Proof.Machine

/-! ### The integer instructions (R324 to R328) -/

/-- Addition and the other binary operations, as R324 gives the result `v` of a and b. -/
def isAdd (a b v : Word) : Prop := v.toNat = (a.toNat + b.toNat) % 2 ^ 64
/-- Bitwise and. -/
def isAnd (a b v : Word) : Prop := ∀ i, v.getLsbD i = (a.getLsbD i && b.getLsbD i)
/-- Bitwise or. -/
def isOr (a b v : Word) : Prop := ∀ i, v.getLsbD i = (a.getLsbD i || b.getLsbD i)
/-- Bitwise exclusive or. -/
def isXor (a b v : Word) : Prop := ∀ i, v.getLsbD i = (a.getLsbD i != b.getLsbD i)
/-- Left shift by the low six bits of b. -/
def isShl (a b v : Word) : Prop := v.toNat = a.toNat * 2 ^ (b.toNat % 64) % 2 ^ 64
/-- Logical right shift. -/
def isShr (a b v : Word) : Prop := v.toNat = a.toNat / 2 ^ (b.toNat % 64)
/-- Arithmetic right shift: the signed quotient, rounded down. -/
def isSra (a b v : Word) : Prop := v.toInt = a.toInt / 2 ^ (b.toNat % 64)
/-- Signed quotient, truncated; R325 for zero and for the one overflow. -/
def isDiv (a b v : Word) : Prop :=
  if b = 0 then v = 0xffffffffffffffff
  else if a.toInt = -2 ^ 63 ∧ b.toInt = -1 then v.toInt = -2 ^ 63 else v.toInt = a.toInt.tdiv b.toInt
/-- Unsigned quotient. -/
def isDivn (a b v : Word) : Prop := if b = 0 then v = 0xffffffffffffffff else v.toNat = a.toNat / b.toNat
/-- Signed remainder. -/
def isRem (a b v : Word) : Prop := if b = 0 then v = a else v.toInt = a.toInt - b.toInt * (a.toInt.tdiv b.toInt)
/-- Unsigned remainder. -/
def isRemn (a b v : Word) : Prop := if b = 0 then v = a else v.toNat = a.toNat - b.toNat * (a.toNat / b.toNat)
/-- Leading zero bits: the top `v` bits are zero and the next one is set. -/
def isClz (a v : Word) : Prop :=
  v.toNat ≤ 64 ∧ (∀ i, 64 - v.toNat ≤ i → a.getLsbD i = false) ∧ (v.toNat < 64 → a.getLsbD (63 - v.toNat) = true)
/-- Trailing zero bits. -/
def isCtz (a v : Word) : Prop :=
  v.toNat ≤ 64 ∧ (∀ i, i < v.toNat → a.getLsbD i = false) ∧ (v.toNat < 64 → a.getLsbD v.toNat = true)

/-- The destination and the result of each instruction of R324, from the registers and predicates of an engine. -/
def intRule (g : Eng) : Instr → Option (SReg × (Word → Prop))
  | .add d a b _ => some (d, isAdd (g.rd a) (g.rd b))
  | .sub d a b _ => some (d, fun v => (v.toNat : Int) = ((g.rd a).toNat - (g.rd b).toNat : Int) % 2 ^ 64)
  | .mul d a b _ => some (d, fun v => v.toNat = (g.rd a).toNat * (g.rd b).toNat % 2 ^ 64)
  | .mulh d a b _ => some (d, fun v => v.toInt = (g.rd a).toInt * (g.rd b).toInt / 2 ^ 64)
  | .mulhn d a b _ => some (d, fun v => v.toNat = (g.rd a).toNat * (g.rd b).toNat / 2 ^ 64)
  | .div d a b _ => some (d, isDiv (g.rd a) (g.rd b))
  | .divn d a b _ => some (d, isDivn (g.rd a) (g.rd b))
  | .rem d a b _ => some (d, isRem (g.rd a) (g.rd b))
  | .remn d a b _ => some (d, isRemn (g.rd a) (g.rd b))
  | .and d a b _ => some (d, isAnd (g.rd a) (g.rd b))
  | .or d a b _ => some (d, isOr (g.rd a) (g.rd b))
  | .xor d a b _ => some (d, isXor (g.rd a) (g.rd b))
  | .shl d a b _ => some (d, isShl (g.rd a) (g.rd b))
  | .shr d a b _ => some (d, isShr (g.rd a) (g.rd b))
  | .sra d a b _ => some (d, isSra (g.rd a) (g.rd b))
  | .min d a b _ => some (d, fun v => v.toInt = min (g.rd a).toInt (g.rd b).toInt)
  | .max d a b _ => some (d, fun v => v.toInt = max (g.rd a).toInt (g.rd b).toInt)
  | .minn d a b _ => some (d, fun v => v.toNat = min (g.rd a).toNat (g.rd b).toNat)
  | .maxn d a b _ => some (d, fun v => v.toNat = max (g.rd a).toNat (g.rd b).toNat)
  | .clz d a _ => some (d, isClz (g.rd a))
  | .ctz d a _ => some (d, isCtz (g.rd a))
  | .popc d a _ => some (d, fun v => v.toNat = (List.range 64).countP (fun i => (g.rd a).getLsbD i))
  | .mov d a _ => some (d, fun v => v = g.rd a)
  | .sel d p a b _ => some (d, fun v => v = if g.rdP p then g.rd a else g.rd b)
  | _ => none

/-- The destination and the result of each instruction of R326 and R327. -/
def immRule (g : Eng) : Instr → Option (SReg × (Word → Prop))
  | .addi d a m _ => some (d, isAdd (g.rd a) (m.signExtend 64))
  | .andi d a m _ => some (d, isAnd (g.rd a) (m.signExtend 64))
  | .ori d a m _ => some (d, isOr (g.rd a) (m.signExtend 64))
  | .xori d a m _ => some (d, isXor (g.rd a) (m.signExtend 64))
  | .shli d a m _ => some (d, isShl (g.rd a) (m.signExtend 64))
  | .shri d a m _ => some (d, isShr (g.rd a) (m.signExtend 64))
  | .srai d a m _ => some (d, isSra (g.rd a) (m.signExtend 64))
  | .li d m _ => some (d, fun v => v.toInt = m.toInt)
  | .lih d q m _ =>
    some (d, fun v => ∀ i, v.getLsbD i =
      if 16 * q.toNat ≤ i ∧ i < 16 * q.toNat + 16 then m.getLsbD (i - 16 * q.toNat) else (g.rd d).getLsbD i)
  | _ => none

/-- The six conditions of R328. -/
def condEq (a b : Word) : Bool := decide (a.toNat = b.toNat)
/-- Less than, signed. -/
def condLt (a b : Word) : Bool := decide (a.toInt < b.toInt)
/-- Less than, unsigned. -/
def condLtn (a b : Word) : Bool := decide (a.toNat < b.toNat)

/-- The destination and the result of each instruction of R328. -/
def predRule (g : Eng) : Instr → Option (PReg × Bool)
  | .cmpEq d a b _ => some (d, condEq (g.rd a) (g.rd b))
  | .cmpNe d a b _ => some (d, !condEq (g.rd a) (g.rd b))
  | .cmpLt d a b _ => some (d, condLt (g.rd a) (g.rd b))
  | .cmpGe d a b _ => some (d, !condLt (g.rd a) (g.rd b))
  | .cmpLtn d a b _ => some (d, condLtn (g.rd a) (g.rd b))
  | .cmpGen d a b _ => some (d, !condLtn (g.rd a) (g.rd b))
  | .cmpiEq d a m _ => some (d, condEq (g.rd a) (m.signExtend 64))
  | .cmpiNe d a m _ => some (d, !condEq (g.rd a) (m.signExtend 64))
  | .cmpiLt d a m _ => some (d, condLt (g.rd a) (m.signExtend 64))
  | .cmpiGe d a m _ => some (d, !condLt (g.rd a) (m.signExtend 64))
  | .cmpiLtn d a m _ => some (d, condLtn (g.rd a) (m.signExtend 64))
  | .cmpiGen d a m _ => some (d, !condLtn (g.rd a) (m.signExtend 64))
  | .pand d p q _ => some (d, g.rdP p && g.rdP q)
  | .por d p q _ => some (d, g.rdP p || g.rdP q)
  | .pnot d p _ => some (d, !g.rdP p)
  | _ => none

/-- Where each branch of R332 goes, and the link register's new value if it writes one; none where its register target is
no multiple of 4. -/
def branchRule (g : Eng) : Instr → Option (Word × Option Word)
  | .br off _ => some (g.pc + 4 * off.signExtend 64, none)
  | .call off _ => some (g.pc + 4 * off.signExtend 64, some (g.pc + 4))
  | .bp p off _ => some (if g.rdP p then g.pc + 4 * off.signExtend 64 else g.pc + 4, none)
  | .jr r _ => if (g.rd r).toNat % 4 = 0 then some (g.rd r, none) else none
  | .ret _ => if (g.rd 31).toNat % 4 = 0 then some (g.rd 31, none) else none
  | .nop _ => some (g.pc + 4, none)
  | _ => none

/-! ### Numbers (R183 to R196) -/

/-- The exponent bits, fraction bits and bias of a float format, E3M5 as code 16 (R185, R189). -/
def floatShape (f : Nat) : Nat × Nat × Int :=
  match f with
  | 8 => (2, 1, 1)
  | 9 => (4, 3, 7)
  | 10 => (5, 2, 15)
  | 11 => (5, 10, 15)
  | 12 => (8, 7, 127)
  | 16 => (3, 5, 3)
  | _ => (8, 23, 127)

/-- The exact value of a pattern of a float format; none for an infinity and for NaN (R185, R186). -/
def floatVal (f bits : Nat) : Option Rat :=
  let (eb, fb, bias) := floatShape f
  let frac := bits % 2 ^ fb
  let ex := bits / 2 ^ fb % 2 ^ eb
  let sign : Rat := if f ≠ 16 ∧ bits.testBit (fb + eb) = true then -1 else 1
  if 10 ≤ f ∧ f ≤ 13 ∧ ex = 2 ^ eb - 1 ∨ f = 9 ∧ ex = 15 ∧ frac = 7 then none
  else if ex = 0 then some (sign * frac * (2 : Rat) ^ (1 - bias - fb))
  else some (sign * (2 ^ fb + frac : Nat) * (2 : Rat) ^ ((ex : Int) - bias - fb))

/-- The distance of two numbers. -/
def away (x y : Rat) : Rat := if x ≤ y then y - x else x - y

/-- The number lies within the finite values of a format. -/
def inRange (f : Nat) (x : Rat) : Prop := ∃ c v, c < 2 ^ fmtBits f 0 ∧ floatVal f c = some v ∧ away 0 x ≤ v

/-- `y` lies between 0 and `x`. -/
def towards0 (x y : Rat) : Prop := (0 ≤ y ∧ y ≤ x) ∨ (x ≤ y ∧ y ≤ 0)

/-- The pattern is the number rounded into a format under a mode, where it is in range: nearest with ties to even, towards zero, down, up,
nearest with ties away (R195, R196). -/
def isRounded (f mode : Nat) (x : Rat) (b : Nat) : Prop :=
  b < 2 ^ fmtBits f 0 ∧ ∃ v, floatVal f b = some v ∧ ∀ c y, c < 2 ^ fmtBits f 0 → floatVal f c = some y →
    match mode with
    | 0 => away x v ≤ away x y ∧ (away x v = away x y → y ≠ v → b % 2 = 0)
    | 1 => towards0 x v ∧ (towards0 x y → away 0 y ≤ away 0 v)
    | 2 => v ≤ x ∧ (y ≤ x → y ≤ v)
    | 3 => x ≤ v ∧ (x ≤ y → v ≤ y)
    | _ => away x v ≤ away x y ∧ (away x v = away x y → away 0 y ≤ away 0 v)

/-- The register target of a branch that R332 refuses. -/
def badTarget (g : Eng) : Instr → Option Word
  | .jr r _ => if (g.rd r).toNat % 4 = 0 then none else some (g.rd r)
  | .ret _ => if (g.rd 31).toNat % 4 = 0 then none else some (g.rd 31)
  | _ => none

end Sys2Proof.Claims

open Sys2Proof Sys2Proof.Machine Sys2Proof.Claims

/-- R324, R325, R326, R327: each integer instruction writes the result that its rule gives to its destination alone; a write to
s0 is discarded; the pc moves on by 4 and no predicate, flag or byte of memory changes. -/
def Obligations.integer_results : Prop :=
  ∀ (i : Instr) (s : State) (rd : SReg) (rule : Word → Prop), i.wf = true →
    (intRule s.me i = some (rd, rule) ∨ immRule s.me i = some (rd, rule)) →
    ∃ t v, exec i s = .next t ∧ rule v ∧ regSet s.me t.me rd v ∧ t.me.preds = s.me.preds ∧ t.me.pc = s.me.pc + 4 ∧
      completed s t

/-- R328: the compare and predicate instructions write their predicate alone. -/
def Obligations.predicate_results : Prop :=
  ∀ (i : Instr) (s : State) (pd : PReg) (v : Bool), predRule s.me i = some (pd, v) →
    ∃ t, exec i s = .next t ∧ predSet s.me t.me pd v ∧ regsKept s.me t.me ∧ t.me.pc = s.me.pc + 4 ∧ completed s t

/-- R332 and R347: `br`, `call`, `bp`, and `jr` and `ret` with a target that is a multiple of 4, go where the table says;
`call` alone writes a register, lr; `nop` goes on to the next word. A `jr` or `ret` whose target is no multiple of 4 does not
branch: it raises ECODE 0x04 with the target in EINFO[63:12] and 4 in EINFO[7:0]. -/
def Obligations.branch_targets : Prop :=
  (∀ (i : Instr) (s : State) (pc : Word) (lr : Option Word), branchRule s.me i = some (pc, lr) →
    ∃ t, exec i s = .next t ∧ t.me.pc = pc ∧ t.me.preds = s.me.preds ∧ completed s t ∧
      (match lr with | some v => regSet s.me t.me 31 v | none => regsKept s.me t.me)) ∧
  ∀ (i : Instr) (s : State) (target : Word), badTarget s.me i = some target → trapFree s →
    ∃ t, exec i s = .next t ∧ entered s t 0x04 (wordN (target.toNat % 2 ^ 52 * 4096 + 4))

/-! ### Scalar accesses, barriers, fences, threads and identity (R157 to R173, R329 to R341) -/

namespace Sys2Proof.Claims

/-- Of an engine that issues an access: as `engKept`, but for its class queues and what its scoreboard holds. -/
def engIssued (g h : Eng) : Prop := engKept { g with accs := h.accs, pend := h.pend } h

/-- The address of the M form: rs1 + imm6 · width (R302, R329). -/
def mAddr (g : Eng) (f : MemF) : Nat := (g.rd f.base + f.imm.signExtend 64 * BitVec.ofNat 64 (2 ^ f.width.toNat)).toNat

/-- An access of the M form that waits in the class queues of the engine that issues it. -/
def mAcc (s : State) (f : MemF) (k : AccKind) (data : Nat) : Acc :=
  { seq := s.me.seq, kind := k, cls := f.cls.toNat, aq := false, rl := false, sp := if f.sp then .s else .g,
    addr := mAddr s.me f, bytes := 2 ^ f.width.toNat, data := data, cmp := 0, pc := s.me.pc, sup := s.me.tr.priv,
    loc := none, vec := false, skip := s.me.skip, faulted := false, gone := false, elem := 0, of_ := 1 }

/-- A register of the A form, which names s0 to s7 (R303). -/
def aReg (r : BitVec 3) : SReg := r.zeroExtend 5

/-- An atomic that waits: `cmp` is the comparand that rd holds on entry (R303, R331). -/
def aAcc (s : State) (f : AmoF) (op : Nat) : Acc :=
  { seq := s.me.seq, kind := .amo op (aReg f.rd), cls := f.cls.toNat, aq := ordAq f.ord, rl := ordRl f.ord,
    sp := if f.sp then .s else .g, addr := (s.me.rd f.base).toNat, bytes := 2 ^ f.width.toNat,
    data := (s.me.rd (aReg f.rs2)).toNat, cmp := (s.me.rd (aReg f.rd)).toNat, pc := s.me.pc, sup := s.me.tr.priv, loc := none,
    vec := false, skip := s.me.skip, faulted := false, gone := false, elem := 0, of_ := 1 }

/-- The access that a scalar memory instruction makes, and the register that waits for it. -/
def accRule (s : State) : Instr → Option (Acc × Option SReg)
  | .ld f _ => some (mAcc s f (.load f.r true) 0, some f.r)
  | .ldn f _ => some (mAcc s f (.load f.r false) 0, some f.r)
  | .st f _ => some (mAcc s f .store ((s.me.rd f.r).toNat % 2 ^ (8 * 2 ^ f.width.toNat)), none)
  | .amoAdd f _ => some (aAcc s f 0, some (aReg f.rd))
  | .amoMin f _ => some (aAcc s f 1, some (aReg f.rd))
  | .amoMax f _ => some (aAcc s f 2, some (aReg f.rd))
  | .amoSwap f _ => some (aAcc s f 3, some (aReg f.rd))
  | .amoCas f _ => some (aAcc s f 4, some (aReg f.rd))
  | .amoAnd f _ => some (aAcc s f 5, some (aReg f.rd))
  | .amoOr f _ => some (aAcc s f 6, some (aReg f.rd))
  | _ => none

/-- The byte at a place, and `k` bytes above it. -/
def byteAt (s : State) (l : Loc) (k : Nat) : Byte :=
  match l with
  | .g a => s.mem.read (a + k)
  | .s c o => (s.coreAt c).bufS.read blkS (o + k)
  | .park c o => (s.coreAt c).park.read blkS (o + k)
  | .x c o => (s.coreAt c).bufX.read blkS (o + k)

/-- The word that `n` bytes at a place hold, extended by their sign or by zeros (R1, R329). -/
def loadedAt (s : State) (l : Loc) (n : Nat) (sext : Bool) (v : Word) : Prop :=
  ∀ i, i < 64 → v.getLsbD i =
    if i < 8 * n then (byteAt s l (i / 8)).getLsbD (i % 8) else sext && (byteAt s l (n - 1)).getLsbD 7

/-- `n` bytes of `data` stand at a place, lowest first; every other byte of main memory, and of every core's S, park area
and X, reads as before. -/
def storedAt (s t : State) (l : Loc) (n data : Nat) : Prop :=
  (∀ k, k < n → byteAt t l k = BitVec.ofNat 8 (data / 256 ^ k)) ∧
    (∀ a, (∀ k, k < n → l ≠ .g (a - k) ∨ a < k) → t.mem.read a = s.mem.read a) ∧
    (∀ c a, (∀ k, k < n → l ≠ .s c (a - k) ∨ a < k) → byteAt t (.s c a) 0 = byteAt s (.s c a) 0) ∧
    (∀ c a, (∀ k, k < n → l ≠ .park c (a - k) ∨ a < k) → byteAt t (.park c a) 0 = byteAt s (.park c a) 0) ∧
    (∀ c a, (∀ k, k < n → l ≠ .x c (a - k) ∨ a < k) → byteAt t (.x c a) 0 = byteAt s (.x c a) 0)

/-- An engine of a live instance has one waiting access, which has not faulted, and an empty vector queue; nothing is set aside, no
user-level handler runs or has left a register to be written, and no memory record is written. -/
def oneAccess (s : State) (c : CoreId) (e : EngId) (a : Acc) : Prop :=
  (s.instAt c).live = true ∧ (s.engAt c e).frozen = false ∧ (s.engAt c e).accs = [a] ∧ (s.engAt c e).v.vq = [] ∧
    a.faulted = false ∧ (s.engAt c e).aside = none ∧ (s.engAt c e).uispans = [] ∧
    (s.engAt c e).tr.uirq = false ∧ (s.coreAt c).trc.getLsbD 62 = false ∧ (a.bytes = 1 ∨ a.bytes = 2 ∨ a.bytes = 4 ∨ a.bytes = 8)

/-- The access goes to a place that is memory, with nothing to stop it (R384), and no KV pool's frames lie there for
it (R239, R240). -/
def reaches (s : State) (c : CoreId) (a : Acc) (l : Loc) : Prop :=
  a.loc = none ∧ s.resolve c a.sup a.sp a.addr a.bytes a.kind.reads a.kind.writes = .ok l ∧
    s.accStop c a l = none ∧
    (match l with | .g pa => pa < devBase | _ => True) ∧ (s.poolOf (s.recOf c).part).en = false

/-- Of the executing package only main memory, the buffers and translations of cores, and one engine changed: no launch, no
link state but the broken ones, no device register. -/
def perfFrame (s t : State) (c : CoreId) (e : EngId) : Prop :=
  (∀ d f, (d, f) ≠ (c, e) → t.engAt d f = s.engAt d f) ∧ t.hub = s.hub ∧ t.launches = s.launches ∧ t.clk = s.clk ∧
    t.parts = s.parts ∧ t.dies = s.dies ∧ t.ports = s.ports

/-- An engine after its access: the access is gone, its register is free, and it is as it was but for the register. -/
def accDone (g h : Eng) (rd : Option SReg) : Prop :=
  h.accs = [] ∧ h.preds = g.preds ∧ h.pc = g.pc ∧ h.tr = g.tr ∧ h.v = g.v ∧ h.vflags = g.vflags ∧ h.shadow = g.shadow ∧
    (∀ r, h.held r = (g.held r && !(some r == rd))) ∧ (∀ r, rd ≠ some r → h.rd r = g.rd r) ∧ h.rd 0 = 0

/-- What an atomic writes for the old value, as R331 gives it for `n` bytes. -/
def amoRule (op n old b cmp : Nat) : Nat :=
  let m := 2 ^ (8 * n)
  let sg (x : Nat) : Int := (BitVec.ofNat (8 * n) x).toInt
  if op = 0 then (old + b) % m
  else if op = 1 then (if sg old ≤ sg b then old else b % m)
  else if op = 2 then (if sg old ≤ sg b then b % m else old)
  else if op = 3 then b % m
  else if op = 4 then (if old = cmp % m then b % m else old)
  else if op = 5 then old &&& b % m
  else old ||| b % m

/-- The number that `n` bytes at a place hold, lowest first. -/
def numAt (s : State) (l : Loc) : Nat → Nat
  | 0 => 0
  | n + 1 => numAt s l n + 256 ^ n * (byteAt s l n).toNat

end Sys2Proof.Claims

/-- R329, R331, R158: an aligned scalar access waits in its engine's class queues with its class, address and width; the
register that it will write is held; nothing is read or written yet, and the engine goes on. -/
def Obligations.access_waits : Prop :=
  ∀ (i : Instr) (s : State) (a : Acc) (rd : Option SReg), accRule s i = some (a, rd) → a.addr % a.bytes = 0 →
    ∃ t, exec i s = .next t ∧ t.me.accs = s.me.accs ++ [a] ∧ (∀ r, t.me.held r = (s.me.held r || (some r == rd && r != 0))) ∧
      regsKept s.me t.me ∧ t.me.preds = s.me.preds ∧ t.me.pc = s.me.pc + 4 ∧ onlyMe s t ∧ engIssued s.me t.me ∧ bytesKept s t

/-- R159, R160, R161, R329, R331: a waiting access performs in one step of the order machine. A load's register takes the bytes at the
place, with their sign or zeros; a store's data stands at its place; an atomic does both, its register with the old value's
sign, its place with what the operation gives. Every other byte reads as before. -/
def Obligations.access_performs : Prop :=
  ∀ (s : State) (c : CoreId) (e : EngId) (a : Acc) (l : Loc), oneAccess s c e a → reaches s c a l →
    (∀ rd sext, a.kind = .load rd sext →
      ∃ t v, exec (.elementPerform (.acc c e 0)) s = .next t ∧ loadedAt s l a.bytes sext v ∧
        (rd ≠ 0 → (t.engAt c e).rd rd = v) ∧ accDone (s.engAt c e) (t.engAt c e) (some rd) ∧ perfFrame s t c e ∧
        bytesKept s t) ∧
    (a.kind = .store →
      ∃ t, exec (.elementPerform (.acc c e 0)) s = .next t ∧ storedAt s t l a.bytes a.data ∧
        accDone (s.engAt c e) (t.engAt c e) none ∧ perfFrame s t c e) ∧
    (∀ op rd, a.kind = .amo op rd → op ≤ 6 →
      ∃ t v, exec (.elementPerform (.acc c e 0)) s = .next t ∧ loadedAt s l a.bytes true v ∧
        (rd ≠ 0 → (t.engAt c e).rd rd = v) ∧ storedAt s t l a.bytes (amoRule op a.bytes (numAt s l a.bytes) a.data a.cmp) ∧
        accDone (s.engAt c e) (t.engAt c e) (some rd) ∧ perfFrame s t c e)

/-- R163, its conditions of class, fence, acquire and release: while an earlier access of its engine waits that has met no fault and
that stands in its class or in class 15 or carries aq, or while it carries rl or stands in class 15, or a fence between them names both
classes, an access does not perform: the step changes nothing. -/
def Sys2Proof.Claims.accessOrdered : Prop :=
  ∀ (s : State) (c : CoreId) (e : EngId) (n : Nat) (a b : Acc), (s.engAt c e).accs[n]? = some a → b ∈ (s.engAt c e).accs →
    b.isAccess = true → b.faulted = false → b.seq < a.seq →
    (b.cls = a.cls ∨ b.cls = 15 ∨ a.cls = 15 ∨ b.aq = true ∨ a.rl = true ∨
      ∃ f ∈ (s.engAt c e).fences, b.seq < f.1 ∧ f.1 ≤ a.seq ∧ f.2.getLsbD b.cls = true ∧ f.2.getLsbD a.cls = true) →
    exec (.elementPerform (.acc c e n)) s = .next s

/-- R165, R338: a fence completes at issue and holds back nothing yet; it stands at its place in program order with its
mask. -/
def Sys2Proof.Claims.fenceCompletes : Prop :=
  ∀ (s : State) (scope : BitVec 3) (mask : BitVec 16) (stl : Stl),
    ∃ t, exec (.fence scope mask stl) s = .next t ∧ t.me.fences = s.me.fences ++ [(s.me.seq, mask)] ∧ regsKept s.me t.me ∧
      t.me.preds = s.me.preds ∧ t.me.pc = s.me.pc + 4 ∧ onlyMe s t ∧ engKept { s.me with fences := t.me.fences } t.me ∧
      bytesKept s t

/-- R163, R165, R338: an access that R163 holds back does not perform, and a fence completes at issue and stands at its place in program
order. -/
def Obligations.access_ordered_and_fences : Prop := Claims.accessOrdered ∧ Claims.fenceCompletes

/-! ### Barriers, fences, threads and identity (R90 to R93, R165, R172, R173, R334 to R341) -/

namespace Sys2Proof.Claims

/-- Only the running instance of a core differs. -/
def onlyInst (s t : State) (c : CoreId) : Prop := t = s.updInst c (fun _ => t.instAt c)

/-- A barrier of an instance. -/
def barAt (n : Inst) (b : BitVec 6) : Barrier := n.bars[b.toNat]'(b.isLt)

/-- Every barrier but one is unchanged. -/
def otherBars (n m : Inst) (b : BitVec 6) : Prop := ∀ x, x ≠ b → barAt m x = barAt n x

/-- The operand of `bar.init` is one that R335 allows on a barrier. -/
def barOperand (s : State) (x : Barrier) (v : Word) (scope : BitVec 2) : Prop :=
  let n := s.instAt s.core
  let r := s.recOf s.core
  let gw := v.toNat / 2 ^ 16 % 256
  let gh := v.toNat / 2 ^ 24 % 256
  v.toNat % 2 ^ 16 ≠ 0 ∧ v.toNat / 2 ^ 32 = 0 ∧ ¬ (x.init = true ∧ x.cnt ≠ 0) ∧
    if scope = 2 then gw ≠ 0 ∧ gh ≠ 0 ∧ n.lx / gw * gw + gw ≤ r.w ∧ n.ly / gh * gh + gh ≤ r.h
    else v.toNat / 2 ^ 16 % 2 ^ 16 = 0

/-- The arrival count at the end of a ck: that of its start and the arrivals of the ck, up to 65,535 while the barrier is
uninitialised (R336). -/
def counted (x : Barrier) : Nat := if x.init then x.cnt + x.arr else min (x.cnt + x.arr) 65535

/-- A phase of a barrier completes at the end of ck `clk`: the count of an initialised barrier has reached the expected count, and
no phase has completed in the ck (R336). -/
def phaseEnds (x : Barrier) (clk : Nat) : Prop := x.init = true ∧ x.exp ≤ counted x ∧ x.doneAt ≠ some clk

/-- The value that R90 gives for a selector. -/
def identRule (s : State) (sel : Nat) (v : Word) : Prop :=
  let n := s.instAt s.core
  let r := s.recOf s.core
  v = BitVec.ofNat 64 (match sel with
    | 0 => n.lx + r.w * n.ly
    | 1 => n.lx
    | 2 => n.ly
    | 3 => r.w
    | 4 => r.h
    | 5 => s.eng.val
    | 6 => if s.eng = callerId then 0 else s.me.v.homes.length
    | 7 => s.core.val
    | _ => 1)

/-- What `ident`, `clk` and `bar.test` write, from the state alone. -/
def readRule (s : State) : Instr → Option (SReg × (Word → Prop))
  | .ident d sel _ => if sel.toNat ≤ 8 ∧ (sel.toNat ≠ 7 ∨ s.me.tr.priv = true) then some (d, identRule s sel.toNat) else none
  | .clk d _ => some (d, fun v => v.toNat = s.clk % 2 ^ 64)
  | .barTest d b _ =>
    some (d, fun v =>
      let x := barAt (s.instAt s.core) b
      v.getLsbD 63 = x.init ∧ v.toNat / 2 ^ 48 % 2 ^ 15 = 0 ∧ v.toNat / 2 ^ 32 % 2 ^ 16 = x.exp % 2 ^ 16 ∧
        v.toNat / 2 ^ 16 % 2 ^ 16 = x.cnt % 2 ^ 16 ∧ v.toNat / 2 % 2 ^ 15 = 0 ∧ v.getLsbD 0 = x.phase)
  | _ => none

/-- The thread that `fork` names. -/
def forked (t : BitVec 2) : EngId := ⟨t.toNat, Nat.lt_trans t.isLt (by decide)⟩

end Sys2Proof.Claims

/-- R90, R335, R341: `ident`, `clk` and `bar.test` write their register and nothing else: the selector's value, the package
cycle count, the barrier's word. -/
def Obligations.read_results : Prop :=
  ∀ (i : Instr) (s : State) (rd : SReg) (rule : Word → Prop), readRule s i = some (rd, rule) →
    ∃ t v, exec i s = .next t ∧ rule v ∧ regSet s.me t.me rd v ∧ t.me.preds = s.me.preds ∧ t.me.pc = s.me.pc + 4 ∧
      completed s t

/-- R335 and R336: `bar.init` with an operand that R335 allows, in a ck whose arrivals are still to be counted, initialises its
barrier with the count and the scope; the phase, the arrival count and the arrivals of the ck stay. No other barrier, register
or byte changes. -/
def Sys2Proof.Claims.barrierInit : Prop :=
  ∀ (s : State) (b : BitVec 6) (rs1 : SReg) (scope : BitVec 2) (stl : Stl),
    let x := barAt (s.instAt s.core) b
    barOperand s x (s.me.rd rs1) scope → x.shut ≠ some s.clk →
    ∃ t, exec (.barInit b rs1 scope stl) s = .next t ∧
      (let y := barAt (t.instAt s.core) b
       y.init = true ∧ y.exp = (s.me.rd rs1).toNat % 2 ^ 16 ∧ y.scope = scope.toNat ∧ y.phase = x.phase ∧ y.cnt = x.cnt ∧
         y.arr = x.arr ∧ y.doneAt = x.doneAt) ∧
      otherBars (s.instAt s.core) (t.instAt s.core) b ∧ regsKept s.me t.me ∧ t.me.preds = s.me.preds ∧
      t.me.pc = s.me.pc + 4 ∧ onlyInst s t s.core ∧ bytesKept s t

/-- R335, R336, R172: an arrival on a barrier of the issuing core's own instance that is relaxed, or that has no earlier access
of its engine to wait for, is one more arrival of the ck, which the end of the ck counts; nothing else of the barrier changes. A
release arrival behind an earlier access that has not performed waits in the class queues, with no count changed. No other barrier,
register or byte changes. -/
def Sys2Proof.Claims.barrierArrive : Prop :=
  ∀ (s : State) (b : BitVec 6) (rs1 : SReg) (mode : BitVec 2) (stl : Stl),
    let l := s.launchOf s.core
    let x := barAt (s.instAt s.core) b
    let v := (s.me.rd rs1).toNat
    v < l.rec_.w * l.rec_.h →
    (l.coreOf v = s.core → (s.instAt s.core).live = true → l.id = (s.instAt s.core).launch →
      (mode = 2 ∨ (s.me.accs = [] ∧ s.me.v.vq = [])) →
      ∃ t, exec (.barArrive b rs1 mode stl) s = .next t ∧ barAt (t.instAt s.core) b = { x with arr := x.arr + 1 } ∧
        otherBars (s.instAt s.core) (t.instAt s.core) b ∧ regsKept s.me t.me ∧ t.me.pc = s.me.pc + 4 ∧ onlyInst s t s.core ∧
        bytesKept s t) ∧
    ((if l.coreOf v = s.core then mode ≠ 2 else mode = 1) → s.me.accs ≠ [] →
      ∃ t a, exec (.barArrive b rs1 mode stl) s = .next t ∧ t.me.accs = s.me.accs ++ [a] ∧ a.rl = true ∧ a.seq = s.me.seq ∧
        a.kind = .arrive (l.coreOf v) b ∧ t.me.pc = s.me.pc + 4 ∧ regsKept s.me t.me ∧
        onlyMe s t ∧ engIssued s.me t.me ∧ bytesKept s t)

/-- R335, R336, R172: what `bar.init` leaves in its barrier, and what an arrival of either form does to its barrier's count or to the class
queues. -/
def Obligations.barrier_instructions : Prop := Claims.barrierInit ∧ Claims.barrierArrive

/-- R335, R337, R173: `bar.wait` and `bar.twait` outside a task wait for the phase that stood at the start of the ck. While none has
completed in the ck they park their engine at its instruction, with the limit of `bar.twait` in ck issue + rs1[31:0]; no register
or byte changes. Where one has, they complete at once: `bar.twait` writes 0 to rd, or 2 where its limit is this very ck. -/
def Obligations.barrier_waits : Prop :=
  ∀ (s : State) (b : BitVec 6) (rd rs1 : SReg) (stl : Stl), s.me.inTask = false →
    let lim := s.clk + (s.me.rd rs1).toNat % 2 ^ 32
    ((barAt (s.instAt s.core) b).doneAt ≠ some s.clk →
      (∃ t, exec (.barWait b stl) s = .next t ∧ onlyMe s t ∧
        t.me = { s.me with wait := .bar b, cyc := s.clk + 1 + stl.toNat }) ∧
      (∃ t, exec (.barTwait rd b rs1 stl) s = .next t ∧ onlyMe s t ∧
        t.me = { s.me with wait := .twait b rd lim, cyc := s.clk + 1 + stl.toNat })) ∧
    ((barAt (s.instAt s.core) b).doneAt = some s.clk →
      (∃ t, exec (.barWait b stl) s = .next t ∧ regsKept s.me t.me ∧ t.me.preds = s.me.preds ∧ t.me.pc = s.me.pc + 4 ∧
        completed s t) ∧
      (∃ t, exec (.barTwait rd b rs1 stl) s = .next t ∧ regSet s.me t.me rd (if s.clk < lim then 0 else 2) ∧
        t.me.preds = s.me.preds ∧ t.me.pc = s.me.pc + 4 ∧ completed s t))

/-- R336 and R173: the end of a ck counts in the ck's arrivals. If the count of an initialised barrier then reaches the expected
count, its phase bit inverts and the expected count is taken from the count, at most once in a ck; an engine that waits there
goes on past its instruction, and the register of `bar.twait` takes 0 where the limit has not come, 2 in its ck and 1 after it. If
not, the phase and every engine stay as they are. -/
def Obligations.barrier_phase : Prop :=
  ∀ (s : State) (c : CoreId) (b : BitVec 6) (e : EngId),
    let x := barAt (s.instAt c) b
    let g := s.engAt c e
    (s.instAt c).live = true → (0 < x.arr ∨ phaseEnds x s.clk) → g.uiWait = .none →
    ∃ t, exec (.barrierPhaseComplete c b) s = .next t ∧ t.mem = s.mem ∧ otherBars (s.instAt c) (t.instAt c) b ∧
      (barAt (t.instAt c) b).arr = 0 ∧
      (let y := barAt (t.instAt c) b
       let h := t.engAt c e
       (phaseEnds x s.clk →
         y.phase = (!x.phase) ∧ y.cnt = counted x - x.exp ∧ y.doneAt = some s.clk ∧
           (g.wait = .bar b → h.wait = .none ∧ h.pc = g.pc + 4 ∧ regsKept g h) ∧
           (∀ rd lim, g.wait = .twait b rd lim →
             h.wait = .none ∧ h.pc = g.pc + 4 ∧ regSet g h rd (if s.clk < lim then 0 else if s.clk = lim then 2 else 1)) ∧
           ((∀ n, g.wait ≠ .bar n) → (∀ n rd lim, g.wait ≠ .twait n rd lim) → h = g)) ∧
       (¬ phaseEnds x s.clk → y.phase = x.phase ∧ y.cnt = counted x ∧ h = g))

/-- R91, R92, R339: `fork` of a thread that does not run, on the Caller, starts it at its label with s1, s2 and s3 as the rule
says, its other registers 0 and its predicates false; its vector state and its control registers keep what they held; the
Caller goes on. `rendez` on the Caller outside a task completes when no thread of its mask runs, and changes nothing while
one does. -/
def Sys2Proof.Claims.threadsForkAndJoin : Prop :=
  (∀ (s : State) (t : BitVec 2) (rs : SReg) (off : BitVec 16) (stl : Stl), s.eng = callerId →
     (s.engAt s.core (forked t)).running = false → (t ≠ 0 → (s.recOf s.core).det = false) →
     ∃ u, exec (.fork t rs off stl) s = .next u ∧
       (let g := s.engAt s.core (forked t)
        let h := u.engAt s.core (forked t)
        h.running = true ∧ h.pc = s.me.pc + 4 * off.signExtend 64 ∧ h.preds = 0 ∧
          (∀ r : Fin 32, h.regs[r] = if r.val = 1 then (s.recOf s.core).param else
            if r.val = 2 then BitVec.ofNat 64 ((s.instAt s.core).lx + (s.recOf s.core).w * (s.instAt s.core).ly) else
            if r.val = 3 then s.me.rd rs else 0) ∧
          h.v = g.v ∧ h.tr = g.tr ∧ h.vflags = g.vflags ∧ h.twait = g.twait ∧ h.sbchk = g.sbchk ∧ h.shadow = g.shadow) ∧
       (∀ e, e ≠ callerId → e ≠ forked t → u.engAt s.core e = s.engAt s.core e) ∧
       regsKept s.me (u.engAt s.core callerId) ∧ (u.engAt s.core callerId).pc = s.me.pc + 4 ∧ onlyInst s u s.core ∧ bytesKept s u) ∧
  ∀ (s : State) (mask : BitVec 4) (stl : Stl), s.eng = callerId → s.me.inTask = false →
    ((∀ t : BitVec 2, mask.getLsbD t.toNat = true → (s.engAt s.core (forked t)).running = false) →
      ∃ u, exec (.rendez mask stl) s = .next u ∧ regsKept s.me u.me ∧ u.me.preds = s.me.preds ∧ u.me.pc = s.me.pc + 4 ∧
        completed s u) ∧
    ((∃ t : BitVec 2, mask.getLsbD t.toNat = true ∧ (s.engAt s.core (forked t)).running = true) →
      exec (.rendez mask stl) s = .next s)

/-- R92, R93, R271: `halt` ends a vector thread whose queue has retired and whose accesses have performed; it makes the Caller
wait for the end of its instance; at supervisor privilege in a trap it ends the launch with STATUS 1 and the engine's ECODE, if
the launch has met no other end. -/
def Sys2Proof.Claims.haltEnds : Prop :=
  ∀ (s : State) (stl : Stl),
    (s.me.tr.trap = false → s.me.inTask = false → s.me.tr.uirq = false →
      (s.eng = callerId ∨ (s.me.v.vq = [] ∧ s.me.accs = [])) →
      ∃ t, exec (.halt stl) s = .next t ∧ onlyMe s t ∧
        if s.eng = callerId then t.me = { s.me with wait := .halting, cyc := s.clk + 1 + stl.toNat }
        else t.me = { s.me with running := false, fences := [], cyc := s.clk + 1 + stl.toNat }) ∧
    (s.me.tr.trap = true → s.me.tr.priv = true →
      ∃ t, exec (.halt stl) s = .next t ∧ t = { s with launches := t.launches } ∧
        ∀ id, id ≠ (s.instAt s.core).launch → (t.launchAt id) = (s.launchAt id)) ∧
    (∀ l, s.me.tr.trap = true → s.me.tr.priv = true → s.launches = [l] → l.id = (s.instAt s.core).launch → l.stopping = false →
      ∃ t, exec (.halt stl) s = .next t ∧ t.launches = [{ l with
        stopping := true, status := 1, ecode := s.me.tr.ecode, core := (s.instAt s.core).lx + l.rec_.w * (s.instAt s.core).ly,
        eng := s.eng.val, fatalAt := s.clk }])

/-- R91, R92, R93, R271, R339: `fork` and `rendez` start and join the vector threads, and `halt` ends a thread, an instance or, in a trap, the
launch. -/
def Obligations.threads_and_halt : Prop := Claims.threadsForkAndJoin ∧ Claims.haltEnds

/-- R340, R77: `launch` on the Caller, once its earlier accesses have performed, presents the 64 bytes of the record to the
dispatcher with the parent's launch; rd is held until the answer comes, and nothing else changes. -/
def Obligations.launch_presents : Prop :=
  ∀ (s : State) (rd rs1 : SReg) (stl : Stl) (pa : Nat) (bs : List Byte), s.eng = callerId → (s.me.rd rs1).toNat % 64 = 0 →
    s.me.accs = [] → s.me.v.vq = [] → s.me.aside = none →
    s.xlate s.core s.me.tr.priv (s.me.rd rs1).toNat 64 permR = .ok pa → pa < devBase →
    s.readPhys (s.partOf s.core) pa 64 (s.me.rd rs1).toNat = .ok bs →
    ∃ t b, exec (.launch rd rs1 stl) s = .next t ∧ t.subs = s.subs ++ [b] ∧ b.recBytes = some bs ∧ b.core = some s.core ∧
      b.parent = (s.instAt s.core).launch ∧ b.rd = rd ∧ b.tag = none ∧ (∀ r, t.me.held r = (s.me.held r || (r == rd && r != 0))) ∧
      regsKept s.me t.me ∧ t.me.pc = s.me.pc + 4 ∧ t.mem = s.mem ∧ t.launches = s.launches ∧ t.hub = s.hub

/-! ### Control registers, traps and returns, and the system instructions (R265 to R274, R323, R342 to R350) -/

namespace Sys2Proof.Claims

/-- The code that an access to a control register raises, by R343, R255 and R323; none where it is allowed. -/
def crCode (caller sup open_ : Bool) (num : Nat) (write : Bool) : Option Nat :=
  if caller && ((1 ≤ num && num ≤ 6) || (8 ≤ num && num ≤ 0x0a) || (0x40 ≤ num && num < 0x80)) then some 0x01
  else if !caller && (num == 0x0d || (num == 0x07 && write)) then some 0x01
  else if num == 0x0e && write && open_ then some 0x01
  else if !sup && ((num == 0x04 && !caller) || num == 0x0f || num == 0x10 || num == 0x11 || num == 0x13) then some 0x03
  else none

/-- The code for the executing engine. -/
def crCodeNow (s : State) (num : BitVec 12) (write : Bool) : Option Nat :=
  crCode (s.eng == callerId) s.me.tr.priv s.me.task.isSome num.toNat write

/-- The four operations: the register number, and whether it writes. -/
def crOp : Instr → Option (BitVec 12 × Bool)
  | .crRd _ n _ => some (n, false)
  | .crWr _ n _ => some (n, true)
  | .crSet _ n _ => some (n, true)
  | .crClr _ n _ => some (n, true)
  | _ => none

/-- What a write leaves, from the old value and the source register (R342). -/
def crNew (s : State) (old : Word) : Instr → Option Word
  | .crWr r _ _ => some (s.me.rd r)
  | .crSet r _ _ => some (old ||| s.me.rd r)
  | .crClr r _ _ => some (old &&& ~~~ s.me.rd r)
  | _ => none

/-- Nothing of R344 holds the executing engine up. -/
def crNoWait (s : State) : Prop := s.eng = callerId ∨ s.me.v.vq = []

/-- The value of a control register, field by field (R90, R98 to R100, R115, R148, R200, R258, R265, R343, R344). -/
def crIs (s : State) (num : Nat) (v : Word) : Prop :=
  let g := s.me
  match num with
  | 0x00 => v.toNat = (if g.tr.raw then 1024 else g.v.vl) % 2 ^ 64
  | 0x01 => g.tr.raw = false → v = g.v.vtype
  | 0x02 => v.toNat = g.v.vstart % 2 ^ 64
  | 0x03 => v.toNat = g.v.len % 2 ^ 64
  | 0x04 => v.toNat = g.v.vlcap % 2 ^ 64
  | 0x05 => v.toNat = g.v.vregs % 2 ^ 64
  | 0x06 => g.tr.raw = false → ∀ r : Fin 32, v.getLsbD r.val = g.v.tags[r].getLsbD 18 ∧ v.getLsbD (32 + r.val) = false
  | 0x07 => ∀ t : Fin 4, v.toNat / 2 ^ (8 * t.val) % 2 ^ 8 = (s.instAt s.core).ven[t] % 256 ∧
      v.getLsbD (32 + t.val) = (s.engAt s.core ⟨t.val, Nat.lt_trans t.isLt (by decide)⟩).running
  | 0x08 => v.toNat = g.v.lslip % 2 ^ 64
  | 0x09 => v = g.v.stripd
  | 0x0a => v.toNat = g.v.stripn % 2 ^ 64
  | 0x0b => v = g.vflags
  | 0x0c => v = if g.sbchk then 1 else 0
  | 0x0d => v = g.uivec
  | 0x0e => v.toNat % 2 ^ 24 = g.ubase % 2 ^ 24 ∧ v.toNat / 2 ^ 24 % 2 ^ 24 = g.ulimit % 2 ^ 24 ∧ v.toNat / 2 ^ 48 = g.udepth % 2 ^ 16
  | 0x0f => v.toNat = g.tr.ecode % 2 ^ 64
  | 0x10 => v = g.tr.einfo
  | 0x11 => v = g.tr.epc
  | 0x12 => v.getLsbD 0 = g.tr.priv ∧ v.getLsbD 1 = g.tr.trap ∧ v.getLsbD 2 = g.tr.ppriv ∧ v.getLsbD 3 = g.tr.uirq ∧
      v.getLsbD 6 = g.tr.epcw ∧ v.getLsbD 7 = g.tr.raw ∧ v.toNat / 2 ^ 8 = g.tr.src % 8 ∧ v.getLsbD 4 = false ∧ v.getLsbD 5 = false
  | 0x13 => v = (s.coreAt s.core).errinj
  | 0x14 => v.toNat = g.twait % 2 ^ 64
  | 0x15 => v.toNat = (s.recOf s.core).param.toNat % 2 ^ 52
  | _ => ∀ j : Fin 64, num = 0x40 + j.val → v = g.v.seg[j]

/-- The bits that a write of a control register stores where it stores all of them as written (R4 and the registers' tables);
none for the registers of another kind. -/
def crMask (s : State) (num : Nat) : Option Word :=
  let thread := s.eng ≠ callerId
  match num with
  | 0x00 => if thread ∨ s.me.tr.raw = true then none else some 0xffffff
  | 0x01 => if thread ∧ s.me.tr.priv = true ∧ s.me.tr.raw = false then some 0xfffff else none
  | 0x02 => if thread ∧ s.me.tr.priv = true ∧ s.me.tr.raw = false then some 0xffffff else none
  | 0x08 => if thread ∧ (s.recOf s.core).det = false then some 0xf else none
  | 0x09 => some 0x3fffff
  | 0x0a => some 0xffffffff
  | 0x0b => some 0x7f
  | 0x0c => some 0x1
  | 0x0d => some 0xffffffffffffd
  | 0x0f => some 0xff
  | 0x10 => some 0xffffffffffffffff
  | 0x11 => some 0xffffffffffffc
  | 0x13 => some 0xe0000000003f3f1f
  | 0x14 => some 0xffffffff
  | n => if 0x40 ≤ n ∧ n < 0x80 then some 0xffffffffffffffff else none

/-- A register whose writes are ignored on the executing engine (R4, R343). -/
def crIgnored (s : State) (num : Nat) : Prop :=
  num = 0x03 ∨ num = 0x05 ∨ num = 0x06 ∨ num = 0x12 ∨ num = 0x15 ∨
    (s.eng ≠ callerId ∧ (s.me.tr.priv = false ∨ s.me.tr.raw = true) ∧ (num = 0x00 ∨ num = 0x01 ∨ num = 0x02)) ∨
    (num = 0x08 ∧ (s.recOf s.core).det = true)

/-- A register of which a write stores another value than the written bits: VL of a thread at supervisor privilege, VLCAP, VEN and
USTK (R100, R258, R343). -/
def crShaped (s : State) (num : Nat) : Prop :=
  (num = 0x00 ∧ s.eng ≠ callerId ∧ s.me.tr.priv = true ∧ s.me.tr.raw = false) ∨ num = 0x04 ∨ num = 0x07 ∨ num = 0x0e

/-- The value `v` that such a register holds after a write of `w`: VL is held to the largest VL that VTYPE grants, VLCAP is rounded
down to a power of two of at least 1,024, a weight of 0 in VEN counts as 1, and BASE and LIMIT of USTK are multiples of 32; what is read-only
in VEN and USTK stays. -/
def crShape (s : State) (num : Nat) (w v : Word) : Prop :=
  let y := s.me.v.vtype.toNat
  match num with
  | 0x00 => v.toNat = min (w.toNat % 2 ^ 24) (s.me.v.len * 2 ^ (y / 2 ^ 7 % 4) / fmtBits (y % 16) (y / 2 ^ 11 % 4)) % 2 ^ 64
  | 0x04 =>
    ∃ k, v.toNat = 2 ^ k ∧ if w.toNat % 2 ^ 19 < 1024 then k = 10 else v.toNat ≤ w.toNat % 2 ^ 19 ∧ w.toNat % 2 ^ 19 < 2 * v.toNat
  | 0x07 =>
    v.toNat / 2 ^ 32 = (s.crValue 0x07).toNat / 2 ^ 32 ∧
      ∀ t : Fin 4, v.toNat / 2 ^ (8 * t.val) % 2 ^ 8 = max 1 (w.toNat / 2 ^ (8 * t.val) % 2 ^ 8)
  | _ =>
    v.toNat % 2 ^ 24 = w.toNat % 2 ^ 24 / 32 * 32 ∧ v.toNat / 2 ^ 24 % 2 ^ 24 = w.toNat / 2 ^ 24 % 2 ^ 24 / 32 * 32 ∧
      v.toNat / 2 ^ 48 = s.me.udepth % 2 ^ 16

/-- The instructions that R323 and R90 keep for supervisor privilege. -/
def isPriv : Instr → Bool
  | .eret _ => true
  | .unfreeze _ _ _ => true
  | .ident _ sel _ => sel.toNat == 7
  | _ => false

/-- The TLB entries that map a page, of the running instance or any. -/
def tlbLeft (s : State) (keep : TlbEnt → Bool) (t : State) : Prop :=
  (t.coreAt s.core).tlb = (s.coreAt s.core).tlb.filter keep ∧
    t = s.updCore s.core (fun k => { k with tlb := (t.coreAt s.core).tlb, inst := t.instAt s.core })

end Sys2Proof.Claims

/-- R342: `cr.rd` of a register that the table allows writes the register's value to rd, and nothing else. -/
def Obligations.control_register_read : Prop :=
  ∀ (s : State) (r : SReg) (num : BitVec 12) (stl : Stl), (Instr.crRd r num stl).wf = true → crCodeNow s num false = none →
    crNoWait s →
    ∃ t v, exec (.crRd r num stl) s = .next t ∧ crIs s num.toNat v ∧ regSet s.me t.me r v ∧ t.me.preds = s.me.preds ∧
      t.me.pc = s.me.pc + 4 ∧ completed s t

/-- R4, R342, R343: `cr.wr`, `cr.set` and `cr.clr` of an allowed register store the written value in the bits that it has; the
register then reads so, every other control register reads as before (a write of EPC also sets EPCW in ESTAT, R265), and no
scalar register or byte of memory changes. VL of a thread, VLCAP, VEN and USTK take what their tables make of the written value (R100,
R258, R343); VLCAP sets the register length anew, and clears the thread's tags where that changes (R98, R99). A write of a register that
is read-only for the engine, or that raw view discards (R115), changes nothing but the pc. -/
def Obligations.control_register_write : Prop :=
  ∀ (i : Instr) (s : State) (num : BitVec 12), i.wf = true → crOp i = some (num, true) →
    crCodeNow s num true = none → crNoWait s →
    (∀ m v, crMask s num.toNat = some m → crNew s (s.crValue num.toNat) i = some v →
      ∃ t, exec i s = .next t ∧ t.crValue num.toNat = v &&& m ∧ (∀ n : BitVec 12, crAssigned n.toNat = true → n ≠ num →
          ¬ (num.toNat = 0x11 ∧ n.toNat = 0x12) → t.crValue n.toNat = s.crValue n.toNat) ∧
        regsKept s.me t.me ∧ t.me.preds = s.me.preds ∧ t.me.pc = s.me.pc + 4 ∧ bytesKept s t) ∧
    (∀ w, crShaped s num.toNat → crNew s (s.crValue num.toNat) i = some w →
      ∃ t, exec i s = .next t ∧ crShape s num.toNat w (t.crValue num.toNat) ∧
        (∀ n : BitVec 12, crAssigned n.toNat = true → n ≠ num → ¬ (num.toNat = 0x04 ∧ (n.toNat = 0x03 ∨ n.toNat = 0x06)) →
          t.crValue n.toNat = s.crValue n.toNat) ∧
        (num.toNat = 0x04 → t.me.v.len = regLen s.me.v.homes.length s.me.v.vregs t.me.v.vlcap ∧
          if t.me.v.len = s.me.v.len then t.me.v.tags = s.me.v.tags else ∀ r : Fin 32, t.me.v.tags[r] = 0) ∧
        regsKept s.me t.me ∧ t.me.preds = s.me.preds ∧ t.me.pc = s.me.pc + 4 ∧ bytesKept s t) ∧
    (crIgnored s num.toNat →
      ∃ t, exec i s = .next t ∧ regsKept s.me t.me ∧ t.me.preds = s.me.preds ∧ t.me.pc = s.me.pc + 4 ∧ completed s t)

/-- R270, R273: a trap raised while one is open freezes the engine: TRAP stays set, no register changes, and the notification
queue takes a record of the freeze if it has room. -/
def Sys2Proof.Claims.doubleFault : Prop :=
  ∀ (s : State) (imm : BitVec 16) (stl : Stl), s.me.tr.trap = true → s.hub.notifs.length < 1024 →
    ∃ t n, exec (.trap imm stl) s = .next t ∧ t.me = { s.me with frozen := true } ∧ t.hub.notifs = s.hub.notifs ++ [n] ∧
      n.kind = 1 ∧ n.ecode = 0x19 ∧ n.part = (s.recOf s.core).part ∧ t = { s.updMe (fun _ => t.me) with hub := t.hub }

/-- R269: `eret` at supervisor privilege with a trap open, neither a first-use trap nor one of a write that a freed slot refused, restores PRIV from PPRIV and clears TRAP; with
EPCW = 0 the set-aside convoys stand in the queue again, the first of them at VSTART, and issue goes on at the resume address; with EPCW = 1 they are
discarded and it goes on at EPC. No scalar register changes. -/
def Sys2Proof.Claims.eretReturns : Prop :=
  ∀ (s : State) (a : Aside) (stl : Stl), s.me.tr.priv = true → s.me.tr.trap = true → s.me.aside = some a → s.me.v.vq = [] →
    a.firstUse = false → a.late = false → a.tq = none → a.acc = none → s.me.wait = .none → s.me.uiWait = .none →
    ∃ t, exec (.eret stl) s = .next t ∧ t.me.tr = { s.me.tr with priv := s.me.tr.ppriv, trap := false, raw := false } ∧
      t.me.aside = none ∧ regsKept s.me t.me ∧ t.me.preds = s.me.preds ∧ onlyMe s t ∧ bytesKept s t ∧
      if s.me.tr.epcw then t.me.pc = s.me.tr.epc ∧ t.me.v.vq = []
      else t.me.pc = a.resume ∧ t.me.v.vq.tail = a.vq.tail ∧ (∀ q, t.me.v.vq.head? = some q → q.prog = s.me.v.vstart) ∧
        t.me.v.vq.map (fun q => { q with skip := 0, prog := 0 }) = a.vq.map (fun q => { q with skip := 0, prog := 0 })

/-- R147, R148: a Caller that may take a user-level interrupt takes the lowest port's: shadow s24, s25 and s26 hold the return
address, the stream's status word and the port, the handler is next, and the ordinary registers are unchanged. `ueret` in a
handler goes on at the address in shadow s24 and switches back to the ordinary registers, which the handler has not changed. -/
def Sys2Proof.Claims.userInterruptAndReturn : Prop :=
  (∀ (s : State) (c : CoreId) (p : Fin 8) (w : Word), s.mayUi c = true → (s.portAt c p).irq = some w →
     (∀ q : Fin 8, q < p → (s.portAt c q).irq = none) →
     ∃ t, exec (.userInterrupt c) s = .next t ∧
       (let g := s.engAt c callerId
        let h := t.engAt c callerId
        h.tr = { g.tr with uirq := true } ∧ h.pc = g.uivec &&& 0xffffffffffffc ∧ h.rd 24 = g.pc ∧ h.rd 25 = w ∧
          h.rd 26 = BitVec.ofNat 64 p.val ∧ h.rd 27 = g.shadow[3] ∧ h.rd 28 = g.shadow[4] ∧ h.rd 29 = g.shadow[5] ∧
          h.regs = g.regs ∧ h.preds = g.preds ∧ h.v = g.v) ∧
       (t.portAt c p).irq = none ∧ (∀ q : Fin 8, q ≠ p → t.portAt c q = s.portAt c q) ∧ onlyInst s t c ∧ bytesKept s t) ∧
  ∀ (s : State) (stl : Stl), s.me.tr.uirq = true → s.me.uiWait = .none →
    ∃ t, exec (.ueret stl) s = .next t ∧ t.me.pc = s.me.rd 24 ∧ t.me.tr = { s.me.tr with uirq := false } ∧ regsKept s.me t.me ∧
      (∀ r : Fin 32, r.val ≠ 0 → t.me.rd (BitVec.ofNat 5 r.val) = s.me.regs[r]) ∧ t.me.preds = s.me.preds ∧ onlyMe s t ∧
      bytesKept s t

/-- R147, R148, R269, R270, R273: a trap inside a trap freezes the engine, `eret` returns from a trap, and a user-level interrupt is taken and
returned from. -/
def Obligations.traps_and_returns : Prop := Claims.doubleFault ∧ Claims.eretReturns ∧ Claims.userInterruptAndReturn

/-- R348: `tlbinv` and its form with ALL drop the core's entries of the running instance, at supervisor privilege those of
the parked one too: those that map the page of rs1[51:0] whatever its size, or every one; the others stay. -/
def Sys2Proof.Claims.tlbDropped : Prop :=
  ∀ (s : State) (rs1 : SReg) (stl : Stl),
    let va := (s.me.rd rs1).toNat % 2 ^ 52
    (∃ t, exec (.tlbinv rs1 stl) s = .next t ∧ regsKept s.me t.me ∧ t.me.pc = s.me.pc + 4 ∧ bytesKept s t ∧
      tlbLeft s (fun x => decide ((x.parked = true ∧ s.me.tr.priv = false) ∨ va / 2 ^ x.bits ≠ x.vpage)) t) ∧
    (∃ t, exec (.tlbinvAll stl) s = .next t ∧ regsKept s.me t.me ∧ t.me.pc = s.me.pc + 4 ∧ bytesKept s t ∧
      tlbLeft s (fun x => decide (x.parked = true ∧ s.me.tr.priv = false)) t)

/-- R274, R349: `unfreeze` at supervisor privilege of an engine of another core of the partition resumes it and writes 0 if it
is frozen, writes 1 and changes nothing if neither it nor a parked one there is, and writes 2 for a core outside the
partition. -/
def Sys2Proof.Claims.unfreezeResults : Prop :=
  ∀ (s : State) (rd rs1 : SReg) (stl : Stl) (d : PartDef) (c : CoreId) (e : EngId), s.me.tr.priv = true → c ≠ s.core →
    s.partDef (s.recOf s.core).part = some d → (s.me.rd rs1).toNat % 2 ^ 32 = (engMaster c e).toNat →
    ∃ t v, exec (.unfreeze rd rs1 stl) s = .next t ∧ regSet s.me t.me rd v ∧ t.me.pc = s.me.pc + 4 ∧ bytesKept s t ∧
      if d.hasCore c = false then v = 2 ∧ t.engAt c e = s.engAt c e
      else if (s.engAt c e).frozen = true then v = 0 ∧ t.engAt c e = { s.engAt c e with frozen := false }
      else v = (if ((s.coreAt c).parked.engs[e]).frozen then 0 else 1) ∧ t.engAt c e = s.engAt c e

/-- R286, R350: `psample` with an address that is a multiple of 32 issues 16 stores of 8 bytes each to the S space in class 15, at the
address and above it: of each lane group 32 bytes, zeros for a retired group, else its busy count, its element count, and in
the last word no bit above the third of the three 4-byte counts. No register or byte changes yet. Another address raises ECODE
0x04. -/
def Sys2Proof.Claims.psampleWrites : Prop :=
  ∀ (s : State) (rs1 : SReg) (stl : Stl),
    let a := s.me.rd rs1
    (a.toNat % 32 = 0 →
      ∃ t, ∃ as : Vector Acc 16, exec (.psample rs1 stl) s = .next t ∧ t.me.accs = s.me.accs ++ as.toList ∧
        (∀ i : Fin 16, as[i].kind = .store ∧ as[i].cls = 15 ∧ as[i].sp = .s ∧ as[i].bytes = 8 ∧ as[i].seq = s.me.seq ∧
          as[i].addr = (a + BitVec.ofNat 64 (8 * i.val)).toNat) ∧
        (∀ (g : Fin 4) (i : Fin 16), i.val / 4 = g.val →
          if (s.coreAt s.core).lanesOut.getLsbD g.val then as[i].data = 0
          else if i.val % 4 = 0 then as[i].data = (s.instAt s.core).busy[g] % 2 ^ 64
          else if i.val % 4 = 1 then as[i].data = (s.instAt s.core).elems[g] % 2 ^ 64
          else if i.val % 4 = 3 then as[i].data < 2 ^ 32
          else as[i].data < 2 ^ 64) ∧
        regsKept s.me t.me ∧ t.me.preds = s.me.preds ∧ t.me.pc = s.me.pc + 4 ∧ engIssued s.me t.me ∧
        t = { s.updMe (fun _ => t.me) with freeCtr := s.freeCtr + 1 } ∧ bytesKept s t) ∧
    (a.toNat % 32 ≠ 0 → trapFree s →
      ∃ t, exec (.psample rs1 stl) s = .next t ∧ entered s t 0x04 (wordN (a.toNat % 2 ^ 52 * 4096 + 32)))

/-- R274, R286, R348, R349, R350: what `tlbinv`, `unfreeze` and `psample` do. -/
def Obligations.system_instructions : Prop := Claims.tlbDropped ∧ Claims.unfreezeResults ∧ Claims.psampleWrites

/-! ### Tile queues, slots and streams (R120, R130, R143, R144, R426 to R436, R445 to R447) -/

namespace Sys2Proof.Claims

/-- The queue bit of a command that a tile queue takes, its operands as the Caller reads them at issue, and the register that
its result will land in. None where an issue check of R441, R444, R445 or R447 refuses it. -/
def tileRule (s : State) : Instr → Option (Bool × Word × Word × Word × Option SReg)
  | .mzero _ q _ => some (q, 0, 0, 0, none)
  | .mmodeStd q _ => some (q, 0, 0, 0, none)
  | .mmodeRed q _ => some (q, 0, 0, 0, none)
  | .mma f _ => some (f.q, s.me.rd f.rb &&& 0xffffffff, 0, 0, none)
  | .mmar f _ => some (f.q, s.me.rd f.rb &&& 0xffffffff, 0, 0, none)
  | .mreel f _ =>
    let g := f.gang.toNat + 1
    if (s.instAt s.core).lx / g * g + g ≤ (s.recOf s.core).w then some (f.q, s.me.rd f.rb &&& 0xffffffff, 0, 0, none) else none
  | .mdrain f _ => if (s.me.rd f.rs1).toNat % 64 = 0 then some (f.q, s.me.rd f.rs1, 0, 0, none) else none
  | .sstrm d a _ q _ =>
    if d ≠ 0 ∧ (s.me.rd a).toNat % 128 = 0 then some (q, s.me.rd a, BitVec.ofNat 64 s.me.v.vl, 0, some d) else none
  | .agather d a _ q _ =>
    if d ≠ 0 ∧ (s.me.rd a).toNat % 128 = 0 then some (q, s.me.rd a, BitVec.ofNat 64 s.me.v.vl, 0, some d) else none
  | .ssusp _ q _ => some (q, 0, 0, 0, none)
  | .sres _ q _ => some (q, 0, 0, 0, none)
  | .skill _ q _ => some (q, 0, 0, 0, none)
  | .snote _ q _ => some (q, 0, 0, 0, none)
  | .rtpush a q _ => if (s.me.rd a).toNat % 32 = 0 then some (q, s.me.rd a, 0, 0, none) else none
  | .rdisp a q _ => if (s.me.rd a).toNat % 128 = 0 then some (q, s.me.rd a, 0, 0, none) else none
  | .rcombPart a q _ => if (s.me.rd a).toNat % 128 = 0 then some (q, s.me.rd a, 0, 0, none) else none
  | .rcombFin a q _ => if (s.me.rd a).toNat % 128 = 0 then some (q, s.me.rd a, 0, 0, none) else none
  | .rgenOpen n a b q _ =>
    if 1 ≤ (s.me.rd n).toNat ∧ (s.me.rd n).toNat ≤ 2048 ∧ (s.me.rd a).toNat < 2 ^ 16 ∧ (s.me.rd b).toNat % 16 = 0 then
      some (q, s.me.rd n, s.me.rd b, s.me.rd a, none) else none
  | .rgenRetire a q _ => if (s.me.rd a).toNat < 2 ^ 16 then some (q, 0, 0, s.me.rd a, none) else none
  | .kvalloc d a b q _ =>
    if d ≠ 0 ∧ 1 ≤ (s.me.rd b).toNat % 128 ∧ (s.me.rd b).toNat % 128 ≤ 64 ∧ (s.me.rd a).toNat % 8 = 0 then
      some (q, s.me.rd a, s.me.rd b, 0, some d) else none
  | .kvfree d a q _ => if d ≠ 0 ∧ (s.me.rd a).toNat % 8 = 0 then some (q, s.me.rd a, 0, 0, some d) else none
  | .kvpin d a q _ => if d ≠ 0 ∧ (s.me.rd a).toNat % 8 = 0 then some (q, s.me.rd a, 0, 0, some d) else none
  | .kvunpin d a q _ => if d ≠ 0 ∧ (s.me.rd a).toNat % 8 = 0 then some (q, s.me.rd a, 0, 0, some d) else none
  | .kvevict d a b q _ =>
    if d ≠ 0 ∧ 1 ≤ (s.me.rd b).toNat ∧ (s.me.rd b).toNat ≤ 256 ∧ (s.me.rd a).toNat % 16 = 0 then
      some (q, s.me.rd a, s.me.rd b, 0, some d) else none
  | .kvinv d a b q _ => if d ≠ 0 ∧ (s.me.rd a).toNat % 8 = 0 then some (q, s.me.rd a, s.me.rd b, 0, some d) else none
  | _ => none

/-- A tile queue of the executing core by its bit, and the other one. -/
def tqBit (q : Bool) : Fin 2 := if q then 1 else 0

/-- The bytes of a command: eight for the two-word ones (R297). -/
def cmdBytes : Instr → Word
  | .mma _ _ => 8
  | .mmar _ _ => 8
  | .mreel _ _ => 8
  | .mdrain _ _ => 8
  | _ => 4

/-- A misaligned operand of a command, and the multiple that R447, R444 or R445 names. -/
def tileMisaligned (s : State) : Instr → Option (Nat × Nat)
  | .mdrain f _ => some ((s.me.rd f.rs1).toNat, 64)
  | .sstrm d a _ _ _ => if d ≠ 0 then some ((s.me.rd a).toNat, 128) else none
  | .agather d a _ _ _ => if d ≠ 0 then some ((s.me.rd a).toNat, 128) else none
  | .rtpush a _ _ => some ((s.me.rd a).toNat, 32)
  | .rdisp a _ _ => some ((s.me.rd a).toNat, 128)
  | .rcombPart a _ _ => some ((s.me.rd a).toNat, 128)
  | .rcombFin a _ _ => some ((s.me.rd a).toNat, 128)
  | .kvfree d a _ _ => if d ≠ 0 then some ((s.me.rd a).toNat, 8) else none
  | .kvpin d a _ _ => if d ≠ 0 then some ((s.me.rd a).toNat, 8) else none
  | .kvunpin d a _ _ => if d ≠ 0 then some ((s.me.rd a).toNat, 8) else none
  | .kvinv d a _ _ _ => if d ≠ 0 then some ((s.me.rd a).toNat, 8) else none
  | _ => none

/-- The claim of a slot: W or X, the slot, and scaled. -/
def claimOp : Instr → Option (Bool × Nat × Bool)
  | .mclaimX n _ => some (false, n.toNat, false)
  | .mclaimXScl n _ => some (false, n.toNat, true)
  | .mclaimW n _ => some (true, n.toNat, false)
  | _ => none

/-- The release of a slot: W or X, and the slot. -/
def releaseOp : Instr → Option (Bool × Nat)
  | .mreleaseX n _ => some (false, n.toNat)
  | .mreleaseW n _ => some (true, n.toNat)
  | _ => none

/-- The slots of the executing instance's window (R89). -/
def slotCount (s : State) (isW : Bool) : Nat :=
  if isW then ((s.coreAt s.core).winW (s.fgAt s.core)).2 else ((s.coreAt s.core).winX (s.fgAt s.core)).2

/-- A slot of the executing instance is claimed. -/
def isClaimed (s : State) (isW : Bool) (k : Nat) : Bool :=
  if isW then (s.instAt s.core).wslots.getLsbD k else ((s.instAt s.core).xslot k).claimed

/-- A command that waits in a tile queue will read the slot. -/
def slotRead (s : State) (isW : Bool) (k : Nat) : Prop :=
  ∃ (q : Fin 2) (x : TqEnt), x ∈ ((s.instAt s.core).tqs[q]).ents ∧ x.begun = false ∧
    ∃ f, (∃ stl, x.cmd = .mma f stl ∨ x.cmd = .mmar f stl ∨ x.cmd = .mreel f stl) ∧ (if isW then f.w.toNat else f.x.toNat) = k

/-- The head of a tile queue is a command that may act, and the engine of the core that orders it does nothing else. -/
def headIs (s : State) (c : CoreId) (q : Fin 2) (x : TqEnt) : Prop := s.tqHead c q = some x

/-- The array of a core is idle, and no pass of a Reel waits for it (R429). -/
def arrayIdle (s : State) (c : CoreId) : Prop := (s.coreAt c).zrun = none ∧ (s.coreAt c).reels = []

/-- Bytes stand in a core's Z from an offset on, and every other byte of its Z reads as before. -/
def zWritten (s t : State) (c : CoreId) (a : Nat) (bs : List Byte) : Prop :=
  ∀ o, (t.coreAt c).bufZ.read blkZ o = if a ≤ o ∧ o < a + bs.length then bs.getD (o - a) 0 else (s.coreAt c).bufZ.read blkZ o

/-- The fields and the rows of a product of one core (R436, R437). -/
def passCmd : Instr → Option (MmaF × Nat)
  | .mma f _ => some (f, 64)
  | .mmar f _ => some (f, f.n1.toNat + 1)
  | _ => none

/-- A product may begin: its windows and slots are in order, its format fits its slot, redundant mode has its pair, an `mmar` has its
rows, an aq has what it waits for, nothing it reads is uncorrectable, no error is injected and the package is not throttled (R39, R89,
R132, R278, R281, R436 to R438). -/
def passReady (s : State) (c : CoreId) (x : TqEnt) (f : MmaF) (rows : Nat) (red : Bool) : Prop :=
  let k := s.coreAt c
  let sl := (s.instAt c).xslot f.x.toNat
  f.x.toNat < (k.winX (s.fgAt c)).2 ∧ f.w.toNat < (k.winW (s.fgAt c)).2 ∧ f.z.toNat < (k.winZ (s.fgAt c)).2 ∧ sl.claimed = true ∧
    (s.instAt c).wslots.getLsbD f.w.toNat = true ∧ (f.fmt.toNat = 8 → sl.scaled = true) ∧ (f.fmt.toNat = 12 → sl.scaled = false) ∧
    (red = true → f.z.toNat % 2 = 0 ∧ f.z.toNat + 1 < (k.winZ (s.fgAt c)).2) ∧ (∀ stl, x.cmd = .mmar f stl → rows ≤ sl.arrived) ∧
    s.tqMayAq c x f.aq = true ∧ k.bufX.poison = [] ∧ k.bufW.poison = [] ∧ k.bufZ.poison = [] ∧ k.errinj.getLsbD 63 = false ∧
    s.hub.estimate ≤ s.hub.limit ∧ ∀ d : Fin 10, s.hub.hots[d] = false

/-- Element `k` of a 256-byte operand row of a format, under its block scale if it is scaled (R183, R191, R434). -/
def rowVal (fmt : Nat) (scaled : Bool) (row scales : List Byte) (k : Nat) : Option Rat :=
  let w := fmtBits fmt 0
  match floatVal fmt (fieldLE row 0 256 / 2 ^ (w * k) % 2 ^ w), floatVal 16 (fieldLE scales (k / (2048 / w / 64)) 1) with
  | some v, some sc => some (if scaled then v * sc else v)
  | _, _ => none

/-- The pattern that a pass leaves in row `i` and column `j` of a copy's tile, where every factor is finite and the result in range: the
old value and the scaled product sum, rounded once (R201, R278, R434, R437). -/
def passRule (s : State) (c : CoreId) (f : MmaF) (bands copy i j v : Nat) : Prop :=
  let k := s.coreAt c
  let bx := (k.winX (s.fgAt c)).1
  let bw := (k.winW (s.fgAt c)).1
  let scaled := ((s.instAt c).xslot f.x.toNat).scaled
  let a := rowVal f.fmt.toNat scaled (k.bufX.readBytes blkS (xPhys bx (f.x.toNat * 0x4000 + 256 * i)) 256)
    (k.bufX.readBytes blkS (xPhys bx (0x80000 + f.x.toNat * 0x1000 + 64 * i)) 64)
  let b := rowVal f.fmt.toNat scaled (k.bufW.readBytes blkS (wPhys bw (f.w.toNat * 0x4000 + 256 * j)) 256)
    (k.bufW.readBytes blkS (wPhys bw (0x100000 + f.w.toNat * 0x1000 + 64 * j)) 64)
  let old := fieldLE (k.bufZ.readBytes blkZ (((k.winZ (s.fgAt c)).1 + f.z.toNat + copy) * 16384 + 256 * i + 4 * j) 4) 0 4
  ∀ (as bs : Nat → Rat) (sa sb z : Rat), (∀ n, n < 2048 / fmtBits f.fmt.toNat 0 → a n = some (as n) ∧ b n = some (bs n)) →
    floatVal 12 (bands % 65536) = some sa → floatVal 12 (bands / 65536 % 65536) = some sb → floatVal 13 old = some z →
    let x := z + ((List.range (2048 / fmtBits f.fmt.toNat 0)).map (fun n => as n * bs n)).sum * sa * sb
    inRange 13 x → isRounded 13 0 x v

/-- The bits of an element that `mdrain` writes: those of Z in FP32, else its value rounded under the command's mode where it is in range
(R444). -/
def drainRule (f : DrainF) (z out : Nat) : Prop :=
  if f.fmt.toNat = 13 then out = z
  else ∀ v, floatVal 13 z = some v → inRange f.fmt.toNat v → isRounded f.fmt.toNat f.rnd.toNat v out

/-- The elements that one write of a drain holds: the two of a byte in FP4, else one (R444). -/
def drainPer (f : DrainF) : Nat := if f.fmt.toNat = 8 then 2 else 1

/-- The rows of a Reel's B that a core still waits for lie in its leader's W slot, and the leader runs (R441). -/
def landsFrom (s : State) (c : CoreId) (r : ReelJob) : Prop :=
  (s.coreAt c).reels = [r] ∧ (s.instAt c).live = true ∧ r.launch = (s.instAt c).launch ∧ (s.instAt r.leader).live = true ∧
    (s.instAt r.leader).launch = r.launch ∧ (s.coreAt c).preReq = false ∧ s.haltedAt c = false ∧
    (s.coreAt r.leader).bufW.poison = [] ∧ r.landed < 2 ^ 2560 - 1

/-- A stream runs on a port of a core whose units may act, without an error. -/
def streamRuns (s : State) (c : CoreId) (p : Fin 8) (st : Strm) : Prop :=
  s.unitsRun c = true ∧ (s.portAt c p).run = some st ∧ (s.portAt c p).frozen = false ∧ st.err = 0

/-- Count `k` of an affine block: an n0 of 0 takes the Caller's VL at issue (R138). -/
def countOf (st : Strm) (k : Nat) : Nat :=
  if k = 0 ∧ fieldLE st.blk 24 4 = 0 then st.cvl else fieldLE st.blk (24 + 4 * k) 4

/-- The address of the element of an affine stream with indices `i`, from the base and the strides at offsets of its block (R138). -/
def affineAddr (st : Strm) (base strides : Nat) (i : Nat → Nat) : Word :=
  wordN (fieldLE st.blk base 8 + ((List.range 4).map (fun k => i k * fieldLE st.blk (strides + 8 * k) 8)).sum)

/-- The space that a stream reads, 0 for G and 1 for S (R136, R245). -/
def sourceSpace (st : Strm) : Nat := if st.kind = .agather then 0 else fieldLE st.blk 2 1

/-- The space that a stream writes (R136, R245). -/
def destSpace (st : Strm) : Nat := if st.kind = .agather then fieldLE st.blk 2 1 else fieldLE st.blk 3 1

/-- A byte of the executing core's W or X. -/
def slotByte (s : State) (isW : Bool) (a : Nat) : Byte :=
  if isW then (s.coreAt s.core).bufW.read blkS a else (s.coreAt s.core).bufX.read blkS a

/-- The byte of W or X lies in a slot of the executing instance: in its 16,384 bytes of data, or in its 4,096 of scales (R121). -/
def inSlot (s : State) (isW : Bool) (k a : Nat) : Prop :=
  let n := (if isW then ((s.coreAt s.core).winW (s.fgAt s.core)).1 else ((s.coreAt s.core).winX (s.fgAt s.core)).1) + k
  (n * 0x4000 ≤ a ∧ a < (n + 1) * 0x4000) ∨
    ((if isW then 0x100000 else 0x80000) + n * 0x1000 ≤ a ∧ a < (if isW then 0x100000 else 0x80000) + (n + 1) * 0x1000)

end Sys2Proof.Claims

/-- R120, R426, R427, R445, R447: a command of the tile queues whose issue checks pass, on a Caller whose named queue has room,
stands at the end of that queue with its operands as read at issue; a result register is held; the pc moves past its one or
two words, and neither the other queue nor a register nor a byte changes. While the queue is full its Caller waits: nothing
changes. -/
def Obligations.tile_command_queued : Prop :=
  ∀ (i : Instr) (s : State) (q : Bool) (a b c : Word) (rd : Option SReg), s.eng = callerId →
    tileRule s i = some (q, a, b, c, rd) →
    (((s.instAt s.core).tqs[tqBit q]).ents.length < 16 →
      ∃ t x, exec i s = .next t ∧ ((t.instAt s.core).tqs[tqBit q]).ents = ((s.instAt s.core).tqs[tqBit q]).ents ++ [x] ∧
        x.cmd = i ∧ x.pc = s.me.pc ∧ x.seq = s.me.seq ∧ x.a = a ∧ x.b = b ∧ x.c = c ∧ x.begun = false ∧
        (t.instAt s.core).tqs[tqBit (!q)] = (s.instAt s.core).tqs[tqBit (!q)] ∧
        (∀ r, t.me.held r = (s.me.held r || (some r == rd && r != 0))) ∧ regsKept s.me t.me ∧ t.me.preds = s.me.preds ∧
        t.me.pc = s.me.pc + cmdBytes i ∧ engIssued s.me t.me ∧ onlyInst s t s.core ∧ bytesKept s t) ∧
    (16 ≤ ((s.instAt s.core).tqs[tqBit q]).ents.length → exec i s = .next s)

/-- R432, R130, R89: a claim of a free slot of the window marks it claimed at issue, an X slot as scaled or not and with no
byte landed; no other slot changes. A claim of a claimed slot raises ECODE 0x01 and changes nothing; one beyond the window
freezes the Caller, claims nothing, and the notification queue takes a record with code 0x07 if it has room. Their words are
major 0x30 with the sub-op in [25:21] and the slot in [20:15]. -/
def Obligations.slot_claimed : Prop :=
  (∀ (n : BitVec 6) (stl : Stl),
    encode (.mclaimX n stl) = [0b110000#6 ++ 0b00000#5 ++ n ++ 0#12 ++ stl] ∧
    encode (.mclaimXScl n stl) = [0b110000#6 ++ 0b00001#5 ++ n ++ 0#12 ++ stl] ∧
    encode (.mclaimW n stl) = [0b110000#6 ++ 0b00010#5 ++ n ++ 0#12 ++ stl]) ∧
  ∀ (i : Instr) (s : State) (isW : Bool) (k : Nat) (scl : Bool), i.wf = true → s.eng = callerId → claimOp i = some (isW, k, scl) →
    (k < slotCount s isW → isClaimed s isW k = false →
      ∃ t, exec i s = .next t ∧ isClaimed t isW k = true ∧
        (isW = false → (t.instAt s.core).xslot k = { claimed := true, scaled := scl, wrote := 0 }) ∧
        (∀ w j, j < 64 → (w = false → j < 32) → (w, j) ≠ (isW, k) → isClaimed t w j = isClaimed s w j) ∧ regsKept s.me t.me ∧
        t.me.pc = s.me.pc + 4 ∧ onlyInst s t s.core ∧ bytesKept s t) ∧
    (k < slotCount s isW → isClaimed s isW k = true → trapFree s →
      ∃ t, exec i s = .next t ∧ entered s t 0x01 (faultWord i)) ∧
    (slotCount s isW ≤ k →
      ∃ t, exec i s = .next t ∧ t.me = { s.me with frozen := true } ∧ t = { s.updMe (fun _ => t.me) with hub := t.hub } ∧
        (s.hub.notifs.length < 1024 → ∃ n, t.hub.notifs = s.hub.notifs ++ [n] ∧ n.kind = 1 ∧ n.ecode = 0x07))

/-- R130, R433: a release of a claimed slot that no queued command reads frees it, and its data and scales then read as zeros, every
other byte of W and X as before; while a command that has not begun names it the Caller waits. -/
def Obligations.slot_released : Prop :=
  ∀ (i : Instr) (s : State) (isW : Bool) (k : Nat), i.wf = true → s.eng = callerId → releaseOp i = some (isW, k) →
    k < slotCount s isW →
    (isClaimed s isW k = true → ¬ slotRead s isW k →
      ∃ t, exec i s = .next t ∧ isClaimed t isW k = false ∧
        (∀ w j, j < 64 → (w = false → j < 32) → (w, j) ≠ (isW, k) → isClaimed t w j = isClaimed s w j) ∧
        (∀ w a, (w = isW → ¬ inSlot s isW k a) → slotByte t w a = slotByte s w a) ∧
        (∀ a, inSlot s isW k a → slotByte t isW a = 0) ∧ regsKept s.me t.me ∧
        t.me.pc = s.me.pc + 4 ∧ t.mem = s.mem ∧ (t.coreAt s.core).bufS = (s.coreAt s.core).bufS ∧
        (t.coreAt s.core).bufZ = (s.coreAt s.core).bufZ) ∧
    (isClaimed s isW k = true → slotRead s isW k → exec i s = .next s)

/-- R430, R431: `mqprio` with a code of 0 to 2 sets the core's priority code and nothing else that a program reads. An `mmode`
that reaches the head of its queue sets the queue's mode for the entries behind it and leaves; the other queue keeps its
mode. -/
def Obligations.queue_settings : Prop :=
  (∀ (s : State) (n : BitVec 6) (stl : Stl), s.eng = callerId → (Instr.mqprio n stl).wf = true →
    ∃ t, exec (.mqprio n stl) s = .next t ∧ (t.instAt s.core).prio = n.toNat ∧ (t.instAt s.core).tqs = (s.instAt s.core).tqs ∧
      regsKept s.me t.me ∧ t.me.pc = s.me.pc + 4 ∧ onlyInst s t s.core ∧ bytesKept s t) ∧
  ∀ (s : State) (c : CoreId) (q : Fin 2) (x : TqEnt) (b : Bool) (stl : Stl) (red : Bool), headIs s c q x →
    x.cmd = (if red then .mmodeRed b stl else .mmodeStd b stl) →
    ∃ t, exec (.engineCommandCompletion (.tile c q)) s = .next t ∧ ((t.instAt c).tqs[q]).red = red ∧
      ((t.instAt c).tqs[q]).ents = ((s.instAt c).tqs[q]).ents.drop 1 ∧
      (∀ p : Fin 2, p ≠ q → (t.instAt c).tqs[p] = (s.instAt c).tqs[p]) ∧ onlyInst s t c

/-- R429, R435, R161, R171: a granted `mzero` sets the array to write zeros over every byte of its tile, or in redundant mode of its pair,
and over no other; each later grant makes one of the writes that are left, whole, and changes no other byte of Z; with none left the
command clears the pair's marks and leaves its queue. -/
def Obligations.tile_zeroed : Prop :=
  (∀ (s : State) (c : CoreId) (q p : Fin 2) (x : TqEnt) (n : BitVec 6) (b : Bool) (stl : Stl), headIs s c q x →
    x.cmd = .mzero n b stl → p ≠ q → s.tqHead c p = none → arrayIdle s c →
    let red := ((s.instAt c).tqs[q]).red
    let w := (s.coreAt c).winZ (s.fgAt c)
    let lo := (w.1 + n.toNat) * 16384
    let len := if red then 32768 else 16384
    n.toNat < w.2 → (red = true → n.toNat % 2 = 0 ∧ n.toNat + 1 < w.2) →
    ∃ t r, exec (.matrixGrant c) s = .next t ∧ (t.coreAt c).zrun = some r ∧ r.q = q ∧ r.leader = none ∧ r.z = n.toNat ∧
      (∀ u ∈ r.puts, lo ≤ u.1 ∧ u.1 + u.2.length ≤ lo + len ∧ ∀ v ∈ u.2, v = 0) ∧
      (∀ a, lo ≤ a → a < lo + len → ∃ u ∈ r.puts, u.1 ≤ a ∧ a < u.1 + u.2.length) ∧ (t.coreAt c).bufZ = (s.coreAt c).bufZ ∧
      ((t.instAt c).tqs[q]).ents = { x with begun := true } :: ((s.instAt c).tqs[q]).ents.drop 1 ∧ bytesKept s t) ∧
  ∀ (s : State) (c : CoreId) (r : ZRun), (s.instAt c).live = true → (s.coreAt c).reels = [] → (s.coreAt c).zrun = some r →
    (r.puts ≠ [] →
      ∃ t u, exec (.matrixGrant c) s = .next t ∧ u ∈ r.puts ∧ zWritten s t c u.1 u.2 ∧
        (t.coreAt c).zrun = some { r with puts := r.puts.erase u } ∧ t.instAt c = s.instAt c ∧ bytesKept s t) ∧
    (∀ x n b stl, r.puts = [] → r.leader = none → ((s.instAt c).tqs[r.q]).ents.head? = some x → x.cmd = .mzero n b stl →
      ∃ t, exec (.matrixGrant c) s = .next t ∧ (t.coreAt c).zrun = none ∧ (t.coreAt c).bufZ = (s.coreAt c).bufZ ∧
        ((t.instAt c).tqs[r.q]).ents = ((s.instAt c).tqs[r.q]).ents.drop 1 ∧
        (∀ k : Fin 64, k.val / 2 = r.z % 64 / 2 → ((t.instAt c).ztiles[k]).bad = false ∧ ((t.instAt c).ztiles[k]).inj = false) ∧
        (∀ k : Fin 64, k.val / 2 ≠ r.z % 64 / 2 → (t.instAt c).ztiles[k] = (s.instAt c).ztiles[k]) ∧ bytesKept s t)

/-- R201, R278, R434, R437, R441, R443, R444: the passes of the array and the drain. A granted `mma` or `mmar` sets the array to write each
element of its rows, in redundant mode of both tiles, with the result of R201, and writes no other; once all are written, its flags
are raised, its arrival is made and it leaves its queue. The last member of a Reel to finish sets the arrivals of the other
members. An element of B that lands in a member's W slot is the leader's. An `mdrain` that has begun writes one element more, or in FP4 a pair, at
its place in S, with the result of R444, and no other byte; once all are written it raises its flags, arrives and leaves. (Where a
factor is infinite or NaN or the result out of range, its value is not stated here.) -/
def Obligations.matrix_passes : Prop :=
  (∀ (s : State) (c : CoreId) (q p : Fin 2) (x : TqEnt) (f : MmaF) (rows : Nat), headIs s c q x → passCmd x.cmd = some (f, rows) →
    x.cmd.wf = true → p ≠ q → s.tqHead c p = none → arrayIdle s c →
    let red := ((s.instAt c).tqs[q]).red
    let copies := if red then 2 else 1
    let lo := ((s.coreAt c).winZ (s.fgAt c)).1 + f.z.toNat
    passReady s c x f rows red →
    ∃ t r, exec (.matrixGrant c) s = .next t ∧ (t.coreAt c).zrun = some r ∧ r.q = q ∧ r.leader = none ∧
      (∀ copy i j, copy < copies → i < rows → j < 64 →
        ∃ bs, ((lo + copy) * 16384 + 256 * i + 4 * j, bs) ∈ r.puts ∧ passRule s c f x.a.toNat copy i j (fieldLE bs 0 4)) ∧
      (∀ u ∈ r.puts, u.2.length = 4 ∧
        ∃ copy i j, copy < copies ∧ i < rows ∧ j < 64 ∧ u.1 = (lo + copy) * 16384 + 256 * i + 4 * j) ∧
      (t.coreAt c).bufZ = (s.coreAt c).bufZ ∧
      ((t.instAt c).tqs[q]).ents = { x with begun := true } :: ((s.instAt c).tqs[q]).ents.drop 1 ∧ bytesKept s t) ∧
  (∀ (s : State) (c : CoreId) (r : ZRun), (s.instAt c).live = true → (s.coreAt c).reels = [] → (s.coreAt c).zrun = some r →
    r.puts = [] →
    (∀ x f rows, r.leader = none → ((s.instAt c).tqs[r.q]).ents.head? = some x → passCmd x.cmd = some (f, rows) →
      ∃ t, exec (.matrixGrant c) s = .next t ∧ (t.coreAt c).zrun = none ∧ (t.coreAt c).bufZ = (s.coreAt c).bufZ ∧
        ((t.instAt c).tqs[r.q]).ents = ((s.instAt c).tqs[r.q]).ents.drop 1 ∧
        (t.engAt c callerId).vflags = (s.engAt c callerId).vflags ||| (wordN r.flags &&& 0x7f) ∧
        (∀ b, barAt (t.instAt c) b = if f.arrive = true ∧ b = f.bar then
          { barAt (s.instAt c) b with arr := (barAt (s.instAt c) b).arr + 1 } else barAt (s.instAt c) b) ∧ bytesKept s t) ∧
    (∀ l m x rest f stl, r.leader = some (l, m) → r.red = false → (s.instAt l).live = true → (s.instAt l).launch = r.launch →
      ((s.instAt l).tqs[r.q]).ents = x :: rest → x.cmd = .mreel f stl →
      ∃ t, exec (.matrixGrant c) s = .next t ∧ (t.coreAt c).zrun = none ∧
        ((t.instAt l).tqs[r.q]).ents = { x with done := x.done + 1, flags := x.flags ||| r.flags } :: rest ∧
        (t.coreAt l).gangArr = (s.coreAt l).gangArr ++
          (if x.done = f.gang.toNat then (s.otherMembers r.launch l f).map (fun d => (r.launch, d, f.bar)) else []) ∧ bytesKept s t)) ∧
  (∀ (s : State) (c : CoreId) (r : ReelJob) (z : ZRun), landsFrom s c r → (s.coreAt c).zrun = some z → z.puts = [] → z.leader = none →
    ((s.instAt c).tqs[z.q]).ents = [] →
    ∃ t, exec (.matrixGrant c) s = .next t ∧ bytesKept s t ∧
      (((t.coreAt c).zrun = none ∧ (t.coreAt c).bufW = (s.coreAt c).bufW) ∨
        ∃ k, k < 2560 ∧ r.landed.testBit k = false ∧ (t.coreAt c).reels = [{ r with landed := r.landed ||| 2 ^ k }] ∧
          (let off := if k < 2048 then r.f.w.toNat * 0x4000 + 8 * k else 0x100000 + r.f.w.toNat * 0x1000 + 8 * (k - 2048)
           let dst := wPhys ((s.coreAt c).winW (s.fgAt c)).1 off
           let src := wPhys ((s.coreAt r.leader).winW (s.fgAt r.leader)).1 off
           ∀ a, (t.coreAt c).bufW.read blkS a =
             if dst ≤ a ∧ a < dst + 8 then (s.coreAt r.leader).bufW.read blkS (src + (a - dst)) else (s.coreAt c).bufW.read blkS a))) ∧
  ∀ (s : State) (c : CoreId) (q : Fin 2) (x : TqEnt) (f : DrainF) (stl : Stl), headIs s c q x → x.cmd = .mdrain f stl →
    x.cmd.wf = true → x.begun = true → (s.coreAt c).bufS.poison = [] → (s.coreAt c).bufZ.poison = [] →
    let w := fmtBits f.fmt.toNat 0
    let per := drainPer f
    ((∃ k, k < 4096 / per ∧ x.done.testBit k = false) →
      ∃ t k, exec (.engineCommandCompletion (.tile c q)) s = .next t ∧ k < 4096 / per ∧ x.done.testBit k = false ∧ t.mem = s.mem ∧
        (let at_ := ((s.coreAt c).winS (s.fgAt c)).1 + x.a.toNat + 8 * w * (k / (64 / per)) + per * w / 8 * (k % (64 / per))
         let zat (e : Nat) : Nat := (((s.coreAt c).winZ (s.fgAt c)).1 + f.z.toNat) * 16384 + 256 * (k / (64 / per)) + 4 * e
         (∀ o, ¬ (at_ ≤ o ∧ o < at_ + per * w / 8) → (t.coreAt c).bufS.read blkS o = (s.coreAt c).bufS.read blkS o) ∧
           ∀ e, e < per → drainRule f (fieldLE ((s.coreAt c).bufZ.readBytes blkZ (zat (per * (k % (64 / per)) + e)) 4) 0 4)
             (fieldLE ((t.coreAt c).bufS.readBytes blkS at_ (per * w / 8)) 0 (per * w / 8) / 2 ^ (w * e) % 2 ^ w)) ∧
        (∃ fl, ((t.instAt c).tqs[q]).ents =
          { x with done := x.done ||| 2 ^ k, flags := x.flags ||| fl } :: ((s.instAt c).tqs[q]).ents.drop 1)) ∧
    ((∀ k, k < 4096 / per → x.done.testBit k = true) →
      ∃ t, exec (.engineCommandCompletion (.tile c q)) s = .next t ∧
        ((t.instAt c).tqs[q]).ents = ((s.instAt c).tqs[q]).ents.drop 1 ∧
        (t.engAt c callerId).vflags = (s.engAt c callerId).vflags ||| (wordN x.flags &&& 0x7f) ∧
        (∀ b, barAt (t.instAt c) b = if f.arrive = true ∧ b = f.bar then
          { barAt (s.instAt c) b with arr := (barAt (s.instAt c) b).arr + 1 } else barAt (s.instAt c) b) ∧ bytesKept s t)

/-- R138, R139, R141, R142, R171: the elements of a stream. The next beat of an affine stream issues its elements, each from and to the
address that its indices give. A unit that has issued is read from G or S, whole; and once it has been read it is written at its
destination in G, S, X or W, whole, with no other byte changed, after which the leading elements count as landed. -/
def Obligations.stream_elements : Prop :=
  (∀ (s : State) (c : CoreId) (p : Fin 8) (st : Strm), streamRuns s c p st → st.kind = .affine → st.flight = [] → st.susp = false →
    st.next < st.exp →
    let es := 2 ^ fieldLE st.blk 1 1
    let n := min (64 / es) (st.exp - st.next)
    ∃ t st', exec (.elementPerform (.stream c p)) s = .next t ∧ (t.portAt c p).run = some st' ∧ st'.next = st.next + n ∧
      st'.flight.length = n ∧ st'.landed = st.next ∧ bytesKept s t ∧
      ∀ i : Nat → Nat, i 0 < countOf st 0 → i 1 < countOf st 1 → i 2 < countOf st 2 →
        let e := i 0 + countOf st 0 * (i 1 + countOf st 1 * (i 2 + countOf st 2 * i 3))
        st.next ≤ e → e < st.next + n →
        ∃ x ∈ st'.flight, x.elem = e ∧ x.len = es ∧ x.got = none ∧ x.src = affineAddr st 8 40 i ∧ x.dst = affineAddr st 16 72 i) ∧
  (∀ (s : State) (c : CoreId) (p : Fin 8) (st : Strm) (x : Piece) (l : Loc), streamRuns s c p st → st.flight = [x] →
    st.next = st.exp → x.got = none → x.keep = 0 →
    s.resolve c false (if sourceSpace st = 1 then .s else .g) x.src.toNat x.len true false = .ok l → s.badRead l x.len = false →
    (∀ a, l = .g a → a < devBase) →
    ∃ t v, exec (.elementPerform (.stream c p)) s = .next t ∧
      (t.portAt c p).run = some { st with flight := [{ x with got := some v }] } ∧ v = numAt s l x.len ∧ bytesKept s t) ∧
  ∀ (s : State) (c : CoreId) (p : Fin 8) (st : Strm) (x : Piece) (v : Nat), streamRuns s c p st → st.flight = [x] →
    st.next = st.exp → x.got = some v → x.keep = 0 → (s.poolOf (s.recOf c).part).en = false →
    (∀ l, (destSpace st = 0 ∨ destSpace st = 1) →
      s.resolve c false (if destSpace st = 1 then .s else .g) x.dst.toNat x.len false true = .ok l → s.badWrite l x.len = false →
      (∀ a, l = .g a → a < devBase) →
      ∃ t st', exec (.elementPerform (.stream c p)) s = .next t ∧ (t.portAt c p).run = some st' ∧ st'.flight = [] ∧
        st'.landed = st.next ∧ storedAt s t l x.len v) ∧
    (∀ isX : Bool, destSpace st = (if isX then 3 else 4) →
      let k := s.coreAt c
      let w := if isX then k.winX (s.fgAt c) else k.winW (s.fgAt c)
      let o := x.dst.toNat
      let n := if isX then xSlotOf o else wSlotOf o
      let at_ := if isX then xPhys w.1 o else wPhys w.1 o
      o + x.len ≤ (if isX then 0xa0000 else 0x140000) → n < w.2 →
      (if isX then ((s.instAt c).xslot n).claimed else (s.instAt c).wslots.getLsbD n) = true → k.bufX.poison = [] → k.bufW.poison = [] →
      ∃ t st', exec (.elementPerform (.stream c p)) s = .next t ∧ (t.portAt c p).run = some st' ∧ st'.flight = [] ∧
        st'.landed = st.next ∧ bytesKept s t ∧
        (∀ a, (t.coreAt c).bufX.read blkS a =
          if isX = true ∧ at_ ≤ a ∧ a < at_ + x.len then BitVec.ofNat 8 (v / 256 ^ (a - at_)) else (s.coreAt c).bufX.read blkS a) ∧
        ∀ a, (t.coreAt c).bufW.read blkS a =
          if isX = false ∧ at_ ≤ a ∧ a < at_ + x.len then BitVec.ofNat 8 (v / 256 ^ (a - at_)) else (s.coreAt c).bufW.read blkS a)

/-- R144: stream control at the head of its queue: `ssusp` asks the port's running stream to stop from this ck on, `skill` ends one
that is not yet in error with code 6; either leaves the queue. -/
def Sys2Proof.Claims.streamControl : Prop :=
  ∀ (s : State) (c : CoreId) (q : Fin 2) (x : TqEnt) (p : BitVec 3) (b : Bool) (stl : Stl) (st : Strm), headIs s c q x →
    (s.portAt c ⟨p.toNat, p.isLt⟩).run = some st →
    (x.cmd = .ssusp p b stl →
      ∃ t, exec (.engineCommandCompletion (.tile c q)) s = .next t ∧
        (t.portAt c ⟨p.toNat, p.isLt⟩).run =
          some (if st.susp then st else { st with susp := true, suspAt := s.clk, past := false }) ∧
        ((t.instAt c).tqs[q]).ents = ((s.instAt c).tqs[q]).ents.drop 1 ∧ onlyInst s t c ∧ bytesKept s t) ∧
    (x.cmd = .skill p b stl → st.err = 0 →
      ∃ t, exec (.engineCommandCompletion (.tile c q)) s = .next t ∧
        (t.portAt c ⟨p.toNat, p.isLt⟩).run = some { st with err := 6 } ∧
        ((t.instAt c).tqs[q]).ents = ((s.instAt c).tqs[q]).ents.drop 1 ∧ onlyInst s t c ∧ bytesKept s t)

/-- R143, R445: `speek` on a Caller writes the value of rs1 where rs1 waits for nothing, and the current status word of the
stream whose register it is otherwise: STATE 0, the elements expected and the elements landed (R141). -/
def Sys2Proof.Claims.speekResults : Prop :=
  ∀ (s : State) (rd rs1 : SReg) (stl : Stl) (st : Strm), s.eng = callerId →
    (s.me.held rs1 = false →
      ∃ t, exec (.speek rd rs1 stl) s = .next t ∧ regSet s.me t.me rd (s.me.rd rs1) ∧ t.me.pc = s.me.pc + 4 ∧ completed s t) ∧
    (s.me.held rs1 = true → (s.instAt s.core).streamOf rs1 = some st →
      ∃ t v, exec (.speek rd rs1 stl) s = .next t ∧ regSet s.me t.me rd v ∧
        v.toNat = st.exp % 2 ^ 24 * 2 ^ 32 + st.landed % 2 ^ 32 ∧ t.me.pc = s.me.pc + 4 ∧ completed s t)

/-- R143, R144, R445: `ssusp` and `skill` at the head of their queue, and what `speek` writes. -/
def Obligations.stream_commands : Prop := Claims.streamControl ∧ Claims.speekResults

/-! ### Speculation (R253 to R262) and the vector threads (R94, R333, R352 to R356) -/

namespace Sys2Proof.Claims

/-- Tasks exist in the executing launch (R253). -/
def tasksExist (s : State) : Prop := (s.recOf s.core).boost = true ∧ (s.recOf s.core).det = false

/-- The engine's earlier accesses have performed, its convoys have retired, and no trap has set any aside. -/
def quiet (g : Eng) : Prop := g.accs = [] ∧ g.v.vq = [] ∧ g.aside = none

/-- The six speculation instructions. -/
def isSpec : Instr → Bool
  | .sctab _ _ => true
  | .sreg _ _ _ => true
  | .sbegin _ _ _ => true
  | .sop _ _ _ _ _ => true
  | .scommit _ => true
  | .sabort _ => true
  | _ => false

/-- The VL that `vcfg` grants for an application vector length, of E elements and blocks of B (R352). -/
def grantedVl (e b avl : Nat) : Nat := if avl = 0 then 0 else min e ((avl + b - 1) / b * b)

/-- A VTYPE word holds the fields of R351. -/
def vtypeIs (v : Word) (pad bw : Nat) (ma ta : Bool) (grp blk fmt : Nat) : Prop :=
  v.toNat % 2 ^ 4 = fmt ∧ v.toNat / 2 ^ 4 % 2 ^ 3 = blk ∧ v.toNat / 2 ^ 7 % 2 ^ 2 = grp ∧ v.getLsbD 9 = ta ∧ v.getLsbD 10 = ma ∧
    v.toNat / 2 ^ 11 % 2 ^ 2 = bw ∧ v.toNat / 2 ^ 13 = pad

/-- The tags of a thread with bits 17:4 of each word clear (R213). -/
def tagsCleared (a b : Tags) : Prop := ∀ (r : Fin 32) (i : Nat), b[r].getLsbD i = (a[r].getLsbD i && !(4 ≤ i && i ≤ 17) && i < 19)

/-- The pointers of STRIPD that name a register, R293. -/
def stripCount (d : Word) (r : SReg) : Nat := (List.range 4).countP (fun k => d.toNat / 2 ^ (2 + 5 * k) % 32 == r.toNat)

/-- A convoy may enter the queue of the executing thread: it names no register at or above VREGS, holds no `vwait` inside a
task, and the queue has room (R94, R255, R320). -/
def mayEnter (s : State) (slots : List VSlot) : Prop :=
  s.eng ≠ callerId ∧ (∀ v ∈ slots, ∀ r ∈ slotVRegs v.op v.f, r < s.me.vregsNow) ∧
    (s.me.inTask = true → ∀ v ∈ slots, v.op ≠ .vwait) ∧ (s.me.v.vq.filter (fun q => !q.isMark)).length < 16

/-- What a queued convoy has captured of its thread (R94): its address, its slots, the scalar registers that its fields
name, VL, VTYPE, TWAIT and SEG; it has not begun. -/
def captured (g : Eng) (slots : List VSlot) (q : QConvoy) : Prop :=
  q.pc = g.pc ∧ q.seq = g.seq ∧ q.slots = slots ∧
    q.scal = slots.map (fun v => [g.rd v.f.vs1, g.rd v.f.vs2, g.rd v.f.vs3, g.rd v.f.vd]) ∧ (g.tr.raw = false → q.vl = g.v.vl ∧
      q.vtype = g.v.vtype) ∧ q.twait = g.twait ∧ q.seg = g.v.seg.toList ∧ q.start = none ∧ q.fly = []

/-- The opcode and the fields of a vector instruction by itself (R319). -/
def loneOf : Instr → Option VSlot
  | .vadd f => some ⟨.vadd, f⟩ | .vsub f => some ⟨.vsub, f⟩ | .vadds f => some ⟨.vadds, f⟩ | .vsubs f => some ⟨.vsubs, f⟩
  | .vmul f => some ⟨.vmul, f⟩ | .vmin f => some ⟨.vmin, f⟩ | .vmax f => some ⟨.vmax, f⟩ | .vabs f => some ⟨.vabs, f⟩
  | .vneg f => some ⟨.vneg, f⟩ | .vnot f => some ⟨.vnot, f⟩ | .vand f => some ⟨.vand, f⟩ | .vor f => some ⟨.vor, f⟩
  | .vxor f => some ⟨.vxor, f⟩ | .vshl f => some ⟨.vshl, f⟩ | .vshr f => some ⟨.vshr, f⟩ | .vsra f => some ⟨.vsra, f⟩
  | .vdiv f => some ⟨.vdiv, f⟩ | .vsqrt f => some ⟨.vsqrt, f⟩ | .vrsqrt f => some ⟨.vrsqrt, f⟩ | .vrcp f => some ⟨.vrcp, f⟩
  | .vclass f => some ⟨.vclass, f⟩ | .vcmp f => some ⟨.vcmp, f⟩ | .vsel f => some ⟨.vsel, f⟩ | .vmov f => some ⟨.vmov, f⟩
  | .vbcast f => some ⟨.vbcast, f⟩ | .vid f => some ⟨.vid, f⟩ | .vmand f => some ⟨.vmand, f⟩ | .vmor f => some ⟨.vmor, f⟩
  | .vmnot f => some ⟨.vmnot, f⟩ | .vfma f => some ⟨.vfma, f⟩ | .vfms f => some ⟨.vfms, f⟩ | .vfnma f => some ⟨.vfnma, f⟩
  | .vwmac f => some ⟨.vwmac, f⟩ | .vdotBlk f => some ⟨.vdotBlk, f⟩ | .vcvt f => some ⟨.vcvt, f⟩ | .vld f => some ⟨.vld, f⟩
  | .vlds f => some ⟨.vlds, f⟩ | .vldx f => some ⟨.vldx, f⟩ | .vgl f => some ⟨.vgl, f⟩ | .vldIpb f => some ⟨.vldIpb, f⟩
  | .vldZ f => some ⟨.vldZ, f⟩ | .vst f => some ⟨.vst, f⟩ | .vsts f => some ⟨.vsts, f⟩ | .vstx f => some ⟨.vstx, f⟩
  | .vstX f => some ⟨.vstX, f⟩ | .vsc f => some ⟨.vsc, f⟩ | .vamo f => some ⟨.vamo, f⟩ | .vwait f => some ⟨.vwait, f⟩
  | .vsortr f => some ⟨.vsortr, f⟩ | .vchk f => some ⟨.vchk, f⟩ | .vmerge f => some ⟨.vmerge, f⟩ | .vinter f => some ⟨.vinter, f⟩
  | .vuniq f => some ⟨.vuniq, f⟩ | .vrank f => some ⟨.vrank, f⟩ | .vpart f => some ⟨.vpart, f⟩ | .vmrgs f => some ⟨.vmrgs, f⟩
  | .vred f => some ⟨.vred, f⟩ | .vscan f => some ⟨.vscan, f⟩ | .vsegred f => some ⟨.vsegred, f⟩
  | .vsegscan f => some ⟨.vsegscan, f⟩ | .vsegld f => some ⟨.vsegld, f⟩ | .vperm f => some ⟨.vperm, f⟩
  | .vcompress f => some ⟨.vcompress, f⟩ | .vexpand f => some ⟨.vexpand, f⟩ | .vslide f => some ⟨.vslide, f⟩
  | .vrev f => some ⟨.vrev, f⟩ | .vsin f => some ⟨.vsin, f⟩ | .vcos f => some ⟨.vcos, f⟩ | .vexp2 f => some ⟨.vexp2, f⟩
  | .vlog2 f => some ⟨.vlog2, f⟩ | .vtanh f => some ⟨.vtanh, f⟩ | .vsigm f => some ⟨.vsigm, f⟩
  | .vmmCopy f => some ⟨.vmmCopy, f⟩ | .vmmFill f => some ⟨.vmmFill, f⟩
  | _ => none

/-- The integer value of the low `w` bits of an element. -/
def elemInt (sgn : Bool) (w n : Nat) : Int := if sgn then (BitVec.ofNat w n).toInt else ((BitVec.ofNat w n).toNat : Int)

/-- The largest and the smallest integer of a format (R190). -/
def elemMax (sgn : Bool) (w : Nat) : Int := if sgn then 2 ^ (w - 1) - 1 else 2 ^ w - 1
/-- The smallest. -/
def elemMin (sgn : Bool) (w : Nat) : Int := if sgn then -(2 ^ (w - 1)) else 0

/-- A saturating result: the exact one, or the nearest end of the range, with SAT raised then (R200, R363). -/
def saturated (sgn : Bool) (w : Nat) (exact : Int) (r : Nat × Nat) : Prop :=
  elemInt sgn w r.1 = max (elemMin sgn w) (min (elemMax sgn w) exact) ∧ r.1 < 2 ^ w ∧
    r.2 = if elemMin sgn w ≤ exact ∧ exact ≤ elemMax sgn w then 0 else flSAT

end Sys2Proof.Claims

/-- R256, R257: `sreg` registers the handler of its kind for the instance; `sctab` of an aligned readable image, outside a task
and with every earlier access performed, gives the launch the rows and the loaded mask of the image. -/
def Obligations.speculation_registered : Prop :=
  ∀ (s : State) (k : BitVec 6) (rs1 : SReg) (stl : Stl), tasksExist s →
    ((s.me.rd rs1).toNat % 4 = 0 →
      ∃ t, exec (.sreg k rs1 stl) s = .next t ∧ (t.instAt s.core).handlers[k.toNat]'(k.isLt) = s.me.rd rs1 ∧
        (∀ j : BitVec 6, j ≠ k → (t.instAt s.core).handlers[j.toNat]'(j.isLt) = (s.instAt s.core).handlers[j.toNat]'(j.isLt)) ∧
        regsKept s.me t.me ∧ t.me.pc = s.me.pc + 4 ∧ onlyInst s t s.core ∧ bytesKept s t) ∧
    (∀ l bs, (s.me.rd rs1).toNat % 8 = 0 → s.me.task = none → quiet s.me → s.launches = [l] → l.id = (s.instAt s.core).launch →
      s.readBlock s.core s.me.tr.priv (s.me.rd rs1).toNat 520 = .ok bs →
      ∃ t m, exec (.sctab rs1 stl) s = .next t ∧ t.launches = [m] ∧ m = { l with comm := m.comm, loaded := m.loaded } ∧
        (∀ a : Fin 64, m.comm[a].toNat = fieldLE bs (8 * a.val) 8) ∧ m.loaded.toNat = fieldLE bs 512 8 ∧
        regsKept s.me t.me ∧ t.me.pc = s.me.pc + 4 ∧ bytesKept s t)

/-- R254, R256, R261: `sbegin` with no task open in the launch and room for a record opens a task with the number of R254 (or
the one that a conflict's abort kept) and its abort path, and clears its status register but for EXCL. -/
def Obligations.task_opens : Prop :=
  ∀ (s : State) (rd : SReg) (off : BitVec 16) (stl : Stl), tasksExist s → s.me.task = none → s.me.ubase + 32 ≤ s.me.ulimit →
    s.tasksOf (s.launchOf s.core) = [] →
    ∃ t k, exec (.sbegin rd off stl) s = .next t ∧ t.me.task = some k ∧
      k.seq = s.me.keepSeq.getD
        (s.clk * 4096 + ((s.instAt s.core).lx + (s.recOf s.core).w * (s.instAt s.core).ly) * 8 + s.eng.val) ∧
      k.path = s.me.pc + 4 * off.signExtend 64 ∧ k.sd = rd ∧ k.excl = s.me.nextExcl ∧ k.abort = none ∧
      regSet s.me t.me rd (if s.me.nextExcl then 0x4000000000000000 else 0) ∧ t.me.pc = s.me.pc + 4 ∧ onlyMe s t ∧ bytesKept s t

/-- R258, R259, R449: `sop` in a task that is not exclusive, of a kind with a handler, under a hash that no entry names and with room in
the lock table and on the undo stack: the home takes the entry, the record of R258 waits as class-15 stores to S, 8 bytes each
from BASE + 32 · DEPTH on, and the engine stays at its `sop`. While one of them has not performed nothing changes; once all have, DEPTH
rises by one and the engine goes on. -/
def Obligations.operation_recorded : Prop :=
  ∀ (s : State) (k : BitVec 6) (rh ra rb : SReg) (stl : Stl) (q : Task), tasksExist s → s.me.task = some q →
    q.excl = false → s.me.inTask = true →
    let handler := (s.instAt s.core).handlers[k.toNat]'(k.isLt)
    let hash := (s.me.rd rh).toNat % 2 ^ 32
    let home := (s.launchOf s.core).lockHome hash
    let record := handler.toNat + 2 ^ 64 * (s.me.rd ra).toNat + 2 ^ 128 * (s.me.rd rb).toNat + 2 ^ 192 * hash + 2 ^ 224 * k.toNat
    handler ≠ 0 →
    (s.me.sopSeq = none → (s.coreAt home).locks = [] → s.me.ubase + 32 * (s.me.udepth + 1) ≤ s.me.ulimit →
    ∃ t, ∃ as : Vector Acc 4, exec (.sop k rh ra rb stl) s = .next t ∧
      (t.coreAt home).locks = [{ launch := (s.launchOf s.core).id, core := s.core, eng := s.eng, hash := hash, kind := k.toNat }] ∧
      t.me.accs = s.me.accs ++ as.toList ∧
      (∀ i : Fin 4, as[i].kind = .store ∧ as[i].cls = 15 ∧ as[i].sp = .s ∧ as[i].bytes = 8 ∧ as[i].seq = s.me.seq ∧
        as[i].addr = (s.me.ubase + 32 * s.me.udepth + 8 * i.val) % 2 ^ 64 ∧ as[i].data = record / 2 ^ (64 * i.val) % 2 ^ 64) ∧
      t = (s.updCore home (fun c => { c with locks := (t.coreAt home).locks })).updMe (fun _ => t.me) ∧
      t.me = { s.me with accs := t.me.accs, sopSeq := some s.me.seq } ∧ bytesKept s t) ∧
    ∀ n, s.me.sopSeq = some n →
      ((∃ a ∈ s.me.accs, a.seq = n ∧ a.isAccess = true) → exec (.sop k rh ra rb stl) s = .next s) ∧
        ((∀ a ∈ s.me.accs, a.seq = n → a.isAccess = false) →
          ∃ t, exec (.sop k rh ra rb stl) s = .next t ∧ t.me.udepth = s.me.udepth + 1 ∧ t.me.sopSeq = none ∧ t.me.pc = s.me.pc + 4 ∧
            engKept { s.me with udepth := t.me.udepth, sopSeq := none } t.me ∧ regsKept s.me t.me ∧ t.me.preds = s.me.preds ∧
            onlyMe s t ∧ bytesKept s t)

/-- R262: `scommit` of a task that no abort has beaten, once the engine's accesses have performed, closes the task: its entries leave every
home, DEPTH becomes 0, and no register or byte changes; while an access of its is still to perform the task is committing and the engine stays
there. R260: `sabort` aims an abort of cause 2 at a task that is not exclusive. -/
def Obligations.task_closes : Prop :=
  ∀ (s : State) (stl : Stl) (q : Task), tasksExist s → s.me.task = some q → s.me.inTask = true →
    (q.abort = none ∨ q.committing = true → (∃ a ∈ s.me.accs, a.isAccess = true ∧ a.faulted = false ∧ a.seq < s.me.seq) →
      ∃ t, exec (.scommit stl) s = .next t ∧ t.me = { s.me with task := some { q with committing := true } } ∧ onlyMe s t) ∧
    (q.abort = none ∨ q.committing = true → quiet s.me →
      ∃ t, exec (.scommit stl) s = .next t ∧ t.me.task = none ∧ t.me.udepth = 0 ∧ regsKept s.me t.me ∧ t.me.pc = s.me.pc + 4 ∧
        bytesKept s t ∧ ∀ c, (t.coreAt c).locks = (s.coreAt c).locks.filter (fun x =>
          !(x.launch == (s.instAt s.core).launch && x.core == s.core && x.eng == s.eng))) ∧
    (q.excl = false → q.abort = none → q.committing = false →
      ∃ t a, exec (.sabort stl) s = .next t ∧ t.me.task = some { q with abort := some a } ∧ a.cause = 2 ∧ a.at_ = .aimed ∧
        regsKept s.me t.me ∧ bytesKept s t)

/-- R352, R353, R351: `vcfg` on a thread with registers and a shape that R353 allows grants VL, writes it to rd, and
writes VTYPE with the pad and the fields given; VSTART and STRIPN become 0; with the queue empty, bits 17:4 of every tag clear
where VL or the block length changes, and no tag changes where neither does. -/
def Obligations.vcfg_grants : Prop :=
  ∀ (s : State) (f : VcfgF) (stl : Stl),
    let x := (s.me.rd f.rs1).toNat
    let bw := if f.fmt = 15 then x / 2 ^ 62 else 0
    let avl := if f.fmt = 15 then x % 2 ^ 62 else x
    let b := 2 ^ f.blk.toNat
    let e := s.me.v.len * 2 ^ f.grp.toNat / fmtBits f.fmt.toNat bw
    (Instr.vcfg f stl).wf = true → s.eng ≠ callerId → s.me.tr.raw = false → s.me.v.len ≠ 0 → (s.coreAt s.core).trc.getLsbD 63 = false →
    b ≤ e → (f.fmt = 8 → 8 ≤ b) → (f.fmt = 9 ∨ f.fmt = 10 → 4 ≤ b) → e < 2 ^ 24 →
    ∃ t, exec (.vcfg f stl) s = .next t ∧ t.me.v.vl = grantedVl e b avl ∧
      vtypeIs t.me.v.vtype ((grantedVl e b avl - min avl (grantedVl e b avl)) % 2 ^ 7) bw f.ma f.ta f.grp.toNat f.blk.toNat f.fmt.toNat ∧
      t.me.v.vstart = 0 ∧ t.me.v.stripn = 0 ∧ regSet s.me t.me f.rd (BitVec.ofNat 64 (grantedVl e b avl)) ∧
      t.me.preds = s.me.preds ∧ t.me.pc = s.me.pc + 4 ∧ onlyMe s t ∧ bytesKept s t ∧
      (s.me.v.vq = [] →
        if grantedVl e b avl ≠ s.me.v.vl ∨ f.blk.toNat ≠ s.me.v.vtype.toNat / 2 ^ 4 % 2 ^ 3 then
          tagsCleared s.me.v.tags t.me.v.tags else t.me.v.tags = s.me.v.tags)

/-- R115, R213, R333, R354: `vstrip` takes VL from the count, steps the pointers of STRIPD by VL elements, raises STRIPN, and branches with
a new grant of VL and PAD while the count stays above 0; at the end VL becomes 0 and the next instruction follows. With the queue empty,
bits 17:4 of every tag clear where VL changes, and no tag changes where it does not. In raw view VL is 1,024, and neither VL, VTYPE nor a
tag changes. -/
def Obligations.vstrip_steps : Prop :=
  ∀ (s : State) (rs : SReg) (off : BitVec 18) (stl : Stl),
    let v := s.me.v
    let vl := if s.me.tr.raw then 1024 else v.vl
    let n : Int := (s.me.rd rs).toInt - (vl : Int)
    let e := v.len * 2 ^ (v.vtype.toNat / 2 ^ 7 % 4) / fmtBits (v.vtype.toNat % 16) (v.vtype.toNat / 2 ^ 11 % 4)
    let b := 2 ^ (v.vtype.toNat / 2 ^ 4 % 8)
    let got := if 0 < n then grantedVl e b n.toNat else 0
    s.eng ≠ callerId → rs ≠ 0 → stripCount v.stripd rs = 0 → (s.me.tr.raw = false → v.vtype.toNat % 16 ≠ 0) →
    (s.coreAt s.core).ssa.getLsbD 63 = false → (s.coreAt s.core).trc.getLsbD 63 = false →
    ∃ t, exec (.vstrip rs off stl) s = .next t ∧
      (∀ r, t.me.rd r = if r = 0 then 0 else if r = rs then s.me.rd rs - BitVec.ofNat 64 vl
        else s.me.rd r + BitVec.ofNat 64 (stripCount v.stripd r * (vl * 2 ^ (v.stripd.toNat % 4)))) ∧
      t.me.v.stripn = (v.stripn + 1) % 2 ^ 32 ∧
      (s.me.tr.raw = true → t.me.v.vl = v.vl ∧ t.me.v.vtype = v.vtype ∧ t.me.v.tags = v.tags) ∧
      (s.me.tr.raw = false → t.me.v.vl = got ∧
        vtypeIs t.me.v.vtype (if 0 < n then (got - min n.toNat got) % 2 ^ 7 else v.vtype.toNat / 2 ^ 13 % 2 ^ 7) (v.vtype.toNat / 2 ^ 11 % 4)
          (v.vtype.getLsbD 10) (v.vtype.getLsbD 9) (v.vtype.toNat / 2 ^ 7 % 4) (v.vtype.toNat / 2 ^ 4 % 8) (v.vtype.toNat % 16) ∧
        (v.vq = [] → if got = v.vl then t.me.v.tags = v.tags else tagsCleared v.tags t.me.v.tags)) ∧
      t.me.pc = (if 0 < n then s.me.pc + 4 * off.signExtend 64 else s.me.pc + 4) ∧ t.me.preds = s.me.preds ∧
      t.me.vflags = s.me.vflags ∧ onlyMe s t ∧ bytesKept s t

/-- R355, R99: `vreshape` of an empty queue declares 32, 16 or 8 registers, recomputes their length, sets every tag word, VTYPE,
VL and VSTART to 0, and keeps the scalar registers. -/
def Sys2Proof.Claims.vreshapeDeclares : Prop :=
  ∀ (s : State) (n : BitVec 2) (stl : Stl), s.eng ≠ callerId → (Instr.vreshape n stl).wf = true → s.me.tr.raw = false →
    s.me.v.vq = [] →
    ∃ t, exec (.vreshape n stl) s = .next t ∧ t.me.v.vregs = 32 / 2 ^ n.toNat ∧
      t.me.v.len = regLen s.me.v.homes.length (32 / 2 ^ n.toNat) s.me.v.vlcap ∧ (∀ r : Fin 32, t.me.v.tags[r] = 0) ∧
      t.me.v.vtype = 0 ∧ t.me.v.vl = 0 ∧ t.me.v.vstart = 0 ∧ regsKept s.me t.me ∧ t.me.pc = s.me.pc + 4 ∧ bytesKept s t

/-- R356, R97: `vquad` on a Caller with no thread running hands out the home groups of its partition code: a thread whose groups
change has VTYPE, VL, VSTART and its tags 0 and its length recomputed; one whose groups stay keeps its vector state. -/
def Sys2Proof.Claims.vquadHandsOut : Prop :=
  ∀ (s : State) (p : BitVec 2) (stl : Stl) (k : Fin 4), s.eng = callerId → (s.recOf s.core).det = false →
    (∀ t : BitVec 2, (s.engAt s.core (forked t)).running = false) → p.toNat ≠ (s.instAt s.core).quad →
    let e : EngId := ⟨k.val, Nat.lt_trans k.isLt (by decide)⟩
    let homes := homesOf p.toNat (s.coreAt s.core).lanesOut k.val
    ∃ t, exec (.vquad p stl) s = .next t ∧ (t.instAt s.core).quad = p.toNat ∧ regsKept s.me t.me ∧ t.me.pc = s.me.pc + 4 ∧
      bytesKept s t ∧
      if homes = (s.engAt s.core e).v.homes then (t.engAt s.core e).v = (s.engAt s.core e).v
      else (t.engAt s.core e).v.homes = homes ∧ (t.engAt s.core e).v.vtype = 0 ∧ (t.engAt s.core e).v.vl = 0 ∧
        (t.engAt s.core e).v.vstart = 0 ∧ (∀ r : Fin 32, (t.engAt s.core e).v.tags[r] = 0) ∧
        (t.engAt s.core e).v.len = regLen homes.length (s.engAt s.core e).v.vregs (s.engAt s.core e).v.vlcap

/-- R97, R99, R355, R356: what `vreshape` and `vquad` leave in the vector threads. -/
def Obligations.thread_shapes : Prop := Claims.vreshapeDeclares ∧ Claims.vquadHandsOut

/-- R94: a convoy that may enter stands at the end of its thread's queue with what it has captured; the scalar registers that it
will write are held, and the thread goes on behind it. -/
def Sys2Proof.Claims.convoyQueued : Prop :=
  ∀ (s : State) (slots : List VSlot) (stl : Stl), mayEnter s slots →
    ∃ t q, exec (.convoy slots stl) s = .next t ∧ t.me.v = { s.me.v with vq := s.me.v.vq ++ [q] } ∧ captured s.me slots q ∧
      (∀ r, t.me.held r = (s.me.held r || (slots.any (fun v => v.op == .vred && v.f.vd == r) && r != 0))) ∧
      regsKept s.me t.me ∧ t.me.preds = s.me.preds ∧ t.me.pc = s.me.pc + BitVec.ofNat 64 (4 + 8 * slots.length) ∧ onlyMe s t ∧
      bytesKept s t

/-- R94, R319: each of the 74 vector instructions, issued behind others in its thread's queue, enters it as a convoy of one with
what it has captured, and changes neither a register nor a byte until it is the head. That a row by itself is a convoy of one is the model's
choice (log 23, DEDUCED). -/
def Sys2Proof.Claims.vectorQueued : Prop :=
  ∀ (i : Instr) (v : VSlot) (s : State), loneOf i = some v → mayEnter s [v] → s.me.v.vq ≠ [] →
    ∃ t q, exec i s = .next t ∧ t.me.v = { s.me.v with vq := s.me.v.vq ++ [q] } ∧ captured s.me [v] q ∧
      (∀ r, t.me.held r = (s.me.held r || (v.op == .vred && v.f.vd == r && r != 0))) ∧
      regsKept s.me t.me ∧ t.me.preds = s.me.preds ∧ onlyMe s t ∧ bytesKept s t

/-- R243, R447, R448: `abound` of an aligned block, whose two destination groups the register file holds, enters the vector queue of
its thread, and its result register is held. -/
def Sys2Proof.Claims.aboundQueued : Prop :=
  ∀ (s : State) (rd rs1 : SReg) (vd : VReg) (stl : Stl), s.eng ≠ callerId → rd ≠ 0 → vd.toNat % vtG s.me.vtypeNow = 0 →
    vd.toNat + 2 * vtG s.me.vtypeNow ≤ s.me.vregsNow → (s.me.rd rs1).toNat % 128 = 0 → (s.me.v.vq.filter (fun q => !q.isMark)).length < 16 →
    ∃ t q a, exec (.abound rd rs1 vd stl) s = .next t ∧ t.me.v = { s.me.v with vq := s.me.v.vq ++ [q] } ∧ q.abound = some a ∧
      a.rd = rd ∧ a.vd = vd ∧ a.blk = s.me.rd rs1 ∧ q.pc = s.me.pc ∧ q.seq = s.me.seq ∧
      (∀ r, t.me.held r = (s.me.held r || r == rd)) ∧ regsKept s.me t.me ∧ t.me.pc = s.me.pc + 4 ∧ onlyMe s t ∧ bytesKept s t

/-- R94, R243, R319, R448: a convoy, a vector instruction by itself and `abound` enter the vector queue of their thread with what they have
captured, and change nothing else yet. That a row by itself is a convoy of one is the model's choice (log 23, DEDUCED). -/
def Obligations.vector_entries : Prop := Claims.convoyQueued ∧ Claims.vectorQueued ∧ Claims.aboundQueued

/-! ### Traps at issue (R265, R267, and the instructions' own rules) -/

namespace Sys2Proof.Claims

/-- An address that is no multiple of `m`, and what EINFO says of it (R332, R265). -/
def misaligned (addr m code : Nat) (info : Word) : Prop :=
  addr % m ≠ 0 ∧ code = 0x04 ∧ info = wordN (addr % 2 ^ 52 * 4096 + m)

/-- The traps that a branch, an access, a system instruction and an access to a control register take at issue: the code and
EINFO. -/
def scalarTrap (s : State) (i : Instr) (code : Nat) (info : Word) : Prop :=
  match i with
  | .jr r _ => misaligned (s.me.rd r).toNat 4 code info
  | .ret _ => misaligned (s.me.rd 31).toNat 4 code info
  | .trap imm _ => code = 0x19 ∧ info = imm.zeroExtend 64
  | .eret _ => code = (if s.me.tr.priv then 0x01 else 0x03) ∧ info = faultWord i
  | .ueret _ => s.me.tr.uirq = false ∧ code = 0x01 ∧ info = faultWord i
  | .unfreeze _ _ _ => s.me.tr.priv = false ∧ code = 0x03 ∧ info = faultWord i
  | .ident _ sel _ => sel.toNat = 7 ∧ s.me.tr.priv = false ∧ code = 0x03 ∧ info = faultWord i
  | .psample r _ => misaligned (s.me.rd r).toNat 32 code info
  | _ =>
    match accRule s i, crOp i with
    | some (a, _), _ => misaligned a.addr a.bytes code info
    | _, some (num, w) => crCodeNow s num w = some code ∧ info = faultWord i
    | _, _ => False

/-- The traps that an instruction of barriers, launches, tile queues, slots, speculation or strips takes at issue. -/
def unitTrap (s : State) (i : Instr) (code : Nat) (info : Word) : Prop :=
  match i with
  | .barInit b r scope _ =>
    (barAt (s.instAt s.core) b).shut ≠ some s.clk ∧ ¬ barOperand s (barAt (s.instAt s.core) b) (s.me.rd r) scope ∧ code = 0x01 ∧
      info = faultWord i
  | .barArrive _ r _ _ =>
    (s.launchOf s.core).rec_.w * (s.launchOf s.core).rec_.h ≤ (s.me.rd r).toNat ∧ code = 0x01 ∧ info = faultWord i
  | .launch _ r _ => s.eng = callerId ∧ misaligned (s.me.rd r).toNat 64 code info
  | .vstrip r _ _ =>
    s.eng ≠ callerId ∧ (r = 0 ∨ stripCount s.me.v.stripd r ≠ 0 ∨ (s.me.tr.raw = false ∧ s.me.v.vtype.toNat % 16 = 0)) ∧ code = 0x01 ∧
      info = faultWord i
  | _ =>
    match tileMisaligned s i, claimOp i, releaseOp i with
    | some (addr, m), _, _ => s.eng = callerId ∧ misaligned addr m code info
    | _, some (isW, k, _), _ =>
      s.eng = callerId ∧ k < slotCount s isW ∧ isClaimed s isW k = true ∧ code = 0x01 ∧ info = faultWord i
    | _, _, some (isW, k) =>
      s.eng = callerId ∧ k < slotCount s isW ∧ isClaimed s isW k = false ∧ code = 0x0f ∧
        info = BitVec.ofNat 64 (k + if isW then 256 else 0)
    | _, _, _ =>
      isSpec i = true ∧ code = 0x01 ∧ info = faultWord i ∧
        (¬ tasksExist s ∨ ∃ q stl, i = .sabort stl ∧ s.me.task = some q ∧ s.me.inTask = true ∧ q.excl = true)

end Sys2Proof.Claims

/-- R124, R323, R330, R332, R342, R343, R345, R346: where a branch's target, an access's address or the offset of `psample` is
misaligned, where an instruction or a control register is kept from the engine or from its privilege, where a return has
nothing to return from, and at `trap`, the trap of the rule is entered, and nothing else happens: no access waits and no
register changes. -/
def Obligations.scalar_traps : Prop :=
  ∀ (i : Instr) (s : State) (code : Nat) (info : Word), i.wf = true → trapFree s → scalarTrap s i code info →
    ∃ t, exec i s = .next t ∧ entered s t code info

/-- R253, R256, R333, R335, R340, R426, R432, R433, R443, R445, R447: where an instruction of the units does not pass its
issue checks, the trap of the rule is entered, and nothing else happens: no barrier, slot or queue changes, and
nothing is submitted. -/
def Obligations.unit_traps : Prop :=
  ∀ (i : Instr) (s : State) (code : Nat) (info : Word), i.wf = true → trapFree s → unitTrap s i code info →
    ∃ t, exec i s = .next t ∧ entered s t code info

/-! ### Vector elements (R94 to R96, R360 to R363, R367, R368, R372) -/

namespace Sys2Proof.Claims

/-- The result of an element-wise integer instruction on elements of `w` bits, a and b, at index i, and the flag it raises;
`sgn` says that the format is signed. -/
def elemRule (op : VOp) (sgn : Bool) (w i a b : Nat) (r : Nat × Nat) : Prop :=
  let v := elemInt sgn w
  match op with
  | .vadd => r = ((a + b) % 2 ^ w, 0)
  | .vsub => (r.1 : Int) = ((a : Int) - b) % 2 ^ w ∧ r.2 = 0
  | .vmul => r = (a * b % 2 ^ w, 0)
  | .vadds => saturated sgn w (v a + v b) r
  | .vsubs => saturated sgn w (v a - v b) r
  | .vmin => v r.1 = min (v a) (v b) ∧ r.1 < 2 ^ w ∧ r.2 = 0
  | .vmax => v r.1 = max (v a) (v b) ∧ r.1 < 2 ^ w ∧ r.2 = 0
  | .vabs => r = ((v a).natAbs % 2 ^ w, 0)
  | .vneg => (r.1 : Int) = (-(a : Int)) % 2 ^ w ∧ r.2 = 0
  | .vnot => r = (2 ^ w - 1 - a, 0)
  | .vand => r = (a &&& b, 0)
  | .vor => r = (a ||| b, 0)
  | .vxor => r = (a ^^^ b, 0)
  | .vshl => r = (a * 2 ^ (b % w) % 2 ^ w, 0)
  | .vshr => r = (a / 2 ^ (b % w), 0)
  | .vsra => elemInt true w r.1 = elemInt true w a / 2 ^ (b % w) ∧ r.1 < 2 ^ w ∧ r.2 = 0
  | .vmov => r = (a, 0)
  | .vbcast => r = (b, 0)
  | .vid => r = (i % 2 ^ w, 0)
  | _ => False

/-- The instructions that `elemRule` covers. -/
def elemOps : List VOp :=
  [.vadd, .vsub, .vmul, .vadds, .vsubs, .vmin, .vmax, .vabs, .vneg, .vnot, .vand, .vor, .vxor, .vshl, .vshr, .vsra, .vmov, .vbcast,
    .vid]

/-- Element `i` of the group that begins at a register, of `w` bits, of an engine's vector registers. -/
def elemAt (s : State) (c : CoreId) (e : EngId) (r : VReg) (w i : Nat) : Nat :=
  (s.coreAt c).vget (s.engAt c e).vmap r.toNat w i

/-- The second operand at element `i`, by form (R359): an element, a scalar's low bits, or the immediate. -/
def operandAt (s : State) (c : CoreId) (e : EngId) (f : VF) (w i : Nat) : Nat :=
  if f.form = 1 then ((s.engAt c e).rd f.vs2).toNat % 2 ^ w
  else if f.form = 2 then ((vimm f).signExtend 64).toNat % 2 ^ w
  else elemAt s c e f.vs2 w i

/-- A thread's registers are placed as its home groups and its declaration give them (R97, R98, R112). -/
def placed (g : Eng) : Prop :=
  g.tr.raw = false ∧ g.v.len ≠ 0 ∧ g.v.len % 64 = 0 ∧ g.v.lost = false ∧ g.v.homes ≠ [] ∧ g.v.homes.Nodup ∧ (∀ h ∈ g.v.homes, h < 4) ∧
    g.v.vregs ≤ 32 ∧ 128 * ceilDiv g.v.len (1024 * g.v.homes.length) * g.v.vregs ≤ 65536

/-- A vector register field names a group that R358 allows, whose tag names no other format. -/
def groupFits (g : Eng) (r : VReg) (fmt : Nat) : Prop :=
  let n := 2 ^ (g.v.vtype.toNat / 2 ^ 7 % 4)
  r.toNat % n = 0 ∧ r.toNat + n ≤ g.v.vregs ∧ (tgFmt (Tags.at_ g.v.tags r.toNat) = 0 ∨ tgFmt (Tags.at_ g.v.tags r.toNat) = fmt)

/-- An element-wise integer instruction can run on a thread: its registers are at hand, VTYPE is one that `vcfg` grants, in an
integer format, VSTART is 0, and no lane is about to fail. -/
def elemReady (s : State) (c : CoreId) (e : EngId) (op : VOp) (f : VF) (fmt : Nat) : Prop :=
  let g := s.engAt c e
  op ∈ elemOps ∧ slotOk op f = true ∧ e ≠ callerId ∧ placed g ∧ (s.coreAt c).owner = .running ∧ g.frozen = false ∧ g.accs = [] ∧
    g.v.vstart = 0 ∧ 1 ≤ fmt ∧ fmt ≤ 7 ∧ g.v.vtype.toNat % 16 = fmt ∧ vtypeOk g.v.vtype g.v.len = true ∧
    1 ≤ g.v.vl ∧ g.v.vl ≤ g.v.len * 2 ^ (g.v.vtype.toNat / 2 ^ 7 % 4) / fmtBits fmt 0 ∧
    groupFits g f.vd fmt ∧ ((vrow op).a = .vec → groupFits g f.vs1 fmt) ∧ (bUse (vrow op) f.form = .vec → groupFits g f.vs2 fmt) ∧
    (s.coreAt c).laneErr = none ∧ (s.coreAt c).errinj.getLsbD 63 = false

/-- The elements below `hi` hold their results, flags are raised by the active ones alone (R200, R360); every other element of the
destination group is as before, or all ones where its policy is agnostic; other registers, the scalar registers, predicates
and bytes are as before. -/
def elemsDone (s t : State) (c : CoreId) (e : EngId) (op : VOp) (f : VF) (fmt hi : Nat) : Prop :=
  let g := s.engAt c e
  let w := fmtBits fmt 0
  let n := g.v.vl - g.v.vtype.toNat / 2 ^ 13 % 2 ^ 7
  let span := 2 ^ (g.v.vtype.toNat / 2 ^ 7 % 4)
  let on (i : Nat) : Bool := i < hi && i < n && g.v.active f i
  (∃ rs : Nat → Nat × Nat,
    (∀ i, on i = true →
      elemRule op (fmt == 1 || fmt == 3 || fmt == 5 || fmt == 7) w i (elemAt s c e f.vs1 w i) (operandAt s c e f w i) (rs i) ∧
        elemAt t c e f.vd w i = (rs i).1) ∧
      ((∀ i, on i = true → (rs i).2 = 0) → (t.engAt c e).vflags = g.vflags) ∧
      (∀ i, on i = true → (rs i).2 ≠ 0 → (t.engAt c e).vflags = g.vflags ||| 0x20)) ∧
    (∀ i, i < g.v.len * span / w → on i = false →
      elemAt t c e f.vd w i = elemAt s c e f.vd w i ∨
        ((if i < n then g.v.vtype.getLsbD 10 else g.v.vtype.getLsbD 9) = true ∧ elemAt t c e f.vd w i = 2 ^ w - 1)) ∧
    (∀ (r : VReg) (j : Nat), r.toNat < g.v.vregs → (r.toNat < f.vd.toNat ∨ f.vd.toNat + span ≤ r.toNat) → j < g.v.len / 8 →
      elemAt t c e r 8 j = elemAt s c e r 8 j) ∧
    (∀ r : Fin 32, (f.vd.toNat ≤ r.val ∧ r.val < f.vd.toNat + span) →
      (t.engAt c e).v.tags[r].toNat % 16 = fmt ∧ (t.engAt c e).v.tags[r].getLsbD 18 = true) ∧
    regsKept g (t.engAt c e) ∧ (t.engAt c e).preds = g.preds ∧ (t.engAt c e).tr = g.tr ∧ (t.engAt c e).v.masks = g.v.masks ∧
    (t.engAt c e).v.vl = g.v.vl ∧ (t.engAt c e).v.vtype = g.v.vtype ∧ bytesKept s t

/-- It is a live lane group's turn to choose in this ck: it has not chosen, and each live one below it has (R102). -/
def lanesTurn (s : State) (c : CoreId) (g : Fin 4) : Prop :=
  let k := s.coreAt c
  let chose (h : Fin 4) : Prop := k.slotCk = s.clk ∧ h.val < k.slotLg
  k.lanesOut.getLsbD g.val = false ∧ ¬ chose g ∧ ∀ h : Fin 4, h < g → k.lanesOut.getLsbD h.val = false → chose h

end Sys2Proof.Claims

/-- R96, R359, R360, R362, R363, R367, R368, R372: an element-wise integer instruction by itself on a thread whose queue is empty
writes every active element of its destination with its rule's result, and completes: the queue is empty again, VSTART is 0. That a lone row
on an empty queue runs all of its element groups at once is the model's choice (log 23, DEDUCED). -/
def Obligations.vector_elements : Prop :=
  ∀ (i : Instr) (v : VSlot) (s : State) (fmt : Nat), loneOf i = some v → elemReady s s.core s.eng v.op v.f fmt → s.me.v.vq = [] →
    ∃ t, exec i s = .next t ∧ t.me.v.vq = [] ∧ t.me.v.vstart = 0 ∧ elemsDone s t s.core s.eng v.op v.f fmt s.me.v.vl

/-- R94, R95, R96, R102: where one thread of a core has a convoy in its queue, of one such instruction that has not begun, a live
lane group whose turn it is takes its first element group: the elements below 1,024 / w are written, and the convoy goes on with the
next, or completes with VSTART 0. That a row by itself is a convoy of one is the model's choice (log 23, DEDUCED). -/
def Obligations.element_group_issues : Prop :=
  ∀ (s : State) (c : CoreId) (e : EngId) (g : Fin 4) (v : VSlot) (fmt : Nat) (q : QConvoy), elemReady s c e v.op v.f fmt →
    lanesTurn s c g → (s.instAt c).live = true → (s.instAt c).ending = false →
    (s.engAt c e).running = true → (s.launchAt (s.instAt c).launch).stopping = false → s.haltedAt c = false →
    (s.coreAt c).preReq = false → (s.engAt c e).v.vq = [q] → (∀ d, d ≠ e → (s.engAt c d).v.vq = []) →
    (∃ pc seq, q = { (s.engAt c e).entry [v] with pc := pc, seq := seq }) →
    let step := 1024 / fmtBits fmt 0
    let n := (s.engAt c e).v.vl
    ∃ t, exec (.elementGroupIssue c g) s = .next t ∧ elemsDone s t c e v.op v.f fmt (min step n) ∧
      if n ≤ step then (t.engAt c e).v.vq = [] ∧ (t.engAt c e).v.vstart = 0
      else ∃ r, (t.engAt c e).v.vq = [r] ∧ r.slots = [v] ∧ r.start = some 0 ∧ r.prog = step

/-! ### Vector results (R189 to R203, R205 to R217, R358 to R379, R402 to R425) -/

namespace Sys2Proof.Claims

/-- The group size G of a thread's VTYPE, its working format, and the width of a format under it. -/
def vG (g : Eng) : Nat := 2 ^ (g.v.vtype.toNat / 2 ^ 7 % 4)
/-- The working format. -/
def vF (g : Eng) : Nat := g.v.vtype.toNat % 16
/-- The width of a format in bits. -/
def vBits (g : Eng) (f : Nat) : Nat := fmtBits f (g.v.vtype.toNat / 2 ^ 11 % 4)
/-- The elements below VL − PAD. -/
def vReal (g : Eng) : Nat := g.v.vl - g.v.vtype.toNat / 2 ^ 13 % 2 ^ 7
/-- The registers of a group of elements of `w` bits (R358). -/
def vRegs (g : Eng) (w : Nat) : Nat := max 1 (vG g * w / vBits g (vF g))
/-- The format in which a source register is read: its tag's, or the working format (R182). -/
def vTag (g : Eng) (r : VReg) : Nat :=
  if tgFmt (Tags.at_ g.v.tags r.toNat) = 0 then vF g else tgFmt (Tags.at_ g.v.tags r.toNat)
/-- The group that an operand in a format occupies: its first register and its registers. -/
def vGroup (g : Eng) (r : VReg) (f : Nat) : Nat × Nat := (r.toNat, vRegs g (vBits g f))
/-- The format is a float format. -/
def isFl (f : Nat) : Bool := 8 ≤ f && f ≤ 13
/-- The format is an integer format. -/
def isIn (f : Nat) : Bool := 1 ≤ f && f ≤ 7
/-- The format is a signed integer format. -/
def isSg (f : Nat) : Bool := f == 1 || f == 3 || f == 5 || f == 7

/-- The group lies in the register file as R358 allows. -/
def inFile (g : Eng) (x : Nat × Nat) : Prop := 0 < x.2 ∧ x.2 ≤ 8 ∧ x.1 % x.2 = 0 ∧ x.1 + x.2 ≤ g.v.vregs
/-- Two groups share no register. -/
def apart (x y : Nat × Nat) : Prop := x.1 + x.2 ≤ y.1 ∨ y.1 + y.2 ≤ x.1

/-- A vector instruction by itself can begin on the executing thread: its fields are well-formed, the thread has its registers, an empty
queue and no waiting access, VSTART is 0, no lane is about to fail and no memory record is written. -/
def canStart (s : State) (v : VSlot) : Prop :=
  let g := s.me
  slotOk v.op v.f = true ∧ s.eng ≠ callerId ∧ placed g ∧ (s.coreAt s.core).owner = .running ∧ (s.instAt s.core).live = true ∧
    g.frozen = false ∧ g.accs = [] ∧ g.v.vq = [] ∧ g.aside = none ∧ g.inTask = false ∧ g.v.vstart = 0 ∧ g.skip = 0 ∧
    (∀ r ∈ slotVRegs v.op v.f, r < g.v.vregs) ∧ (s.coreAt s.core).laneErr = none ∧ (s.coreAt s.core).errinj.getLsbD 63 = false ∧
    (s.coreAt s.core).trc.getLsbD 62 = false

/-- It can run under a VTYPE that `vcfg` grants, with a VL of 1 or more. -/
def canRun (s : State) (v : VSlot) : Prop :=
  canStart s v ∧ vtypeOk s.me.v.vtype s.me.v.len = true ∧ 1 ≤ s.me.v.vl ∧
    s.me.v.vl ≤ s.me.v.len * vG s.me / vBits s.me (vF s.me)

/-- Its groups lie in the register file, and a destination shares registers with a source only where it is the same group, and that only
where `same` allows it (R214, R358, R377, R416). -/
def groupsFit (g : Eng) (same : Bool) (ds ss : List (Nat × Nat)) : Prop :=
  (∀ d ∈ ds, inFile g d) ∧ (∀ x ∈ ss, inFile g x) ∧ ∀ d ∈ ds, ∀ x ∈ ss, apart d x ∨ (same = true ∧ d = x)

/-- The convoy is done, and nothing outside the destination groups `ds` has changed of the vector registers of the thread, nor have VL,
VTYPE, the predicates and the trap registers. -/
def groupsKept (s t : State) (ds : List (Nat × Nat)) : Prop :=
  (∀ (r : VReg) (j : Nat), r.toNat < s.me.v.vregs → (∀ d ∈ ds, r.toNat < d.1 ∨ d.1 + d.2 ≤ r.toNat) → j < s.me.v.len / 8 →
    elemAt t s.core s.eng r 8 j = elemAt s s.core s.eng r 8 j) ∧
    t.me.v.vq = [] ∧ t.me.v.vstart = 0 ∧ t.me.v.vl = s.me.v.vl ∧ t.me.v.vtype = s.me.v.vtype ∧ t.me.preds = s.me.preds ∧
    t.me.tr = s.me.tr

/-- The convoy is done, and nothing else has changed of the vector registers of the thread, nor any byte of memory and S. -/
def onlyGroups (s t : State) (ds : List (Nat × Nat)) : Prop := groupsKept s t ds ∧ bytesKept s t

/-- Of the group at a register, of elements of `w` bits in `regs` registers, the elements that `on` names hold what `val` says; every other
one is as before, or all ones where its policy is agnostic, masked off below `n` and tail from there on (R360). -/
def written (s t : State) (r : VReg) (w regs n : Nat) (on : Nat → Bool) (val : Nat → Nat → Prop) : Prop :=
  (∀ i, on i = true → val i (elemAt t s.core s.eng r w i)) ∧
    ∀ i, i < s.me.v.len * regs / w → on i = false →
      elemAt t s.core s.eng r w i = elemAt s s.core s.eng r w i ∨
        ((if i < n then s.me.v.vtype.getLsbD 10 else s.me.v.vtype.getLsbD 9) = true ∧ elemAt t s.core s.eng r w i = 2 ^ w - 1)

/-- The registers of a group carry a format and are dirty (R115, R362). -/
def tagged (t : State) (d : Nat × Nat) (f : Nat) : Prop :=
  ∀ r : Fin 32, d.1 ≤ r.val ∧ r.val < d.1 + d.2 → t.me.v.tags[r].toNat % 16 = f ∧ t.me.v.tags[r].getLsbD 18 = true

/-- VFLAGS has gained the flags of the elements that `on` names, and no others (R200). -/
def flagged (s t : State) (on : Nat → Bool) (fl : Nat → Nat) : Prop :=
  t.me.vflags = s.me.vflags ||| BitVec.ofNat 64 ((List.range s.me.v.vl).foldl (fun m i => if on i then m ||| fl i else m) 0)

/-! #### Numbers -/

/-- The result format of two floats (R192). -/
def joinF (a b : Nat) : Nat :=
  if a = b then a else if a = 8 then b else if b = 8 then a
  else if (a = 9 ∧ b = 10) ∨ (a = 10 ∧ b = 9) then 12
  else if (a = 11 ∧ b = 12) ∨ (a = 12 ∧ b = 11) then 13 else max a b

/-- The result format of two integers (R193). -/
def joinI (a b : Nat) : Nat :=
  if fmtBits a 0 < fmtBits b 0 then b else if fmtBits b 0 < fmtBits a 0 then a else min a b

/-- The result format of two sources, if R192 to R194 give one. -/
def joinOf (a b : Nat) : Option Nat :=
  if isFl a && isFl b then some (joinF a b) else if isIn a && isIn b then some (joinI a b) else none

/-- The sign of a pattern of a float format. -/
def negF (f bits : Nat) : Bool := bits.testBit (fmtBits f 0 - 1)

/-- The pattern is a NaN of its format (R186). -/
def nanF (f bits : Nat) : Bool := (floatVal f bits).isNone && bits % 2 ^ (floatShape f).2.1 != 0

/-- The pattern is an infinity of its format (R186). -/
def infF (f bits : Nat) : Bool := (floatVal f bits).isNone && bits % 2 ^ (floatShape f).2.1 == 0

/-- The canonical NaN (R185). -/
def nanOf (f : Nat) : Nat :=
  match f with
  | 9 => 0x7f
  | 10 => 0x7e
  | 11 => 0x7e00
  | 12 => 0x7fc0
  | _ => 0x7fc00000

/-- The infinity of a sign, of a format that has one (R186). -/
def infOf (f : Nat) (neg : Bool) : Nat :=
  (if neg then 2 ^ (fmtBits f 0 - 1) else 0) + (2 ^ (floatShape f).1 - 1) * 2 ^ (floatShape f).2.1

/-- The zero of a sign. -/
def zeroOf (f : Nat) (neg : Bool) : Nat := if neg then 2 ^ (fmtBits f 0 - 1) else 0

/-- A result and its flags are those of an exact number rounded once, where it is in range: NX where the result differs, UF at most beside
it, nothing else (R196). -/
def delivered (f mode : Nat) (x : Rat) (r fl : Nat) : Prop :=
  x ≠ 0 → inRange f x → isRounded f mode x r ∧ fl % 8 = 0 ∧ fl < 32 ∧ (fl / 16 = 1 ↔ floatVal f r ≠ some x)

/-- A result is the root, or its reciprocal, of a number, rounded: `below m` says that m does not exceed it, `above m` that it does not
exceed m. -/
def rootOf (f mode : Nat) (below above : Rat → Prop) (r : Nat) : Prop :=
  ∃ v, floatVal f r = some v ∧ 0 ≤ v ∧ ∀ c y, c < 2 ^ fmtBits f 0 → floatVal f c = some y → 0 ≤ y →
    match mode with
    | 1 => below v ∧ (below y → y ≤ v)
    | 2 => below v ∧ (below y → y ≤ v)
    | 3 => above v ∧ (above y → v ≤ y)
    | _ => (y < v → below ((v + y) / 2)) ∧ (v < y → above ((v + y) / 2))

/-- An integer that an exact number rounds to under a mode (R195, R375). -/
def intRounded (mode : Nat) (x : Rat) (z : Int) : Prop :=
  match mode with
  | 0 => away x z ≤ 1 / 2 ∧ (away x z = 1 / 2 → z % 2 = 0)
  | 1 => towards0 x z ∧ away x z < 1
  | 2 => (z : Rat) ≤ x ∧ away x z < 1
  | 3 => x ≤ z ∧ away x z < 1
  | _ => away x z ≤ 1 / 2 ∧ (away x z = 1 / 2 → away 0 x ≤ away 0 z)

/-- The integer that the bits of an integer format stand for. -/
def intF (f bits : Nat) : Int := elemInt (isSg f) (fmtBits f 0) bits

/-- The least and the greatest value of an integer format. -/
def fitsI (f : Nat) (z : Int) : Prop := elemMin (isSg f) (fmtBits f 0) ≤ z ∧ z ≤ elemMax (isSg f) (fmtBits f 0)

/-! #### Arithmetic (R363 to R366) -/

/-- The exact number that a float instruction rounds, of finite operands; none where it divides by zero. -/
def exactOf (op : VOp) (x y z : Rat) : Option Rat :=
  match op with
  | .vadd => some (x + y)
  | .vsub => some (x - y)
  | .vmul => some (x * y)
  | .vdiv => if y = 0 then none else some (x / y)
  | .vrcp => if x = 0 then none else some (1 / x)
  | .vfma => some (x * y + z)
  | .vfms => some (x * y - z)
  | .vfnma => some (-(x * y) + z)
  | _ => none

/-- The sign of an exact zero result, from the signs of the operands and the mode (R364). -/
def zeroSign (op : VOp) (mode : Nat) (zeros a b c : Bool) : Bool :=
  let sum (p q : Bool) : Bool := if zeros && p == q then p else mode == 2
  match op with
  | .vadd => sum a b
  | .vsub => sum a (!b)
  | .vfma => sum (a != b) c
  | .vfms => sum (a != b) (!c)
  | .vfnma => sum (!(a != b)) c
  | _ => a != b

/-- The float arithmetic instructions, and those of three sources. -/
def arithOps : List VOp := [.vadd, .vsub, .vmul, .vdiv, .vrcp, .vfma, .vfms, .vfnma]

/-- The instruction has three sources. -/
def threeOps : List VOp := [.vfma, .vfms, .vfnma]

/-- What a float instruction gives of operands a, b and c of the formats fa, fb and fc: the exact result rounded once, a zero with its sign,
the canonical NaN of a NaN operand, and the divisions by zero (R187, R363 to R366). -/
def arithRule (op : VOp) (fa fb fc fr mode a b c r fl : Nat) : Prop :=
  let one := op == .vrcp
  let three := threeOps.contains op
  (∀ x y z, floatVal fa a = some x → (one = true ∨ floatVal fb b = some y) → (three = false ∨ floatVal fc c = some z) →
    (∀ e, exactOf op x y z = some e → delivered fr mode e r fl ∧
      (e = 0 → r = zeroOf fr (zeroSign op mode (decide (x = 0 ∨ y = 0 ∧ three = true) && decide ((three = false ∧ y = 0) ∨ (three = true ∧ z = 0)))
        (negF fa a) (negF fb b) (negF fc c)) ∧ fl = 0)) ∧
    (op = .vdiv → y = 0 → x ≠ 0 → 10 ≤ fr → r = infOf fr (negF fa a != negF fb b) ∧ fl = 2) ∧
    (op = .vdiv → y = 0 → x = 0 → fr ≠ 8 → r = nanOf fr ∧ fl = 1) ∧
    (op = .vrcp → x = 0 → 10 ≤ fr → r = infOf fr (negF fa a) ∧ fl = 2)) ∧
  ((nanF fa a || !one && nanF fb b) = true → r = nanOf fr ∧ fl = 0)

/-- A root: of a positive number rounded; −0 and 0 stay in `vsqrt`; NaN and numbers below −0 (R363, R365). -/
def sqrtRule (recip : Bool) (f mode a r fl : Nat) : Prop :=
  (∀ x, floatVal f a = some x →
    (0 < x → rootOf f mode (fun m => if recip then m * m * x ≤ 1 else m * m ≤ x) (fun m => if recip then 1 ≤ m * m * x else x ≤ m * m) r ∧
      fl % 8 = 0) ∧
    (x < 0 → r = (if f = 8 then 0 else nanOf f) ∧ fl = 1) ∧
    (x = 0 → recip = false → r = a % 2 ^ fmtBits f 0 ∧ fl = 0) ∧
    (x = 0 → recip = true → 10 ≤ f → r = infOf f (negF f a) ∧ fl = 2)) ∧
  (nanF f a = true → r = nanOf f ∧ fl = 0)

/-- The lesser or the greater of two floats, exact, −0 below +0; the canonical NaN of a NaN (R199). -/
def minmaxRule (big : Bool) (fa fb fr a b r fl : Nat) : Prop :=
  fl = 0 ∧ ((nanF fa a || nanF fb b) = true → r = nanOf fr) ∧
    ∀ x y, floatVal fa a = some x → floatVal fb b = some y → floatVal fr r = some (if big then max x y else min x y) ∧
      (x = 0 → y = 0 → negF fr r = if big then negF fa a && negF fb b else negF fa a || negF fb b)

/-- The class code of a float (R373). -/
def classRule (f a r : Nat) : Prop :=
  let up (c : Nat) : Nat := if negF f a then 7 - c else c
  (nanF f a = true → r = 8) ∧ (infF f a = true → r = up 7) ∧
    ∀ x, floatVal f a = some x →
      r = up (if x = 0 then 4 else if a / 2 ^ (floatShape f).2.1 % 2 ^ (floatShape f).1 = 0 then 5 else 6)

/-! #### Conversion (R374 to R376) -/

/-- A number converted to an integer format, under `.sat` or not (R375). -/
def toIntRule (f mode : Nat) (sat : Bool) (x : Rat) (r fl : Nat) : Prop :=
  ∃ z, intRounded mode x z ∧
    (fitsI f z → intF f r = z ∧ fl = if (z : Rat) = x then 0 else 16) ∧
    (¬ fitsI f z → intF f r = (if x < 0 then elemMin (isSg f) (fmtBits f 0) else elemMax (isSg f) (fmtBits f 0)) ∧ fl = if sat then 32 else 1)

/-- The block scale and the band scale that `vcvt` applies to element i (R376). -/
def scalesAt (s : State) (v : VSlot) (nf i : Nat) : Option Rat × Option Rat :=
  (if v.f.vs2 = 0 then some 1 else floatVal 16 (elemAt s s.core s.eng v.f.vs2 8 (i * fmtBits nf 0 / 32)),
    if v.f.vs3 = 0 then some 1 else floatVal 12 ((s.me.rd v.f.vs3).toNat % 65536))

/-- What `vcvt` gives of an element `a`: a float from a number in range; the canonical NaN of a NaN where the format has one; integers
rounded or clamped, 0 of a NaN; a number scaled as R376 says. -/
def cvtRule (s : State) (v : VSlot) (fa fd i a r fl : Nat) : Prop :=
  let mode := v.f.mods.toNat / 2 ^ 21 % 8
  let sat := v.f.mods.getLsbD 20
  let narrow (f : Nat) : Bool := f == 8 || f == 9 || f == 10
  let sc := scalesAt s v (if narrow fd then fd else fa) i
  if isFl fa then
    (∀ x b d, floatVal fa a = some x → sc = (some b, some d) →
      let e : Rat := if narrow fd then x / (b * d) else x * b
      if isFl fd then
        (narrow fd = true ∧ b * d = 0 → r = 0 ∧ fl = 1) ∧ (narrow fd = false ∨ b * d ≠ 0 → delivered fd mode e r fl)
      else toIntRule fd mode sat e r fl) ∧
    (nanF fa a = true → (∀ b d, sc = (some b, some d) → b * d ≠ 0 →
      if isFl fd then fd ≠ 8 → r = nanOf fd ∧ fl = 0 else r = 0 ∧ fl = if sat then 33 else 1))
  else if isFl fd then
    ∀ b d, sc = (some b, some d) → (narrow fd = false ∨ b * d ≠ 0) →
      delivered fd mode (if narrow fd then (intF fa a : Rat) / (b * d) else intF fa a) r fl
  else if sat then saturated (isSg fd) (fmtBits fd 0) (intF fa a) (r, fl)
  else (r : Int) = intF fa a % 2 ^ fmtBits fd 0 ∧ fl = 0

/-! #### Special functions (R425) -/

/-- The special operands of R425 and its exact cases, of a format f. -/
def specialRule (op : VOp) (f a r fl : Nat) : Prop :=
  let bits (x : Rat) : Prop := floatVal f r = some x
  (nanF f a = true → r = nanOf f ∧ fl = 0) ∧
  (infF f a = true →
    match op with
    | .vexp2 => r = (if negF f a then 0 else infOf f false) ∧ fl = 0
    | .vlog2 => if negF f a then r = nanOf f ∧ fl = 1 else r = infOf f false ∧ fl = 0
    | .vtanh => bits (if negF f a then -1 else 1) ∧ fl = 0
    | .vsigm => (if negF f a then r = 0 else bits 1) ∧ fl = 0
    | _ => r = nanOf f ∧ fl = 0x41) ∧
  (floatVal f a = some 0 →
    match op with
    | .vexp2 => bits 1 ∧ fl = 0
    | .vlog2 => r = infOf f true ∧ fl = 2
    | .vtanh => r = a ∧ fl = 0
    | .vsigm => bits (1 / 2) ∧ fl = 0
    | .vcos => bits 1 ∧ fl = 0
    | _ => r = a ∧ fl = 0) ∧
  (∀ k : Int, floatVal f a = some (k : Rat) → op = .vexp2 → inRange f (2 ^ k) → (∃ c, c < 2 ^ fmtBits f 0 ∧ floatVal f c = some (2 ^ k)) →
    bits (2 ^ k) ∧ fl = 0) ∧
  (∀ k : Int, floatVal f a = some (2 ^ k) → op = .vlog2 → bits (k : Rat) ∧ fl = 0) ∧
  (∀ x, floatVal f a = some x → x < 0 → op = .vlog2 → r = nanOf f ∧ fl = 1)

/-- The special functions. -/
def sfuOps : List VOp := [.vsin, .vcos, .vexp2, .vlog2, .vtanh, .vsigm]

/-! #### Element-wise instructions -/

/-- The immediate of a vi form, where its high part is zero as R359 asks. -/
def immOf (g : Eng) (f : VF) (b : Nat) : Prop :=
  let m := f.mods.toNat % 65536
  match vF g with
  | 8 => m < 16 ∧ b = m
  | 9 => m < 256 ∧ b = m
  | 10 => m < 256 ∧ b = m
  | 11 => b = m
  | 12 => b = m
  | 13 => b = m * 65536
  | _ => b = ((BitVec.ofNat 16 m).signExtend 64).toNat % 2 ^ vBits g (vF g)

/-- The format of the second operand, by form (R359). -/
def fmtB2 (g : Eng) (f : VF) : Nat := if f.form = 0 then vTag g f.vs2 else vF g

/-- The second operand at element i, by form (R359). -/
def operand2 (s : State) (f : VF) (i b : Nat) : Prop :=
  if f.form = 1 then b = (s.me.rd f.vs2).toNat % 2 ^ vBits s.me (vF s.me)
  else if f.form = 2 then immOf s.me f b
  else b = elemAt s s.core s.eng f.vs2 (vBits s.me (vTag s.me f.vs2)) i

/-- The source groups of an instruction, by the fields that name vector registers. -/
def sourcesOf (g : Eng) (v : VSlot) : List (Nat × Nat) :=
  (if (vrow v.op).a = .vec then [vGroup g v.f.vs1 (vTag g v.f.vs1)] else []) ++
    (if bUse (vrow v.op) v.f.form = .vec then [vGroup g v.f.vs2 (vTag g v.f.vs2)] else []) ++
    (if (vrow v.op).c = .vec then [vGroup g v.f.vs3 (vTag g v.f.vs3)] else [])

/-- The result format that R192 to R194, R362 and the instruction's own rule give it; none where they give none, or where another statement
covers it. -/
def resultFmt (g : Eng) (v : VSlot) : Option Nat :=
  let fa := vTag g v.f.vs1
  let fb := fmtB2 g v.f
  let fc := vTag g v.f.vs3
  let fl (o : Option Nat) : Option Nat := o.filter isFl
  match v.op with
  | .vadd | .vsub | .vmul | .vdiv | .vmin | .vmax => fl (joinOf fa fb)
  | .vrcp | .vsqrt | .vrsqrt | .vabs | .vneg => fl (some fa)
  | .vfma | .vfms | .vfnma => (joinOf fa fb).bind (fun x => joinOf x fc)
  | .vmov => some fa
  | .vbcast => some (vF g)
  | .vid => fl (some (vF g))
  | .vsel => if fa = fb then some fa else none
  | .vclass => if fa = 9 ∨ fa = 10 then some 2 else if fa = 11 ∨ fa = 12 then some 4 else if fa = 13 then some 6 else none
  | .vsin | .vcos | .vexp2 | .vlog2 | .vtanh | .vsigm => if 11 ≤ fa ∧ fa ≤ 13 then some fa else none
  | .vcvt => if fa = 15 then none else some (v.f.mods.toNat / 2 ^ 16 % 16)
  | .vwmac =>
    if isFl fa && isFl fb && vBits g fa == vBits g (vF g) && vBits g fb == vBits g (vF g) && (fa == fb || fa == 9 || fa == 10) &&
        (vTag g v.f.vd == 13 || tgFmt (Tags.at_ g.v.tags v.f.vd.toNat) == 0) then some 13 else none
  | _ => none

/-- The scale fields of `vcvt` are those that R376 allows its formats, and its scale group lies where it may. -/
def scalesFit (g : Eng) (v : VSlot) (fd : Nat) : Prop :=
  let fa := vTag g v.f.vs1
  let narrow (f : Nat) : Bool := f == 8 || f == 9 || f == 10
  let sc := (v.f.vs2.toNat, max 1 (vRegs g (vBits g (if narrow fd then fd else fa)) / 4))
  (narrow fa = false → narrow fd = false → v.f.vs2 = 0 ∧ v.f.vs3 = 0) ∧ (narrow fd = false → v.f.vs3 = 0) ∧
    (v.f.vs2 ≠ 0 → inFile g sc ∧ apart (vGroup g v.f.vd fd) sc)

/-- The result of an element-wise instruction at element i, by the rule of its entry. -/
def resultRule (s : State) (v : VSlot) (fr i r fl : Nat) : Prop :=
  let g := s.me
  let fa := vTag g v.f.vs1
  let fb := fmtB2 g v.f
  let fc := vTag g v.f.vs3
  let a := elemAt s s.core s.eng v.f.vs1 (vBits g fa) i
  let c := elemAt s s.core s.eng v.f.vs3 (vBits g fc) i
  let w := vBits g fr
  let mode := v.f.mods.toNat / 2 ^ 21 % 8
  ∀ b, operand2 s v.f i b →
    match v.op with
    | .vadd | .vsub | .vmul | .vdiv | .vrcp => arithRule v.op fa fb fc fr mode a b c r fl
    | .vfma => if isFl fr then arithRule v.op fa fb fc fr mode a b c r fl
      else (r : Int) = (intF fa a * intF fb b + intF fc c) % 2 ^ w ∧ fl = 0
    | .vfms => if isFl fr then arithRule v.op fa fb fc fr mode a b c r fl
      else (r : Int) = (intF fa a * intF fb b - intF fc c) % 2 ^ w ∧ fl = 0
    | .vfnma => if isFl fr then arithRule v.op fa fb fc fr mode a b c r fl
      else (r : Int) = (intF fc c - intF fa a * intF fb b) % 2 ^ w ∧ fl = 0
    | .vsqrt => sqrtRule false fa mode a r fl
    | .vrsqrt => sqrtRule true fa mode a r fl
    | .vmin => minmaxRule false fa fb fr a b r fl
    | .vmax => minmaxRule true fa fb fr a b r fl
    | .vabs => r = a % 2 ^ (w - 1) ∧ fl = 0
    | .vneg => r = (if negF fa a then a - 2 ^ (w - 1) else a + 2 ^ (w - 1)) ∧ fl = 0
    | .vmov => r = a ∧ fl = 0
    | .vbcast => r = b ∧ fl = 0
    | .vid => (i = 0 → r = 0 ∧ fl = 0) ∧ delivered fr 0 (i : Rat) r fl
    | .vsel => r = (if g.v.active v.f i then a else b) ∧ fl = 0
    | .vclass => classRule fa a r ∧ fl = 0
    | .vcvt => cvtRule s v fa fr i a r fl
    | .vwmac => arithRule .vfma fa fb 13 13 mode a b (elemAt s s.core s.eng v.f.vd 32 i) r fl
    | _ => specialRule v.op fa a r fl

/-- The elements that an element-wise instruction computes: active and below VL − PAD; in `vsel` the mask selects (R360, R371). -/
def computed (g : Eng) (v : VSlot) (i : Nat) : Bool := decide (i < vReal g) && (v.op == .vsel || g.v.active v.f i)

end Sys2Proof.Claims

/-- R187, R192 to R199, R359, R362 to R366, R368, R371 to R377, R425: an element-wise instruction by itself (float arithmetic, division and
roots, minimum and maximum, fused and widening multiply-add, sign, move, selection, class, conversion with its scales, and the special
functions at the operands that R425 names) completes, each active element of its destination holding the rule's result in the result format
of its sources; the flags of those elements are raised, and the other elements and registers are as before or as their policies say. That a
lone row on an empty queue runs at once is the model's choice (log 23, DEDUCED). -/
def Obligations.vector_results : Prop :=
  ∀ (i : Instr) (v : VSlot) (s : State) (fr : Nat), loneOf i = some v → canRun s v → resultFmt s.me v = some fr →
    groupsFit s.me (v.op != .vwmac && (v.op != .vcvt || vBits s.me fr == vBits s.me (vTag s.me v.f.vs1)))
      [vGroup s.me v.f.vd fr] (sourcesOf s.me v) →
    (v.op = .vcvt → scalesFit s.me v fr) → (v.f.form = 2 → ∃ b, immOf s.me v.f b) →
    let d := vGroup s.me v.f.vd fr
    ∃ t fl, exec i s = .next t ∧ onlyGroups s t [d] ∧ regsKept s.me t.me ∧ t.me.v.masks = s.me.v.masks ∧
      written s t v.f.vd (vBits s.me fr) d.2 (vReal s.me) (computed s.me v) (fun i r => resultRule s v fr i r (fl i)) ∧
      flagged s t (computed s.me v) fl ∧ tagged t d fr

namespace Sys2Proof.Claims

/-- Bit i of a mask register; m0 is all ones (R361). -/
def maskOf (g : Eng) (m i : Nat) : Bool := g.v.maskBit m i

/-- Two numbers meet a condition of `vcmp`: eq, ne, lt, le, gt, ge (R369). -/
def meetsCond (cond : Nat) (x y : Rat) : Prop :=
  match cond with
  | 0 => x = y
  | 1 => x ≠ y
  | 2 => x < y
  | 3 => x ≤ y
  | 4 => y < x
  | _ => y ≤ x

/-- The bit that an instruction with a mask destination writes for element i (R369, R370). -/
def maskRule (s : State) (v : VSlot) (i : Nat) (m : Bool) : Prop :=
  let g := s.me
  let fa := vTag g v.f.vs1
  let fb := fmtB2 g v.f
  let a := elemAt s s.core s.eng v.f.vs1 (vBits g fa) i
  let cond := v.f.mods.toNat / 2 ^ 16 % 8
  match v.op with
  | .vmand => m = (maskOf g v.f.vs1.toNat i && maskOf g v.f.vs2.toNat i)
  | .vmor => m = (maskOf g v.f.vs1.toNat i || maskOf g v.f.vs2.toNat i)
  | .vmnot => m = !maskOf g v.f.vs1.toNat i
  | .vcmp =>
    ∀ b, operand2 s v.f i b → ∀ fr, joinOf fa fb = some fr →
      if isFl fr then
        ((nanF fa a || nanF fb b) = true → (m = true ↔ cond = 1)) ∧
          ∀ x y, floatVal fa a = some x → floatVal fb b = some y → (m = true ↔ meetsCond cond x y)
      else
        let as (z : Int) : Rat := (elemInt (isSg fr) (vBits g fr) (z % 2 ^ vBits g fr).toNat : Int)
        (m = true ↔ meetsCond cond (as (intF fa a)) (as (intF fb b)))
  | _ => False

end Sys2Proof.Claims

/-- R361, R369, R370: `vcmp` of two formats that join, and `vmand`, `vmor` and `vmnot`, by themselves, write the bit of every active element below
VL − PAD of their mask; a masked-off bit is as before, or set where MA is; every bit from VL − PAD on, every other mask, register and flag is as
before. That a lone row on an empty queue runs at once is the model's choice (log 23, DEDUCED). -/
def Obligations.vector_masks : Prop :=
  ∀ (i : Instr) (v : VSlot) (s : State), loneOf i = some v → v.op ∈ [VOp.vcmp, .vmand, .vmor, .vmnot] → canRun s v →
    groupsFit s.me true [] (sourcesOf s.me v) → (v.op = .vcmp → (joinOf (vTag s.me v.f.vs1) (fmtB2 s.me v.f)).isSome = true) →
    (v.f.form = 2 → ∃ b, immOf s.me v.f b) →
    ∃ t, exec i s = .next t ∧ onlyGroups s t [] ∧ regsKept s.me t.me ∧ t.me.vflags = s.me.vflags ∧ t.me.v.tags = s.me.v.tags ∧
      (∀ k, k < 8 → k ≠ v.f.vd.toNat → ∀ j, maskOf t.me k j = maskOf s.me k j) ∧
      ∀ j, if j < vReal s.me then
          if s.me.v.active v.f j then maskRule s v j (maskOf t.me v.f.vd.toNat j)
          else maskOf t.me v.f.vd.toNat j = maskOf s.me v.f.vd.toNat j ∨
            (s.me.v.vtype.getLsbD 10 = true ∧ maskOf t.me v.f.vd.toNat j = true)
        else maskOf t.me v.f.vd.toNat j = maskOf s.me v.f.vd.toNat j

/-! #### Reductions, scans and permutes (R201, R202, R378, R401, R413 to R423) -/

namespace Sys2Proof.Claims

/-- The elements of the source that take part: active and below VL − PAD. -/
def takes (g : Eng) (v : VSlot) (i : Nat) : Bool := decide (i < vReal g) && g.v.active v.f i

/-- The operation of a reduction or scan. -/
def redOp (v : VSlot) : Nat := v.f.mods.toNat / 2 ^ 16 % 8

/-- It runs left to right. -/
def redSeq (v : VSlot) : Bool := v.f.mods.getLsbD 15

/-- A 64-bit accumulator of an integer format. -/
def acc64 (f : Nat) (z : Int) : Int := if isSg f then (BitVec.ofInt 64 z).toInt else ((BitVec.ofInt 64 z).toNat : Int)

/-- One integer step of a reduction: wrapping sum, least, greatest, and, or, exclusive or, of 64 bits (R202, R413). -/
def redStep (f op : Nat) (x y : Int) : Int :=
  match op with
  | 0 => acc64 f (x + y)
  | 1 => min x y
  | 2 => max x y
  | 3 => acc64 f ((BitVec.ofInt 64 x &&& BitVec.ofInt 64 y).toInt)
  | 4 => acc64 f ((BitVec.ofInt 64 x ||| BitVec.ofInt 64 y).toInt)
  | _ => acc64 f ((BitVec.ofInt 64 x ^^^ BitVec.ofInt 64 y).toInt)

/-- The identity of an integer operation (R202): 0 of sums, the greatest and the least value of the format, all ones of `and`. -/
def redIdent (f op : Nat) : Int :=
  match op with
  | 1 => elemMax (isSg f) (fmtBits f 0)
  | 2 => elemMin (isSg f) (fmtBits f 0)
  | 3 => acc64 f (-1)
  | _ => 0

/-- The elements of the integer source with the identity where they do not take part (R413). -/
def redSrc (s : State) (v : VSlot) (i : Nat) : Int :=
  let f := vTag s.me v.f.vs1
  if takes s.me v i then intF f (elemAt s s.core s.eng v.f.vs1 (vBits s.me f) i) else redIdent f (redOp v)

/-- The integer accumulation of the elements from `lo` up to, and without, `hi`. -/
def redOver (s : State) (v : VSlot) (lo hi : Nat) : Int :=
  ((List.range (hi - lo)).map (fun d => redSrc s v (lo + d))).foldl (redStep (vTag s.me v.f.vs1) (redOp v)) (redIdent (vTag s.me v.f.vs1) (redOp v))

/-- One step of a float sum: the exact sum of two f32 numbers, in range, rounded once into an f32 number (R196, R202, R364). -/
def addsTo (mode a b r : Nat) : Prop :=
  ∃ x y, floatVal 13 a = some x ∧ floatVal 13 b = some y ∧
    (x + y ≠ 0 → inRange 13 (x + y) ∧ isRounded 13 mode (x + y) r) ∧
    (x + y = 0 → r = zeroOf 13 (if x = 0 ∧ negF 13 a = negF 13 b then negF 13 a else mode == 2))

/-- `y i` is element i of the float source in f32, +0 where it does not take part (R202). -/
def sumSrc (s : State) (v : VSlot) (y : Nat → Nat) : Prop :=
  let f := vTag s.me v.f.vs1
  ∀ i, if takes s.me v i then
      let a := elemAt s s.core s.eng v.f.vs1 (vBits s.me f) i
      y i < 2 ^ 32 ∧ (floatVal f a).isSome = true ∧ floatVal 13 (y i) = floatVal f a ∧ negF 13 (y i) = negF f a
    else y i = 0

/-- The source of a reduction, scan or permute has a format that its operation takes (R413). -/
def redFits (g : Eng) (v : VSlot) : Prop :=
  (isIn (vTag g v.f.vs1) = true ∨ (isFl (vTag g v.f.vs1) = true ∧ redOp v ≤ 2))

/-- A value stands in a scalar register, which is held no more; every other register is as before (R414). -/
def landedIn (s t : State) (rd : SReg) (x : Word) : Prop :=
  (∀ r, t.me.rd r = if r = rd ∧ r ≠ 0 then x else s.me.rd r) ∧ ∀ r, t.me.held r = (s.me.held r && r != rd)

/-- What `vred` leaves in its scalar register: the integer fold; the float sum in either order, where each partial sum is in range; the
least or greatest of finite floats (R202, R413, R414). -/
def vredRule (s : State) (v : VSlot) (x : Word) : Prop :=
  let g := s.me
  let f := vTag g v.f.vs1
  let n := g.v.vl
  let mode := v.f.mods.toNat / 2 ^ 21 % 8
  if isIn f then x = BitVec.ofInt 64 (redOver s v 0 n)
  else if redOp v = 0 then
    ∀ y, sumSrc s v y →
      (redSeq v = true → ∀ p : Nat → Nat, p 0 = y 0 → (∀ i, i + 1 < n → addsTo mode (p i) (y (i + 1)) (p (i + 1))) →
        x = BitVec.ofNat 64 (p (n - 1))) ∧
      (redSeq v = false → ∀ (k : Nat) (p : Nat → Nat → Nat), n ≤ 2 ^ k → 2 ^ k < 2 * n →
        (∀ i, p 0 i = if i < n then y i else 0) →
        (∀ l i, l < k → i < 2 ^ (k - 1 - l) → addsTo mode (p l i) (p l (i + 2 ^ (k - 1 - l))) (p (l + 1) i)) → x = BitVec.ofNat 64 (p k 0))
  else
    let val (i : Nat) : Option Rat := floatVal f (elemAt s s.core s.eng v.f.vs1 (vBits g f) i)
    (∀ i, takes g v i = true → (val i).isSome = true) →
      ∀ j a, takes g v j = true → val j = some a →
        (∀ i b, takes g v i = true → val i = some b → if redOp v = 1 then a ≤ b else b ≤ a) → floatVal 13 x.toNat = some a

/-- What `vscan` writes for element i: the inclusive accumulation in the source's format (R415). -/
def vscanRule (s : State) (v : VSlot) (lo i r : Nat) : Prop :=
  let g := s.me
  let f := vTag g v.f.vs1
  let n := g.v.vl
  let mode := v.f.mods.toNat / 2 ^ 21 % 8
  if isIn f then (r : Int) = redOver s v lo (i + 1) % 2 ^ vBits g f
  else
    redOp v = 0 → lo = 0 → ∀ y, sumSrc s v y →
      (redSeq v = true → ∀ p : Nat → Nat, p 0 = y 0 → (∀ j, j + 1 < n → addsTo mode (p j) (y (j + 1)) (p (j + 1))) →
        ∀ x, floatVal 13 (p i) = some x → x ≠ 0 → inRange f x → isRounded f mode x r) ∧
      (redSeq v = false → ∀ (k : Nat) (p : Nat → Nat → Nat), n ≤ 2 ^ k → 2 ^ k < 2 * n → (∀ j, p 0 j = y j) →
        (∀ l j, l < k → j < n → if j < 2 ^ l then p (l + 1) j = p l j else addsTo mode (p l (j - 2 ^ l)) (p l j) (p (l + 1) j)) →
        ∀ x, floatVal 13 (p k i) = some x → x ≠ 0 → inRange f x → isRounded f mode x r)

/-- The first index of segment j, and the index behind its last (R418). -/
def segLo (g : Eng) (j : Nat) : Nat := min (g.v.seg.toList.getD j 0).toNat (vReal g)
/-- The index behind it. -/
def segHi (g : Eng) (j : Nat) : Nat := if j = 63 then vReal g else segLo g (j + 1)

/-- SEG does not decrease (R418). -/
def segRises (g : Eng) : Prop := ∀ j, j < 63 → (g.v.seg.toList.getD j 0).toNat ≤ (g.v.seg.toList.getD (j + 1) 0).toNat

/-- The value of element `k` of an index group, sign- or zero-extended (R381). -/
def indexAt (s : State) (r : VReg) (k : Nat) : Int :=
  let f := vTag s.me r
  intF f (elemAt s s.core s.eng r (vBits s.me f) k)

/-- What a permute gives destination element i, of those it writes (R422, R423). -/
def permRule (s : State) (v : VSlot) (i r : Nat) : Prop :=
  let g := s.me
  let n := vReal g
  let f := vTag g v.f.vs1
  let a (k : Nat) : Nat := elemAt s s.core s.eng v.f.vs1 (vBits g f) k
  let k := if v.f.form = 2 then v.f.mods.toNat % 65536 else (g.rd v.f.vs2).toNat
  match v.op with
  | .vperm => if 0 ≤ indexAt s v.f.vs2 i ∧ indexAt s v.f.vs2 i < n then r = a (indexAt s v.f.vs2 i).toNat else r = 0
  | .vslide =>
    if v.f.mods.getLsbD 16 then r = (if i + k < n then a (i + k) else 0)
    else r = if k ≤ i then a (i - k) else elemAt s s.core s.eng v.f.vd (vBits g f) i
  | .vrev => r = a (n - 1 - i)
  | .vcompress => ∃ j, j < n ∧ g.v.active v.f j = true ∧ (List.range j).countP (g.v.active v.f) = i ∧ r = a j
  | .vexpand => r = a ((List.range i).countP (g.v.active v.f))
  | _ => False

/-- The destination elements that a permute writes: the active ones; in `vcompress` as many as are selected (R422, R423). -/
def permuted (g : Eng) (v : VSlot) (i : Nat) : Bool :=
  if v.op == .vcompress then decide (i < (List.range (vReal g)).countP (g.v.active v.f)) else takes g v i

/-- The permutes. -/
def permOps : List VOp := [.vperm, .vslide, .vrev, .vcompress, .vexpand]

/-- What `vdot.blk` gives output j, where every element of its block and the scales are finite, and the exact sum is in range: the
accumulator plus the sum of the scaled products, rounded once (R191, R378). -/
def dotRule (s : State) (v : VSlot) (j r : Nat) : Prop :=
  let g := s.me
  let b := 2 ^ (g.v.vtype.toNat / 2 ^ 4 % 8)
  let mode := v.f.mods.toNat / 2 ^ 21 % 8
  let val (q : VReg) (i : Nat) : Option Rat :=
    let f := vTag g q
    if i < vReal g then
      (floatVal f (elemAt s s.core s.eng q (vBits g f) i)).bind (fun x =>
        if f ≤ 10 then (floatVal 16 (elemAt s s.core s.eng (q + BitVec.ofNat 5 (vG g)) 8 (i * fmtBits f 0 / 32))).map (fun y => x * y) else some x)
    else some 0
  (∀ i, j * b ≤ i → i < j * b + b → (val v.f.vs1 i).isSome = true ∧ (val v.f.vs2 i).isSome = true) →
    ∀ c, floatVal 13 (elemAt s s.core s.eng v.f.vd 32 j) = some c →
      let x := c + ((List.range b).map (fun d => (val v.f.vs1 (j * b + d)).getD 0 * (val v.f.vs2 (j * b + d)).getD 0)).sum
      x ≠ 0 → inRange 13 x → isRounded 13 mode x r

/-- The scale groups of the sources of `vdot.blk` (R378). -/
def dotScales (g : Eng) (v : VSlot) : List (Nat × Nat) :=
  [v.f.vs1, v.f.vs2].flatMap (fun q => if vTag g q ≤ 10 then [(q.toNat + vG g, max 1 (vG g / 4))] else [])

end Sys2Proof.Claims

/-- R201, R202, R378, R413 to R423: by themselves, `vred` leaves its result in its scalar register, held until then, and changes no vector
register; `vscan` writes the inclusive scan, `vsegscan` of integers one within each segment, and `vsegred` of integers the result of each of
the 64 segments; a permute moves the elements that its rule names; `vdot.blk` adds to each output the exact sum of its block. The other
elements and registers are as before or as their policies say. That a lone row on an empty queue runs at once is the model's choice (log 23,
DEDUCED). -/
def Obligations.vector_folds : Prop :=
  ∀ (i : Instr) (v : VSlot) (s : State), loneOf i = some v → canRun s v → ((s.recOf s.core).det = true → redSeq v = false) →
    let g := s.me
    let f := vTag g v.f.vs1
    let w := vBits g f
    let d := vGroup g v.f.vd f
    (v.op = .vred → redFits g v → groupsFit g false [] (sourcesOf g v) →
      ∃ t x, exec i s = .next t ∧ onlyGroups s t [] ∧ landedIn s t v.f.vd x ∧ vredRule s v x ∧ t.me.v.tags = g.v.tags ∧
        t.me.v.masks = g.v.masks) ∧
    (v.op = .vscan → redFits g v → w = vBits g (vF g) → groupsFit g false [d] (sourcesOf g v) →
      ∃ t, exec i s = .next t ∧ onlyGroups s t [d] ∧ regsKept g t.me ∧ t.me.v.masks = g.v.masks ∧ tagged t d f ∧
        written s t v.f.vd w d.2 (vReal g) (takes g v) (vscanRule s v 0)) ∧
    (v.op = .vsegscan → isIn f = true → w = vBits g (vF g) → segRises g → groupsFit g false [d] (sourcesOf g v) →
      ∃ t, exec i s = .next t ∧ onlyGroups s t [d] ∧ regsKept g t.me ∧ tagged t d f ∧
        written s t v.f.vd w d.2 (vReal g) (fun i => takes g v i && (List.range 64).any (fun j => decide (segLo g j ≤ i ∧ i < segHi g j)))
          (fun i r => ∀ j, j < 64 → segLo g j ≤ i → i < segHi g j → vscanRule s v (segLo g j) i r)) ∧
    (v.op = .vsegred → isIn f = true → segRises g → 64 ≤ g.v.len * vRegs g 64 / 64 →
      groupsFit g false [(v.f.vd.toNat, vRegs g 64)] (sourcesOf g v) →
      ∃ t, exec i s = .next t ∧ onlyGroups s t [(v.f.vd.toNat, vRegs g 64)] ∧ regsKept g t.me ∧
        tagged t (v.f.vd.toNat, vRegs g 64) 7 ∧
        written s t v.f.vd 64 (vRegs g 64) 0 (fun j => decide (j < 64))
          (fun j r => (r : Int) = redOver s v (segLo g j) (max (segLo g j) (segHi g j)) % 2 ^ 64)) ∧
    (v.op ∈ permOps → (v.op = .vperm → isIn (vTag g v.f.vs2) = true) → (v.op = .vslide → v.f.form = 2 → v.f.mods.getLsbD 15 = false) →
      groupsFit g false [d] (sourcesOf g v) →
      ∃ t, exec i s = .next t ∧ onlyGroups s t [d] ∧ regsKept g t.me ∧ t.me.v.masks = g.v.masks ∧ t.me.vflags = g.vflags ∧ tagged t d f ∧
        written s t v.f.vd w d.2 (if v.op = .vcompress then 0 else vReal g) (permuted g v) (permRule s v)) ∧
    (v.op = .vdotBlk → isFl f = true → f = vTag g v.f.vs2 → w = vBits g (vF g) →
      let b := 2 ^ (g.v.vtype.toNat / 2 ^ 4 % 8)
      let o := (v.f.vd.toNat, max 1 (vG g * 32 / (w * b)))
      groupsFit g false [o] (sourcesOf g v ++ dotScales g v) →
      ∃ t, exec i s = .next t ∧ onlyGroups s t [o] ∧ regsKept g t.me ∧ tagged t o 13 ∧
        written s t v.f.vd 32 o.2 (g.v.vl / b) (fun j => decide (j < g.v.vl / b) && g.v.active v.f j) (dotRule s v))

/-! #### The sort unit (R205 to R217, R402 to R412) -/

namespace Sys2Proof.Claims

/-- The rank of a key that is no NaN, by its bits: integers by value; floats by sign and magnitude, −0 in front of +0 (R207). -/
def keyNum (f w a : Nat) : Int :=
  if isFl f then (if a.testBit (w - 1) then -((a % 2 ^ (w - 1) : Nat) : Int) - 1 else (a : Int))
  else elemInt (isSg f) w a

/-- Key a ranks strictly before key b in a direction; every NaN ranks last (R207). -/
def before (f w : Nat) (desc : Bool) (a b : Nat) : Bool :=
  if isFl f && nanF f a then false
  else if isFl f && nanF f b then true
  else if desc then decide (keyNum f w b < keyNum f w a) else decide (keyNum f w a < keyNum f w b)

/-- The sort state of a register: SORT, SPAN (log2), POS, PLV (R204). -/
def sortIs (t : State) (r : VReg) (sort span pos : Nat) (plv : Option VReg) : Prop :=
  let y := Tags.at_ t.me.v.tags r.toNat
  tgSort y = sort ∧ tgSpan y = span ∧ tgPos y = pos ∧ tgPlv y = plv.isSome ∧ (∀ p, plv = some p → tgPlreg y = p.toNat)

/-- A run of `n` registers begins at a register, with its marks and its format (R205, R404, R406). -/
def runIs (t : State) (r : VReg) (sort span f : Nat) (pay : Option VReg) : Prop :=
  ∀ k, k < 2 ^ span → sortIs t (r + BitVec.ofNat 5 k) sort span k pay ∧ tgFmt (Tags.at_ t.me.v.tags (r.toNat + k)) = f ∧
    tgIspl (Tags.at_ t.me.v.tags (r.toNat + k)) = false

/-- The registers of a payload group carry ISPL and their format (R210, R404). -/
def payIs (t : State) (r : VReg) (n f : Nat) : Prop :=
  ∀ k, k < n → tgIspl (Tags.at_ t.me.v.tags (r.toNat + k)) = true ∧ tgSort (Tags.at_ t.me.v.tags (r.toNat + k)) = 0 ∧
    tgFmt (Tags.at_ t.me.v.tags (r.toNat + k)) = f

/-- Element i of the run that begins at a register (R205). -/
def runAt (s : State) (r : VReg) (w i : Nat) : Nat :=
  elemAt s s.core s.eng (r + BitVec.ofNat 5 (vG s.me * (i / s.me.v.vl))) w (i % s.me.v.vl)

/-- The span of a register's run, in registers, and its keys (R205). -/
def spanOf (g : Eng) (r : VReg) : Nat := 2 ^ tgSpan (Tags.at_ g.v.tags r.toNat)
/-- Its keys. -/
def keysIn (g : Eng) (r : VReg) : Nat := spanOf g r / vG g * g.v.vl

/-- A register is a key source that R212 takes: POS 0 of a sorted run in the file, in a format of the working width. -/
def sortedSrc (g : Eng) (r : VReg) : Prop :=
  let y := Tags.at_ g.v.tags r.toNat
  tgPos y = 0 ∧ (tgSort y = 1 ∨ tgSort y = 2) ∧ vG g ≤ spanOf g r ∧ r.toNat % vG g = 0 ∧ r.toNat + spanOf g r ≤ g.v.vregs ∧ vTag g r ≠ 8 ∧
    vBits g (vTag g r) = vBits g (vF g)

/-- The payload register that a key source is linked to (R210). -/
def linkOf (g : Eng) (r : VReg) : VReg := BitVec.ofNat 5 (tgPlreg (Tags.at_ g.v.tags r.toNat))

/-- The fill key of a format and a direction (R407). -/
def fillOf (f w : Nat) (desc : Bool) : Nat :=
  if isFl f then nanOf f else if isSg f then (if desc then 2 ^ (w - 1) else 2 ^ (w - 1) - 1) else if desc then 0 else 2 ^ w - 1

/-- `vsortr`: the real elements are a stable arrangement of the real keys, with their payloads (R209, R404). -/
def sortrRule (s t : State) (v : VSlot) : Prop :=
  let g := s.me
  let f := vTag g v.f.vs1
  let w := vBits g f
  let wp := vBits g (vTag g v.f.vs3)
  let key (i : Nat) : Nat := elemAt s s.core s.eng v.f.vs1 w i
  ∃ p : Nat → Nat, (∀ i, i < vReal g → p i < vReal g ∧ elemAt t s.core s.eng v.f.vd w i = key (p i) ∧
      (v.f.vs2 ≠ 0 → elemAt t s.core s.eng v.f.vs2 wp i = elemAt s s.core s.eng v.f.vs3 wp (p i))) ∧
    ∀ i j, i < j → j < vReal g → before f w (v.f.mods.getLsbD 16) (key (p j)) (key (p i)) = false ∧
      (before f w (v.f.mods.getLsbD 16) (key (p i)) (key (p j)) = false → p i < p j)

/-- The loop of R215 over runs of `na` and `nb` keys: `a o` and `b o` are the positions as output o is chosen. -/
def mergeLoop (lt : Nat → Nat → Bool) (ka kb : Nat → Nat) (na nb : Nat) (a b : Nat → Nat) : Prop :=
  a 0 = 0 ∧ b 0 = 0 ∧ ∀ o, o < na + nb →
    if b o = nb ∨ (a o ≠ na ∧ lt (kb (b o)) (ka (a o)) = false) then a (o + 1) = a o + 1 ∧ b (o + 1) = b o
    else a (o + 1) = a o ∧ b (o + 1) = b o + 1

/-- `vmerge`: the outputs of the loop, with their payloads (R215, R406). -/
def mergeRule (s t : State) (v : VSlot) : Prop :=
  let g := s.me
  let f := vTag g v.f.vs1
  let w := vBits g f
  let wp := vBits g (vTag g (linkOf g v.f.vs1))
  let n := keysIn g v.f.vs1
  ∃ a b, mergeLoop (before f w (tgSort (Tags.at_ g.v.tags v.f.vs1.toNat) == 2)) (runAt s v.f.vs1 w) (runAt s v.f.vs2 w) n n a b ∧
    ∀ o, o < 2 * n →
      runAt t v.f.vd w o = (if a (o + 1) = a o then runAt s v.f.vs2 w (b o) else runAt s v.f.vs1 w (a o)) ∧
      (v.f.vs3 ≠ 0 → runAt t v.f.vs3 wp o =
        if a (o + 1) = a o then runAt s (linkOf g v.f.vs2) wp (b o) else runAt s (linkOf g v.f.vs1) wp (a o))

/-- The loop of `vinter` (R407), after k passes: positions in A and B, and the number of outputs. -/
def interLoop (lt : Nat → Nat → Bool) (ka kb : Nat → Nat) (na nb : Nat) (a b o : Nat → Nat) : Prop :=
  a 0 = 0 ∧ b 0 = 0 ∧ o 0 = 0 ∧ ∀ k,
    if a k < na ∧ b k < nb then
      (lt (ka (a k)) (kb (b k)) = true → a (k + 1) = a k + 1 ∧ b (k + 1) = b k ∧ o (k + 1) = o k) ∧
      (lt (kb (b k)) (ka (a k)) = true → a (k + 1) = a k ∧ b (k + 1) = b k + 1 ∧ o (k + 1) = o k) ∧
      (lt (ka (a k)) (kb (b k)) = false → lt (kb (b k)) (ka (a k)) = false → a (k + 1) = a k + 1 ∧ b (k + 1) = b k + 1 ∧ o (k + 1) = o k + 1)
    else a (k + 1) = a k ∧ b (k + 1) = b k ∧ o (k + 1) = o k

/-- Output o of `vinter` or `vuniq` is element a of run A, with its payload if a payload destination is named. -/
def emits (s t : State) (v : VSlot) (o a : Nat) : Prop :=
  let g := s.me
  let w := vBits g (vTag g v.f.vs1)
  let wp := vBits g (vTag g (linkOf g v.f.vs1))
  runAt t v.f.vd w o = runAt s v.f.vs1 w a ∧ (v.f.vs3 ≠ 0 → runAt t v.f.vs3 wp o = runAt s (linkOf g v.f.vs1) wp a)

/-- Output o of `vinter` or `vuniq` is the fill key, with a payload of zeros (R407). -/
def fills (s t : State) (v : VSlot) (o : Nat) : Prop :=
  let g := s.me
  let f := vTag g v.f.vs1
  runAt t v.f.vd (vBits g f) o = fillOf f (vBits g f) (tgSort (Tags.at_ g.v.tags v.f.vs1.toNat) == 2) ∧
    (v.f.vs3 ≠ 0 → runAt t v.f.vs3 (vBits g (vTag g (linkOf g v.f.vs1))) o = 0)

/-- `vinter` and `vuniq` (R407). -/
def setRule (s t : State) (v : VSlot) : Prop :=
  let g := s.me
  let f := vTag g v.f.vs1
  let w := vBits g f
  let lt := before f w (tgSort (Tags.at_ g.v.tags v.f.vs1.toNat) == 2)
  let ka := runAt s v.f.vs1 w
  let na := keysIn g v.f.vs1
  if v.op = .vinter then
    ∃ a b o, interLoop lt ka (runAt s v.f.vs2 w) na (keysIn g v.f.vs2) a b o ∧
      (∀ k, o (k + 1) = o k + 1 → emits s t v (o k) (a k)) ∧
      ∀ j, (∀ k, o k ≤ j) → j < na → fills s t v j
  else
    ∃ o : Nat → Nat, o 0 = 0 ∧
      (∀ a, a < na → (a = 0 ∨ lt (ka (a - 1)) (ka a) = true → o (a + 1) = o a + 1 ∧ emits s t v (o a) a) ∧
        (a ≠ 0 → lt (ka (a - 1)) (ka a) = false → o (a + 1) = o a)) ∧
      ∀ j, o na ≤ j → j < na → fills s t v j

/-- The real elements of `vpart` in two stable blocks: those that rank before the pivot, then the others. -/
def partRule (s t : State) (v : VSlot) : Prop :=
  let g := s.me
  let f := vTag g v.f.vs1
  let w := vBits g f
  let x (i : Nat) : Nat := elemAt s s.core s.eng v.f.vs1 w i
  let lt (i : Nat) : Bool := before f w (v.f.mods.getLsbD 16) (x i) ((g.rd v.f.vs2).toNat % 2 ^ w)
  let first (n : Nat) : Nat := (List.range n).countP lt
  ∀ i, i < vReal g → elemAt t s.core s.eng v.f.vd w (if lt i then first i else first (vReal g) + (i - first i)) = x i

/-- The keys of a configured group of `n` real elements stand in order (R405). -/
def ordered (s : State) (v : VSlot) : Prop :=
  let f := vTag s.me v.f.vs1
  let w := vBits s.me f
  ∀ i, i + 1 < vReal s.me →
    before f w (v.f.mods.getLsbD 16) (elemAt s s.core s.eng v.f.vs1 w (i + 1)) (elemAt s s.core s.eng v.f.vs1 w i) = false

/-- The groups that the sort unit reads and writes are in the file, aligned to their spans, and apart (R214, R403). -/
def sortFits (g : Eng) (ds ss : List (Nat × Nat)) : Prop :=
  (∀ d ∈ ds, inFile g d) ∧ (∀ d ∈ ds, ∀ x ∈ ss, apart d x) ∧ (∀ d e, ds = [d, e] → apart d e) ∧
    ∀ x ∈ ss, x.1 % vG g = 0 ∧ x.1 + x.2 ≤ g.v.vregs

/-- The direction of a sort-unit instruction as SORT has it. -/
def dirOf (v : VSlot) : Nat := if v.f.mods.getLsbD 16 then 2 else 1

end Sys2Proof.Claims

/-- R205 to R216, R401 to R409: the sort unit, by itself. `vsortr` leaves the real keys in stable order, with their payloads; `vchk` marks a
group in order and changes nothing else; `vmerge` writes the outputs of the loop of R215, `vinter` and `vuniq` those of R407 and the fill key
behind them; `vrank` counts; `vpart` parts. The marks of the destinations are those that R404 and R406 give, and the other registers are as
before. That a lone row on an empty queue runs at once is the model's choice (log 23, DEDUCED). -/
def Obligations.vector_sorts : Prop :=
  ∀ (i : Instr) (v : VSlot) (s : State), loneOf i = some v → canRun s v →
    let g := s.me
    let f := vTag g v.f.vs1
    let w := vBits g f
    let fp := vTag g v.f.vs3
    let grp (r : VReg) (n : Nat) : Nat × Nat := (r.toNat, n)
    let plain := f ≠ 8 ∧ w = vBits g (vF g)
    let pay := if v.f.vs3 = 0 then none else some v.f.vs3
    let tails (t : State) (r : VReg) (w : Nat) : Prop := written s t r w (vG g) 0 (fun k => decide (k < vReal g)) (fun _ _ => True)
    let linked (r : VReg) : Prop :=
      v.f.vs3 ≠ 0 → tgPlv (Tags.at_ g.v.tags r.toNat) = true ∧ vBits g (vTag g (linkOf g r)) ≤ w
    (v.op = .vsortr → plain → g.v.vl ≤ 1024 → (v.f.vs2 ≠ 0 → vBits g fp ≤ w) →
      sortFits g (grp v.f.vd (vG g) :: (if v.f.vs2 = 0 then [] else [grp v.f.vs2 (vG g)]))
        (grp v.f.vs1 (vG g) :: (if v.f.vs2 = 0 then [] else [grp v.f.vs3 (vG g)])) →
      ∃ t, exec i s = .next t ∧ onlyGroups s t [grp v.f.vd (vG g), grp v.f.vs2 (if v.f.vs2 = 0 then 0 else vG g)] ∧ regsKept g t.me ∧
        t.me.vflags = g.vflags ∧ sortrRule s t v ∧ tails t v.f.vd w ∧ (v.f.vs2 ≠ 0 → tails t v.f.vs2 (vBits g fp)) ∧
        runIs t v.f.vd (dirOf v) (g.v.vtype.toNat / 2 ^ 7 % 4) f (if v.f.vs2 = 0 then none else some v.f.vs2) ∧
        (v.f.vs2 ≠ 0 → payIs t v.f.vs2 (vG g) fp)) ∧
    (v.op = .vchk → plain → g.v.vl ≤ 1024 → sortFits g [] [grp v.f.vs1 (vG g)] →
      ∃ t, exec i s = .next t ∧ onlyGroups s t [] ∧ regsKept g t.me ∧ t.me.vflags = g.vflags ∧
        (ordered s v → ∀ k, k < vG g → tgSort (Tags.at_ t.me.v.tags (v.f.vs1.toNat + k)) = dirOf v ∧
          tgSpan (Tags.at_ t.me.v.tags (v.f.vs1.toNat + k)) = g.v.vtype.toNat / 2 ^ 7 % 4 ∧ tgPos (Tags.at_ t.me.v.tags (v.f.vs1.toNat + k)) = k) ∧
        (¬ ordered s v → t.me.v.tags = g.v.tags)) ∧
    (v.op = .vmerge → g.v.vtype.toNat / 2 ^ 13 % 2 ^ 7 = 0 → sortedSrc g v.f.vs1 → sortedSrc g v.f.vs2 → spanOf g v.f.vs1 = spanOf g v.f.vs2 →
      spanOf g v.f.vs1 ≤ 4 → vTag g v.f.vs2 = f → tgSort (Tags.at_ g.v.tags v.f.vs2.toNat) = tgSort (Tags.at_ g.v.tags v.f.vs1.toNat) →
      linked v.f.vs1 → linked v.f.vs2 → (v.f.vs3 ≠ 0 → vTag g (linkOf g v.f.vs1) = vTag g (linkOf g v.f.vs2)) →
      sortFits g (grp v.f.vd (2 * spanOf g v.f.vs1) :: (if v.f.vs3 = 0 then [] else [grp v.f.vs3 (2 * spanOf g v.f.vs1)]))
        ([grp v.f.vs1 (spanOf g v.f.vs1), grp v.f.vs2 (spanOf g v.f.vs2)] ++
          (if v.f.vs3 = 0 then [] else [grp (linkOf g v.f.vs1) (spanOf g v.f.vs1), grp (linkOf g v.f.vs2) (spanOf g v.f.vs1)])) →
      ∃ t, exec i s = .next t ∧ onlyGroups s t [grp v.f.vd (2 * spanOf g v.f.vs1), grp v.f.vs3 (if v.f.vs3 = 0 then 0 else 2 * spanOf g v.f.vs1)] ∧
        regsKept g t.me ∧ t.me.vflags = g.vflags ∧ mergeRule s t v ∧
        runIs t v.f.vd (tgSort (Tags.at_ g.v.tags v.f.vs1.toNat)) (tgSpan (Tags.at_ g.v.tags v.f.vs1.toNat) + 1) f pay ∧
        (v.f.vs3 ≠ 0 → payIs t v.f.vs3 (2 * spanOf g v.f.vs1) (vTag g (linkOf g v.f.vs1)))) ∧
    (v.op = .vinter ∨ v.op = .vuniq → g.v.vtype.toNat / 2 ^ 13 % 2 ^ 7 = 0 → sortedSrc g v.f.vs1 →
      (v.op = .vinter → sortedSrc g v.f.vs2 ∧ vTag g v.f.vs2 = f ∧
        tgSort (Tags.at_ g.v.tags v.f.vs2.toNat) = tgSort (Tags.at_ g.v.tags v.f.vs1.toNat)) → linked v.f.vs1 →
      sortFits g (grp v.f.vd (spanOf g v.f.vs1) :: (if v.f.vs3 = 0 then [] else [grp v.f.vs3 (spanOf g v.f.vs1)]))
        (grp v.f.vs1 (spanOf g v.f.vs1) :: (if v.op = .vinter then [grp v.f.vs2 (spanOf g v.f.vs2)] else []) ++
          (if v.f.vs3 = 0 then [] else [grp (linkOf g v.f.vs1) (spanOf g v.f.vs1)])) →
      ∃ t, exec i s = .next t ∧ onlyGroups s t [grp v.f.vd (spanOf g v.f.vs1), grp v.f.vs3 (if v.f.vs3 = 0 then 0 else spanOf g v.f.vs1)] ∧
        regsKept g t.me ∧ t.me.vflags = g.vflags ∧ setRule s t v ∧
        runIs t v.f.vd (tgSort (Tags.at_ g.v.tags v.f.vs1.toNat)) (tgSpan (Tags.at_ g.v.tags v.f.vs1.toNat)) f pay ∧
        (v.f.vs3 ≠ 0 → payIs t v.f.vs3 (spanOf g v.f.vs1) (vTag g (linkOf g v.f.vs1)))) ∧
    (v.op = .vrank → g.v.vtype.toNat / 2 ^ 13 % 2 ^ 7 = 0 → sortedSrc g v.f.vs1 → vTag g v.f.vs2 = f → inFile g (grp v.f.vs2 (vG g)) →
      sortFits g [grp v.f.vd (vRegs g 32)] [grp v.f.vs1 (spanOf g v.f.vs1), grp v.f.vs2 (vG g)] →
      ∃ t, exec i s = .next t ∧ onlyGroups s t [grp v.f.vd (vRegs g 32)] ∧ regsKept g t.me ∧ t.me.vflags = g.vflags ∧
        tagged t (grp v.f.vd (vRegs g 32)) 6 ∧
        written s t v.f.vd 32 (vRegs g 32) 0 (fun k => decide (k < g.v.vl)) (fun k r => r = (List.range (keysIn g v.f.vs1)).countP (fun j =>
          before f w (tgSort (Tags.at_ g.v.tags v.f.vs1.toNat) == 2) (runAt s v.f.vs1 w j) (elemAt s s.core s.eng v.f.vs2 w k)))) ∧
    (v.op = .vpart → plain → g.v.vl ≤ 1024 → sortFits g [grp v.f.vd (vG g)] [grp v.f.vs1 (vG g)] →
      ∃ t, exec i s = .next t ∧ onlyGroups s t [grp v.f.vd (vG g)] ∧ regsKept g t.me ∧ t.me.vflags = g.vflags ∧ partRule s t v ∧ tails t v.f.vd w ∧
        tagged t (grp v.f.vd (vG g)) f)

/-! #### Vector memory (R380 to R400) -/

namespace Sys2Proof.Claims

/-- The bytes of an element, and the element under which its access goes: for fp4 the even one of a pair (R382). -/
def eBytes (g : Eng) : Nat := if vBits g (vF g) < 8 then 1 else vBits g (vF g) / 8
/-- The element under which an access goes. -/
def unitOf (g : Eng) (i : Nat) : Nat := if vBits g (vF g) < 8 then i / 2 * 2 else i

/-- The address of element i (R380, R381, R399). -/
def vAddr (s : State) (v : VSlot) (i : Nat) : Nat :=
  let g := s.me
  let b := g.rd v.f.vs1
  (match v.op with
  | .vld | .vst => b + BitVec.ofNat 64 (if vBits g (vF g) < 8 then i / 2 else i * eBytes g)
  | .vlds | .vsts => b + BitVec.ofNat 64 i * g.rd v.f.vs2
  | .vmmCopy | .vmmFill => b + BitVec.ofNat 64 (8 * i)
  | _ => b + BitVec.ofInt 64 (indexAt s v.f.vs2 i) * BitVec.ofNat 64 (2 ^ (v.f.mods.toNat / 2 ^ 11 % 4))).toNat

/-- Element i passes the checks of R384 at an address, and goes to a place that is memory. -/
def goesTo (s : State) (v : VSlot) (i addr n : Nat) (rd wr : Bool) (l : Loc) : Prop :=
  SlotX.place { c := s.core, e := s.eng, q := s.me.entry [v], j := 0, v := v } s i (if v.f.mods.getLsbD 20 then .s else .g) addr n rd wr = .ok l ∧
    match l with
    | .g pa => pa < devBase
    | _ => True

/-- Every element of an access goes to its place, and no KV pool's frames lie there for it (R239, R240). -/
def allGo (s : State) (v : VSlot) (rd wr : Bool) (l : Nat → Loc) : Prop :=
  (s.poolOf (s.recOf s.core).part).en = false ∧
    ∀ i, takes s.me v i = true → goesTo s v (unitOf s.me i) (vAddr s v (unitOf s.me i)) (eBytes s.me) rd wr (l (unitOf s.me i))

/-- Some element that takes part goes under element u. -/
def isUnit (g : Eng) (v : VSlot) (u : Nat) : Prop := ∃ i, takes g v i = true ∧ unitOf g i = u

/-- `n` bytes of `data u` stand at the place of each unit that no later unit shares; every byte of main memory, and of every core's S, park
area and X, that lies at no unit's place reads as before (R385). -/
def storedAll (s t : State) (unit : Nat → Prop) (l : Nat → Loc) (n : Nat) (data : Nat → Nat) : Prop :=
  (∀ u, unit u → (∀ j, unit j → u < j → l j ≠ l u) → ∀ k, k < n → byteAt t (l u) k = BitVec.ofNat 8 (data u / 256 ^ k)) ∧
    (∀ a, (∀ u k, unit u → k < n → l u ≠ .g (a - k) ∨ a < k) → t.mem.read a = s.mem.read a) ∧
    (∀ c a, (∀ u k, unit u → k < n → l u ≠ .s c (a - k) ∨ a < k) → byteAt t (.s c a) 0 = byteAt s (.s c a) 0) ∧
    (∀ c a, (∀ u k, unit u → k < n → l u ≠ .park c (a - k) ∨ a < k) → byteAt t (.park c a) 0 = byteAt s (.park c a) 0) ∧
    (∀ c a, (∀ u k, unit u → k < n → l u ≠ .x c (a - k) ∨ a < k) → byteAt t (.x c a) 0 = byteAt s (.x c a) 0)

/-- The element that a load gives of its place (R382, R383). -/
def loadedElem (s : State) (l : Nat → Loc) (i r : Nat) : Prop :=
  let x := numAt s (l (unitOf s.me i)) (eBytes s.me)
  r = if vBits s.me (vF s.me) < 8 then (if i % 2 = 0 then x % 16 else x / 16) else x

/-- The data of a store's unit (R382, R383). -/
def storeData (s : State) (v : VSlot) (u : Nat) : Nat :=
  let w := vBits s.me (vF s.me)
  let e (i : Nat) : Nat := elemAt s s.core s.eng v.f.vd w i
  if w < 8 then e u + 16 * e (u + 1) else e u

/-- The new value that an integer operation of `vamo` writes: add, least, greatest, swap, compare and swap, and, or (R394). -/
def vamoRule (f w op old c cmp : Nat) : Nat :=
  let lt := decide (elemInt (isSg f) w old < elemInt (isSg f) w c)
  match op with
  | 0 => (old + c) % 2 ^ w
  | 1 => if lt then old else c
  | 2 => if lt then c else old
  | 3 => c
  | 4 => if old = cmp then c else old
  | 5 => old &&& c
  | _ => old ||| c

/-- Element i reads what the element before it at the same place left, or what stood there (R385, R395). -/
def chained (s : State) (v : VSlot) (l : Nat → Loc) (old new : Nat → Nat) : Prop :=
  let on := takes s.me v
  (∀ i, on i = true → (∀ j, j < i → on j = true → l j ≠ l i) → old i = numAt s (l i) (eBytes s.me)) ∧
    ∀ i j, on i = true → on j = true → j < i → l j = l i → (∀ k, j < k → k < i → on k = true → l k ≠ l i) → old i = new j

/-- A value meets a condition of `vwait` against a comparand of `w` bits: eq, ne, lt, ge, ltn, gen (R398). -/
def waitMet (cond w x y : Nat) : Prop :=
  match cond with
  | 0 => x = y
  | 1 => x ≠ y
  | 2 => elemInt true w x < elemInt true w y
  | 3 => elemInt true w y ≤ elemInt true w x
  | 4 => x < y
  | _ => y ≤ x

/-- The loads and stores of R380, and what an index names. -/
def loadOps : List VOp := [.vld, .vlds, .vldx, .vgl]
/-- The stores. -/
def storeOps : List VOp := [.vst, .vsts, .vstx]
/-- The indexed forms. -/
def indexOps : List VOp := [.vldx, .vgl, .vstx, .vsc, .vamo, .vwait]

/-- The group of the data, and the index group in an integer format (R358, R381, R383). -/
def memFits (g : Eng) (v : VSlot) : Prop :=
  let d := vGroup g v.f.vd (vF g)
  let x := vGroup g v.f.vs2 (vTag g v.f.vs2)
  inFile g d ∧ (v.op ∈ indexOps → isIn (vTag g v.f.vs2) = true ∧ inFile g x ∧ (apart d x ∨ d = x ∨ v.op ∈ storeOps ∨ v.op = .vsc)) ∧
    (vBits g (vF g) < 8 → v.op = .vld ∨ (v.op = .vst ∧ v.f.mask = 0 ∧ v.f.neg = false ∧ g.v.vtype.toNat / 2 ^ 13 % 2 = 0)) ∧
    (v.op ∈ storeOps ∨ v.op = .vsc → tgFmt (Tags.at_ g.v.tags v.f.vd.toNat) = 0 ∨
      vBits g (tgFmt (Tags.at_ g.v.tags v.f.vd.toNat)) = vBits g (vF g))

/-- The head of a thread's queue is a `vwait` or `vld.ipb` by itself, in flight at element `prog`, whose limit has run out (R388, R398). -/
def limitOut (s : State) (c : CoreId) (e : EngId) (v : VSlot) (q : QConvoy) (f : Fly) (more : List QConvoy) : Prop :=
  let g := s.engAt c e
  g.v.vq = q :: more ∧ q.slots = [v] ∧ q.abound = none ∧ q.start.isSome = true ∧ q.fly = [f] ∧ f.lo = q.prog ∧ f.cut = none ∧ f.stage = 0 ∧
    q.prog < q.vl - q.vtype.toNat / 2 ^ 13 % 2 ^ 7 ∧ q.tot = q.vl ∧
    (∃ x, q.expiry = some x ∧ x < s.clk) ∧ (s.instAt c).live = true ∧ g.frozen = false ∧ g.accs = [] ∧ placed g ∧
    (s.coreAt c).laneErr = none ∧ (s.coreAt c).errinj.getLsbD 63 = false ∧ (s.coreAt c).trc.getLsbD 62 = false

end Sys2Proof.Claims

/-- R380 to R385, R390 to R396, R398 to R400: vector memory by itself, where every element passes its checks. A load writes each active
element with what its place holds, and `vgl` leaves the link of the new epoch on each line; a store leaves its data, of elements at one
place that of the highest; `vsc` writes the elements whose lines hold the thread's link and says which; each element of an integer `vamo`
reads and writes its place as one, in ascending order at a common place; `vwait` whose elements are all satisfied takes their values;
`vmm` fills or copies. Every other byte, register and flag is as before. That a lone row on an empty queue runs at once is the model's choice
(log 23, DEDUCED). -/
def Obligations.vector_memory : Prop :=
  ∀ (i : Instr) (v : VSlot) (s : State) (l : Nat → Loc), loneOf i = some v →
    let g := s.me
    let w := vBits g (vF g)
    let n := vReal g
    let d := vGroup g v.f.vd (vF g)
    let on := takes g v
    let op := v.f.mods.toNat / 2 ^ 14 % 8
    (v.op ∈ loadOps → canRun s v → memFits g v → allGo s v true false l →
      ∃ t, exec i s = .next t ∧ onlyGroups s t [d] ∧ regsKept g t.me ∧ t.me.v.masks = g.v.masks ∧ t.me.vflags = g.vflags ∧ tagged t d (vF g) ∧
        written s t v.f.vd w d.2 n on (loadedElem s l) ∧
        (v.op = .vgl → t.me.epoch = g.epoch + 1 ∧ ∀ k, on k = true → t.linkHeld s.core s.eng t.me.epoch.toNat (l k) = true)) ∧
    (v.op ∈ storeOps → canRun s v → memFits g v → allGo s v false true l →
      ∃ t, exec i s = .next t ∧ groupsKept s t [] ∧ regsKept g t.me ∧ t.me.v.masks = g.v.masks ∧ t.me.v.tags = g.v.tags ∧
        t.me.vflags = g.vflags ∧ storedAll s t (isUnit g v) l (eBytes g) (storeData s v)) ∧
    (v.op = .vsc → canRun s v → memFits g v → allGo s v false true l →
      let held (k : Nat) : Bool := s.linkHeld s.core s.eng g.epoch.toNat (l k)
      ∃ t, exec i s = .next t ∧ groupsKept s t [] ∧ regsKept g t.me ∧ t.me.v.tags = g.v.tags ∧ t.me.vflags = g.vflags ∧
        storedAll s t (fun k => on k = true ∧ held k = true) l (eBytes g) (storeData s v) ∧
        (∀ k, k < 8 → k ≠ v.f.vs3.toNat → ∀ j, maskOf t.me k j = maskOf g k j) ∧
        ∀ j, if j < n then
            if g.v.active v.f j then maskOf t.me v.f.vs3.toNat j = held j
            else maskOf t.me v.f.vs3.toNat j = maskOf g v.f.vs3.toNat j ∨ (g.v.vtype.getLsbD 10 = true ∧ maskOf t.me v.f.vs3.toNat j = true)
          else maskOf t.me v.f.vs3.toNat j = maskOf g v.f.vs3.toNat j) ∧
    (v.op = .vamo → isIn (vF g) = true → op ≤ 6 → canRun s v → memFits g v → allGo s v true true l →
      tgFmt (Tags.at_ g.v.tags v.f.vs3.toNat) = 0 ∨ tgFmt (Tags.at_ g.v.tags v.f.vs3.toNat) = vF g →
      let x := vGroup g v.f.vs2 (vTag g v.f.vs2)
      let c := vGroup g v.f.vs3 (vF g)
      inFile g c → apart c x ∨ c = x → apart d c ∨ d = c →
      ∃ t old new, exec i s = .next t ∧ groupsKept s t [d] ∧ regsKept g t.me ∧ t.me.v.masks = g.v.masks ∧ t.me.vflags = g.vflags ∧
        tagged t d (vF g) ∧ t.me.epoch = g.epoch + 1 ∧
        (∀ k, new k = vamoRule (vF g) w op (old k) (elemAt s s.core s.eng v.f.vs3 w k) (elemAt s s.core s.eng v.f.vd w k)) ∧
        chained s v l old new ∧ storedAll s t (fun k => on k = true) l (eBytes g) new ∧
        written s t v.f.vd w d.2 n on (fun k r => r = old k)) ∧
    (v.op = .vwait → (isIn (vF g) = true ∨ vF g = 15) → canRun s v → memFits g v → allGo s v true false l →
      (∀ k, on k = true → waitMet op w (numAt s (l k) (eBytes g)) (elemAt s s.core s.eng v.f.vd w k)) →
      ∃ t, exec i s = .next t ∧ onlyGroups s t [d] ∧ regsKept g t.me ∧ t.me.v.masks = g.v.masks ∧ t.me.vflags = g.vflags ∧ tagged t d (vF g) ∧
        written s t v.f.vd w d.2 n on (loadedElem s l)) ∧
    (v.op = .vmmFill ∨ v.op = .vmmCopy → canStart s v → (s.poolOf (s.recOf s.core).part).en = false →
      let sn := (g.rd v.f.vs3).toNat
      let src := g.rd v.f.vs2
      ∀ m : Nat → Loc, sn % 8 = 0 → sn ≤ 0x7fffff8 → (∀ k, k < sn / 8 → goesTo s v k (vAddr s v k) 8 false true (l k)) →
        (v.op = .vmmCopy → (src.toNat + sn ≤ (g.rd v.f.vs1).toNat ∨ (g.rd v.f.vs1).toNat + sn ≤ src.toNat) ∧
          ∀ k, k < sn / 8 → goesTo s v k (src + BitVec.ofNat 64 (8 * k)).toNat 8 true false (m k)) →
        (g.rd v.f.vs1).toNat % 8 = 0 → (v.op = .vmmCopy → src.toNat % 8 = 0) →
      ∃ t, exec i s = .next t ∧ groupsKept s t [] ∧ regsKept g t.me ∧ t.me.v.masks = g.v.masks ∧ t.me.v.tags = g.v.tags ∧
        t.me.vflags = g.vflags ∧
        storedAll s t (fun k => k < sn / 8) l 8 (fun k => if v.op = .vmmFill then src.toNat else numAt s (m k) 8))

/-- R388, R398: the end of a limit. Of a `vwait`, the lowest unsatisfied element takes the value of its latest read and commits; where it is
the last, the convoy completes with VSTART 0, and otherwise the end of the limit is noted for the next. Of a `vld.ipb` in feed mode whose
next element's bytes are missing, the trap 0x13 is entered with code 13 of port 7, VSTART at that element, and nothing is consumed. -/
def Obligations.limits_end : Prop :=
  ∀ (s : State) (c : CoreId) (e : EngId) (v : VSlot) (q : QConvoy) (f : Fly) (more : List QConvoy), limitOut s c e v q f more →
    let g := s.engAt c e
    let w := fmtBits (q.vtype.toNat % 16) (q.vtype.toNat / 2 ^ 11 % 4)
    (v.op = .vwait → f.hi = q.prog + 1 → g.v.active v.f q.prog = true → ∀ m, q.latest 0 q.prog = some m →
      ∃ t, exec (.vwaitExpiry c e) s = .next t ∧ elemAt t c e v.f.vd w q.prog = m % 2 ^ w ∧ regsKept g (t.engAt c e) ∧
        (t.engAt c e).tr = g.tr ∧ bytesKept s t ∧
        (q.prog + 1 < q.tot → ∃ p, (t.engAt c e).v.vq = p :: more ∧ p.prog = q.prog + 1 ∧ p.expired = true ∧ p.slots = [v]) ∧
        (q.prog + 1 = q.tot → more = [] → (t.engAt c e).v.vq = [] ∧ (t.engAt c e).v.vstart = 0)) ∧
    (v.op = .vldIpb → (q.blk.headD 0).toNat = 1 → q.staged = false → g.tr.trap = false → g.traps = [] → g.wait = .none → g.task = none →
      (s.instAt c).stopped = false → ((s.instAt c).feeds.toList.getD e.val []).length < w / 8 → f.lo < f.hi →
      ∃ t, exec (.feedLimitExpiry c e) s = .next t ∧ (t.engAt c e).tr.trap = true ∧ (t.engAt c e).tr.ecode = 0x13 ∧
        (t.engAt c e).tr.einfo = BitVec.ofNat 64 (7 + 13 * 256) ∧ (t.engAt c e).v.vstart = q.prog ∧ regsKept g (t.engAt c e) ∧
        (t.instAt c).feeds = (s.instAt c).feeds ∧ bytesKept s t)

/-! ### Steps of the device's other agents -/

namespace Sys2Proof.Claims

/-- Only one engine differs. -/
def onlyEng (s t : State) (c : CoreId) (e : EngId) : Prop := t = s.updEng c e (fun _ => t.engAt c e)
/-- Only one core differs. -/
def onlyCore (s t : State) (c : CoreId) : Prop := t = s.updCore c (fun _ => t.coreAt c)
/-- Only the hub's registers differ. -/
def onlyHub (s t : State) : Prop := t = { s with hub := t.hub }
/-- Only one port's state, and what the ports have put on their wires, differ. -/
def onlyPort (s t : State) (p : Fin 32) : Prop :=
  t = { s with ports := t.ports, wire := t.wire } ∧ ∀ q : Fin 32, q ≠ p → t.ports[q] = s.ports[q]

/-- The head of a thread's queue waits under a limit that has run out, with no group of it in flight. -/
def limitOver (s : State) (c : CoreId) (e : EngId) (op : VOp) (q : QConvoy) (rest : List QConvoy) : Prop :=
  (s.engAt c e).v.vq = q :: rest ∧ q.slots.any (fun v => v.op == op) = true ∧ (∃ x, q.expiry = some x ∧ x < s.clk) ∧
    q.fly = [] ∧ (s.instAt c).live = true ∧ (s.engAt c e).frozen = false

/-- Its head is then past its limit, and nothing else differs. -/
def limitNoted (s t : State) (c : CoreId) (e : EngId) (q : QConvoy) (rest : List QConvoy) : Prop :=
  onlyEng s t c e ∧ t.engAt c e = { s.engAt c e with v := { (s.engAt c e).v with vq := { q with expired := true } :: rest } }

/-- The threads of a core that run, and the sum of their weights (R101). -/
def runningOn (s : State) (c : CoreId) : List Nat := (List.range 4).filter (fun t => (s.engAt c (threadId t)).running)

/-- The abort of an engine is at a point, and nothing stops its next piece (R260). -/
def abortAt (s : State) (c : CoreId) (e : EngId) (k : Task) (a : Abort) (p : AbortAt) : Prop :=
  let g := s.engAt c e
  g.task = some k ∧ k.abort = some a ∧ a.at_ = p ∧ s.unitsRun c = true ∧ g.running = true ∧ g.frozen = false ∧ g.tr.trap = false ∧
    g.traps = [] ∧ quiet g ∧ (∀ r, g.held r = false)

/-- Every element of a running stream has landed, and if `ssusp` stops it the last by the ck in which `ssusp` took effect (R144). -/
abbrev streamDone (st : Strm) : Prop := st.err = 0 ∧ st.exp ≤ st.landed ∧ st.past = false

/-- Steps of a core's own agents: what each needs. -/
def coreStepPre (s : State) (i : Instr) : Prop :=
  match i with
  | .barTwaitExpiry c e => s.unitsLive c = true ∧ (s.engAt c e).uiWait = .none ∧ ∃ b rd lim, (s.engAt c e).wait = .twait b rd lim
  | .vwaitExpiry c e => ∃ q rest, limitOver s c e .vwait q rest
  | .feedLimitExpiry c e => ∃ q rest, limitOver s c e .vldIpb q rest
  | .shareWindow c => (s.coreAt c).share < s.clk / 256 ∧ (s.instAt c).live = true
  | .sopWaitComplete c e => ∃ w, (s.engAt c e).sopWait = some w ∧ w.on = []
  | .speculationAbort c e =>
    ∃ k a, abortAt s c e k a .aimed ∨ (abortAt s c e k a .popping ∧ (s.engAt c e).udepth = 0 ∧ (s.engAt c e).tr.uirq = false)
  | .trapEntry c e =>
    ∃ x, s.unitsRun c = true ∧ (s.engAt c e).frozen = false ∧ (s.engAt c e).traps = [x] ∧ (s.engAt c e).tr.trap = false ∧
      (s.engAt c e).v.vq = [] ∧ (s.engAt c e).wait = .none
  | .streamStart c p =>
    ∃ st rest, s.unitsRun c = true ∧ (s.portAt c p).frozen = false ∧ (s.portAt c p).run = none ∧
      (s.portAt c p).list = st :: rest ∧ st.susp = false ∧ (st.blk = [] → ∃ bs, s.readBlock c false st.off 128 = .ok bs)
  | .streamEnd c p =>
    ∃ st, (s.portAt c p).run = some st ∧ s.unitsRun c = true ∧ (s.portAt c p).frozen = false ∧
      (streamDone st ∨ (st.err = 0 ∧ ¬ streamDone st ∧ st.susp = true ∧ st.flight = []) ∨ (2 ≤ st.err ∧ st.flight = [])) ∧
      (s.engAt c callerId).tr.uirq = false ∧ (s.engAt c callerId).uispans = [] ∧ st.rd ≠ 0
  | .reelComplete c =>
    (s.tqAt c 1).ents = [] ∧
      ((∃ x f stl, s.tqHead c 0 = some x ∧ x.cmd = .mreel f stl ∧ x.begun = true ∧ f.gang.toNat + 1 ≤ x.done ∧ x.reports = [] ∧
          (s.coreAt c).gangArr = []) ∨
        ∃ d b, (s.tqAt c 0).ents = [] ∧ (s.coreAt c).gangArr = [((s.instAt d).launch, d, b)] ∧ (s.instAt d).live = true)
  | _ => False

/-- What each leaves. -/
def coreStepPost (s t : State) (i : Instr) : Prop :=
  match i with
  | .barTwaitExpiry c e =>
    onlyEng s t c e ∧ ∀ b rd lim, (s.engAt c e).wait = .twait b rd lim →
      if lim < s.clk then
        (t.engAt c e).wait = .none ∧ (t.engAt c e).pc = (s.engAt c e).pc + 4 ∧ regSet (s.engAt c e) (t.engAt c e) rd 1
      else t.engAt c e = s.engAt c e
  | .vwaitExpiry c e => ∀ q rest, limitOver s c e .vwait q rest → limitNoted s t c e q rest
  | .feedLimitExpiry c e => ∀ q rest, limitOver s c e .vldIpb q rest → limitNoted s t c e q rest
  | .shareWindow c =>
    onlyCore s t c ∧ (t.coreAt c).share = s.clk / 256 ∧
      ∀ k, k < 4 →
        if (s.engAt c (threadId k)).running = true then
          (t.engAt c (threadId k)).v = { (s.engAt c (threadId k)).v with
            used := 0, quota := Nat.max 1 (1024 * s.weight c k / ((runningOn s c).map (s.weight c)).sum) }
        else t.engAt c (threadId k) = s.engAt c (threadId k)
  | .sopWaitComplete c e => onlyEng s t c e ∧ t.engAt c e = { s.engAt c e with sopWait := none }
  | .speculationAbort c e =>
    (∀ k a, abortAt s c e k a .aimed →
      onlyEng s t c e ∧
        t.engAt c e = { s.engAt c e with
          sopSeq := none, task := some { k with abort := some { a with
            at_ := .popping, pc := (s.engAt c e).pc, seq := (s.engAt c e).seq, lr := (s.engAt c e).rd 31 } } }) ∧
      (∀ k a, abortAt s c e k a .popping → (s.engAt c e).udepth = 0 →
        (t.engAt c e).task = none ∧ (t.engAt c e).pc = k.path ∧ (t.engAt c e).nextExcl = (a.cause == 3 || a.cause == 4) ∧
          (∀ r, r ≠ 31 → r ≠ k.sd → (t.engAt c e).rd r = (s.engAt c e).rd r) ∧
          (k.sd ≠ 31 → (t.engAt c e).rd 31 = a.lr) ∧
          (k.sd ≠ 0 → ((t.engAt c e).rd k.sd).getLsbD 63 = true ∧ ((t.engAt c e).rd k.sd).toNat / 2 ^ 48 % 2 ^ 8 = a.cause % 256 ∧
            ((t.engAt c e).rd k.sd).toNat % 2 ^ 32 = a.hash % 2 ^ 32) ∧
          t.mem = s.mem ∧ ∀ d, (t.coreAt d).locks = (s.coreAt d).locks.filter (fun x => !x.mine (s.instAt c).launch c e))
  | .trapEntry c e =>
    ∀ x, (s.engAt c e).traps = [x] →
      onlyEng s t c e ∧ (t.engAt c e).traps = [] ∧ (t.engAt c e).tr.ecode = x.code ∧ (t.engAt c e).tr.einfo = x.info ∧
        (t.engAt c e).tr.epc = (if x.src = 4 then (s.engAt c e).pc else x.epc) &&& 0xffffffffffffc ∧ (t.engAt c e).tr.src = x.src ∧
        (t.engAt c e).tr.ppriv = (s.engAt c e).tr.priv ∧ (t.engAt c e).tr.priv = true ∧ (t.engAt c e).tr.trap = true ∧
        (t.engAt c e).tr.epcw = false ∧ (t.engAt c e).pc = wordN (fieldW (s.coreAt c).tbase 51 12 * 4096 + 0x40 * x.code) ∧
        regsKept (s.engAt c e) (t.engAt c e)
  | .streamStart c p =>
    ∀ st rest, (s.portAt c p).list = st :: rest →
      onlyInst s t c ∧ (t.portAt c p).list = rest ∧ (∀ q, q ≠ p → t.portAt c q = s.portAt c q) ∧
        (if st.blk = [] then
          ∀ bs, s.readBlock c false st.off 128 = .ok bs → (t.portAt c p).run = some (st.load p.val (s.poolOf (s.recOf c).part) bs)
        else (t.portAt c p).run = some st)
  | .streamEnd c p =>
    ∀ st, (s.portAt c p).run = some st →
      let state := if st.err ≠ 0 then 3 else if streamDone st then 1 else 2
      let w := state * 2 ^ 62 + st.err % 2 ^ 6 * 2 ^ 56 + st.exp % 2 ^ 24 * 2 ^ 32 + st.landed % 2 ^ 32
      let arrives : Prop := state ≠ 2 ∧ (fieldLE st.blk 7 1).testBit 2 = true
      (t.portAt c p).run = none ∧ ((t.engAt c callerId).rd st.rd).toNat = w ∧
        (state ≠ 2 → ((t.portAt c p).last.map (fun v => v.toNat)) = some w ∧ (t.portAt c p).list = (s.portAt c p).list) ∧
        (state = 2 → ∃ st', (t.portAt c p).list = st' :: (s.portAt c p).list ∧ st'.susp = true ∧ st'.landed = st.landed ∧
          st'.exp = st.exp ∧ st'.blk = st.blk ∧ st'.rd = st.rd) ∧
        (∀ b : BitVec 6, (arrives ∧ b = BitVec.ofNat 6 (fieldLE st.blk 104 1) →
            barAt (t.instAt c) b = { barAt (s.instAt c) b with arr := (barAt (s.instAt c) b).arr + 1 }) ∧
          (¬ (arrives ∧ b = BitVec.ofNat 6 (fieldLE st.blk 104 1)) → barAt (t.instAt c) b = barAt (s.instAt c) b)) ∧
        t.mem = s.mem
  | .reelComplete c =>
    (∀ x f stl, s.tqHead c 0 = some x → x.cmd = .mreel f stl →
      (t.tqAt c 0).ents = (s.tqAt c 0).ents.drop 1 ∧ (t.tqAt c 1).ents = [] ∧
        (t.engAt c callerId).vflags = (s.engAt c callerId).vflags ||| (wordN x.flags &&& 0x7f) ∧
        (∀ b, barAt (t.instAt c) b = if b = f.bar then
          { barAt (s.instAt c) b with arr := (barAt (s.instAt c) b).arr + 1 } else barAt (s.instAt c) b) ∧
        regsKept (s.engAt c callerId) (t.engAt c callerId) ∧ t.mem = s.mem) ∧
      ∀ l d b, (s.tqAt c 0).ents = [] → (s.coreAt c).gangArr = [(l, d, b)] →
        (t.coreAt c).gangArr = [] ∧
          (∀ x, barAt (t.instAt d) x = if x = b then
            { barAt (s.instAt d) x with arr := (barAt (s.instAt d) x).arr + 1 } else barAt (s.instAt d) x) ∧
          (∀ e, e ≠ c → e ≠ d → t.coreAt e = s.coreAt e) ∧ t.mem = s.mem
  | _ => False

end Sys2Proof.Claims

/-- R101, R110, R137, R141, R144, R173, R259, R260, R267, R388, R398, R441: the steps of a core's own agents that are due happen
as their rules say: a limit that runs out, a window of shares, a wait of `sop` that ends, the pieces of an abort, the entry of a
trap that waited, a stream's start and its end or suspension, and the end of a Reel command. -/
def Obligations.core_steps : Prop :=
  ∀ (i : Instr) (s : State), coreStepPre s i → ∃ t, exec i s = .next t ∧ coreStepPost s t i

/-! ### Routing, KV pools, instances and launches -/

namespace Sys2Proof.Claims

/-- A KV pool and a partition change alone. -/
def onlyPart (s t : State) (p : Fin 16) : Prop :=
  t = { s with parts := t.parts } ∧ ∀ q : Fin 16, q ≠ p → t.parts[q] = s.parts[q]

/-- A row on its way may go on at a die: none of what R226, R227 and R233 let hold it back does. -/
def rowDue (s : State) (n : Nat) (r : Row) (d : Fin 8) : Prop :=
  s.rows[n]? = some r ∧ s.dies[d].routeFrozen = false ∧ s.hub.halted = false

/-- A row that lands has every byte of it written. -/
def rowWritten (r : Row) : Prop := r.landing = true ∧ r.puts = [] ∧ r.xputs = []

/-- A row that has not begun to land, and has come whole. -/
def rowWhole (r : Row) : Prop := r.landing = false ∧ r.off = 0 ∧ r.data.length = r.total

/-- A token row finds its landing entry readable and read whole, as `old`: its generation takes rows, its place is one of them, its
instance is there, its slots are claimed in the window, no other row is judged against the entry, and the entry lies in memory outside the
headers of frames (R226, R227, R239). -/
def rowJudged (s : State) (n : Nat) (r : Row) (g : Gen) (ps : List (Nat × Nat × Nat)) (old : List Byte) : Prop :=
  let c := (s.launchAt r.launch).coreOf r.core
  let a := (g.base + 16 * (g.nrow * (r.word0.toNat / 2 ^ 24 % 2 ^ 12) + r.drow)) % 2 ^ 64
  r.landing = false ∧ s.taking r.gen = some g ∧ r.drow < g.nrow ∧
    (∃ parked, s.instFor r.launch c = some parked ∧ s.rowFits c parked r = true) ∧ s.entryTaken n g r = false ∧
    s.guarded (s.launchAt g.launch) a 16 = false ∧ s.engMap (s.launchAt g.launch) (permR + permW) a 16 = .ok ps ∧
    readSoFar r.got (unitsOf 8 16 a 16) = .ok old

/-- A place of a row's landing entry names an absent record (R226): a reserved bit of it is set, as R221 lays it out. -/
def reservedSet (w0 w1 : Nat) : Prop := w0 / 2 ^ 57 % 2 ^ 7 ≠ 0 ∨ w1 / 2 ^ 29 % 2 ^ 3 ≠ 0

/-- Steps of routing engines, Factors and pools: what each needs. -/
def routeStepPre (s : State) (i : Instr) : Prop :=
  match i with
  | .factorGateEntry d => s.dies[d].gate ≠ [] ∧ s.dies[d].factorFrozen = false ∧ s.hub.halted = false
  | .rowArrival n => ∃ r, rowDue s n r (dieOf ((s.launchAt r.launch).coreOf r.core)) ∧ r.combine = false
  | .combineRowArrival n => ∃ r d, rowDue s n r d ∧ r.combine = true ∧ r.die = d.val ∧ (rowWritten r ∨ rowWhole r)
  | .drainMarkerArrival p _ => s.ports[p].live = true
  | .kvPoolEnable p _ => s.hub.halted = false ∧ s.parts[p].pool.busy = false ∧ s.parts[p].pool.en = false
  | .kvPoolDisable p => s.hub.halted = false ∧ s.parts[p].pool.busy = false
  | .kvPoolDisableComplete p => s.parts[p].pool.busy = true ∧ s.parts[p].pool.cmds = [] ∧ s.refs p.val = []
  | _ => False

/-- What each leaves. -/
def routeStepPost (s t : State) (i : Instr) : Prop :=
  match i with
  | .factorGateEntry d =>
    ∀ g rest, s.dies[d].gate = g :: rest →
      let l := s.launchAt g.launch
      (∀ e : Fin 8, e ≠ d → t.dies[e] = s.dies[e]) ∧
        (g.served = true → g.puts = [] → t.dies[d].gate = rest ∧ t.mem = s.mem ∧
          (fieldLE g.bytes 24 2 < l.rec_.w * l.rec_.h → fieldLE g.bytes 26 1 < 64 →
            let c := l.coreOf (fieldLE g.bytes 24 2)
            (s.instAt c).live = true → (s.instAt c).launch = l.id →
            ∀ b : BitVec 6, barAt (t.instAt c) b =
              if fieldLE g.bytes 27 1 % 2 = 1 ∧ b.toNat = fieldLE g.bytes 26 1 then
                { barAt (s.instAt c) b with arr := (barAt (s.instAt c) b).arr + 1 } else barAt (s.instAt c) b)) ∧
        (∀ x xs, g.served = true → g.puts = x :: xs → s.putHit l x = true →
          t.dies[d] = { s.dies[d] with factorFrozen := true } ∧ t.mem = s.mem) ∧
        (∀ x got, g.served = false → g.bad l = false → s.factorNext g = .ok (.read x) → s.getG l g.got x = .ok got →
          t.dies[d].gate = { g with got := got } :: rest ∧ t.mem = s.mem) ∧
        (∀ x xs, g.served = true → g.puts = x :: xs → s.putHit l x = false →
          t.dies[d].gate = { g with puts := xs } :: rest ∧ t.mem = (s.writeG l.rec_.part false x.va x.pa x.bytes).mem) ∧
        (g.served = false → g.bad l = true →
          t.dies[d].gate = { g with served := true, puts := [] } :: rest ∧ t.dies[d].ferr = s.dies[d].ferr + 1 ∧ t.mem = s.mem) ∧
        (∀ x, g.served = false → g.bad l = false → s.factorNext g = .ok (.write x) →
          t.dies[d].gate = { g with served := true, puts := x } :: rest ∧ t.mem = s.mem) ∧
        (∀ code addr x, g.served = false → g.bad l = false → s.factorNext g = .error (.freeze code addr, x) →
          t.dies[d] = { s.dies[d] with factorFrozen := true } ∧ t.mem = s.mem)
  | .rowArrival n =>
    ∀ r, s.rows[n]? = some r →
      let d := dieOf ((s.launchAt r.launch).coreOf r.core)
      (rowWritten r → t.rows = removeAt s.rows n ∧ t.mem = s.mem) ∧
        (r.landing = false → s.taking r.gen = none →
          t.rows = removeAt s.rows n ∧ t.dies[d].stale = s.dies[d].stale + 1 ∧ t.mem = s.mem ∧ t.cores = s.cores) ∧
        (∀ g, r.landing = false → s.taking r.gen = some g → g.nrow ≤ r.drow →
          t.rows = removeAt s.rows n ∧ t.dies[d].refused = s.dies[d].refused + 1 ∧ t.mem = s.mem) ∧
        (∀ g ps old, rowJudged s n r g ps old →
          let w0 := fieldLE old 0 8
          let w1 := fieldLE old 8 8
          let present : Prop := w1.testBit 28 = true ∧ w1 % 2 ^ 16 = g.num
          let same : Prop := w0 % 2 ^ 24 = r.word0.toNat % 2 ^ 24 ∧ w0 / 2 ^ 36 % 2 ^ 3 = r.word0.toNat / 2 ^ 36 % 2 ^ 3 ∧
            w1 / 2 ^ 16 % 2 ^ 12 = r.spkg
          t.mem = s.mem ∧
            (reservedSet w0 w1 → t.rows = removeAt s.rows n ∧ t.dies[d].refused = s.dies[d].refused + 1) ∧
            (¬ reservedSet w0 w1 → present → same → t.rows = removeAt s.rows n ∧ t.dies[d].dup = s.dies[d].dup + 1) ∧
            (¬ reservedSet w0 w1 → present → ¬ same → t.rows = removeAt s.rows n ∧ t.dies[d].conflict = s.dies[d].conflict + 1) ∧
            (¬ reservedSet w0 w1 → ¬ present →
              t.rows = setAt s.rows n { r with
                landing := true, got := [], xputs := r.xUnits, puts := putsOf 8 ps (bytesLE 8 r.word0.toNat ++
                  bytesLE 8 (r.drow * 2 ^ 32 + 2 ^ 28 + r.spkg % 2 ^ 12 * 2 ^ 16 + g.num)) })) ∧
        (∀ g, r.landing = true → s.gen r.gen = some g → (r.puts ≠ [] ∨ r.xputs ≠ []) →
          (∀ p ∈ r.puts, s.putHit (s.launchAt g.launch) p = false) →
          (∃ i p, r.puts[i]? = some p ∧ t.rows = setAt s.rows n { r with puts := removeAt r.puts i } ∧
            t.mem = (s.writeG (s.launchAt g.launch).rec_.part false p.va p.pa p.bytes).mem) ∨
          ∃ i x, r.xputs[i]? = some x ∧ t.rows = setAt s.rows n { r with xputs := removeAt r.xputs i } ∧ t.mem = s.mem ∧
            ∀ parked, s.instFor r.launch ((s.launchAt r.launch).coreOf r.core) = some parked →
              let c := (s.launchAt r.launch).coreOf r.core
              let at_ := xPhys ((s.coreAt c).winX (s.launchAt r.launch).rec_.fg).1 x.1
              ∀ a, (t.coreAt c).bufX.read blkS a =
                if at_ ≤ a ∧ a < at_ + x.2.length then x.2.getD (a - at_) 0 else (s.coreAt c).bufX.read blkS a)
  | .combineRowArrival n =>
    ∀ r (d : Fin 8), s.rows[n]? = some r → r.die = d.val →
      t.launches = s.launches ∧ t.cores = s.cores ∧ t.mem = s.mem ∧
        (rowWritten r →
          t.rows = removeAt s.rows n ∧ t.gens = s.gens.map (fun x =>
            if x.num = r.gen then { x with bitmap := x.bitmap.map (fun m => m ||| 1 <<< r.drow) } else x)) ∧
        (rowWhole r → s.taking r.gen = none → t.rows = removeAt s.rows n ∧ t.dies[d].stale = s.dies[d].stale + 1) ∧
        (∀ g, rowWhole r → s.taking r.gen = some g → 64 * g.nrow ≤ r.drow →
          t.rows = removeAt s.rows n ∧ t.dies[d].refused = s.dies[d].refused + 1) ∧
        (∀ g ps, rowWhole r → s.taking r.gen = some g → r.drow < 64 * g.nrow →
          s.guarded (s.launchAt g.launch) ((g.base + r.total * r.drow) % 2 ^ 64) r.data.length = false →
          s.engMap (s.launchAt g.launch) permW ((g.base + r.total * r.drow) % 2 ^ 64) r.data.length = .ok ps →
          (ps.any (fun p => poisoned s.poison 32 p.2.1 p.2.2) = false →
            t.rows = setAt s.rows n { r with landing := true, puts := putsOf 4 ps r.data } ∧ t.gens = s.gens) ∧
          (ps.any (fun p => poisoned s.poison 32 p.2.1 p.2.2) = true →
            t.rows = removeAt s.rows n ∧ t.dies[d].refused = s.dies[d].refused + 1))
  | .drainMarkerArrival p gen =>
    t = { s with gens := t.gens, ports := t.ports } ∧ t.ports[p] = { s.ports[p] with lastRx := s.clk } ∧
      (∀ q : Fin 32, q ≠ p → t.ports[q] = s.ports[q]) ∧
      t.gens = s.gens.map (fun g => if g.num = gen.toNat ∧ g.st ≠ .free then
        { g with drained := g.drained ||| BitVec.ofNat 32 (2 ^ p.val) } else g)
  | .kvPoolEnable p v =>
    let bs := s.readPool (v &&& 0xfffffffffffc0).toNat
    let bad := match s.parts[p].pdef with | some d => poolBad (parsePool s.parts[p].pool bs) bs d | none => true
    onlyPart s t p ∧ t.parts[p].pool.addr = v &&& 0xfffffffffffc0 ∧ t.parts[p].pool.err = bad ∧ t.parts[p].pool.en = !bad
  | .kvPoolDisable p =>
    onlyPart s t p ∧ t.parts[p] = { s.parts[p] with pool := { s.parts[p].pool with busy := s.parts[p].pool.en } }
  | .kvPoolDisableComplete p =>
    onlyPart s t p ∧ t.parts[p] = { s.parts[p] with pool := { s.parts[p].pool with frames := [], en := false, busy := false } }
  | _ => False

/-- A command at the head of a tile queue faults: the queue stops, and the Caller, which has no trap open and none waiting, takes the trap at
the command, from queue `q` (R268). -/
def headTraps (s t : State) (c : CoreId) (q : Fin 2) (x : TqEnt) (code : Nat) (info : Word) : Prop :=
  let h := t.engAt c callerId
  ((t.instAt c).tqs[q]).stopped = true ∧ ((t.instAt c).tqs[q]).ents = ((s.instAt c).tqs[q]).ents ∧ h.tr.trap = true ∧
    h.tr.ecode = code ∧ h.tr.einfo = info ∧ h.tr.epc = x.pc &&& 0xffffffffffffc ∧ h.tr.src = 2 + q.val ∧ h.tr.priv = true ∧
    h.pc = wordN (fieldW (s.coreAt c).tbase 51 12 * 4096 + 0x40 * code) ∧ regsKept (s.engAt c callerId) h ∧ bytesKept s t

/-- The Caller of a core takes a trap at once (R107, R260, R267). -/
def callerFree (s : State) (c : CoreId) : Prop :=
  let g := s.engAt c callerId
  g.tr.trap = false ∧ g.traps = [] ∧ g.v.vq = [] ∧ g.wait = .none ∧ g.task = none ∧ (s.instAt c).stopped = false

/-- The head of a tile queue leaves it, and nothing else of the queue changes. -/
def headGone (s t : State) (c : CoreId) (q : Fin 2) : Prop :=
  ((t.instAt c).tqs[q]).ents = ((s.instAt c).tqs[q]).ents.drop 1

/-- The kind of a routing command: 0 `rdisp`, 1 `rcomb.part`, 2 `rcomb.fin`. -/
def routeKind : Instr → Option Nat
  | .rdisp _ _ _ => some 0
  | .rcombPart _ _ _ => some 1
  | .rcombFin _ _ _ => some 2
  | _ => none

/-- The oldest command of a die's routing engine, with no write of it waiting, may go on. -/
def routeOldest (s : State) (d : Fin 8) (k : RouteCmd) (rest : List RouteCmd) : Prop :=
  s.dies[d].route = k :: rest ∧ k.puts = [] ∧ s.dies[d].routeFrozen = false ∧ s.hub.halted = false ∧
    (∃ parked, s.instFor k.launch k.core = some parked)

/-- The writes of a list hold `v` in the 8 bytes at an address. -/
def puts8 (ps : List Put) (va v : Nat) : Prop := ∃ p ∈ ps, p.va = va ∧ p.bytes = bytesLE 8 v

/-- A running FP32 sum of weighted rows, in order, each step rounded once to nearest (R231); where a factor is infinite or NaN, or a step out
of range, nothing is said of the result. -/
def combineSum (fmt j : Nat) : List Landed → Nat → Prop
  | [], v => v = 0
  | x :: earlier, v =>
    ∃ u, combineSum fmt j earlier u ∧
      let b := if fmt = 12 then 2 else 4
      ∀ acc w e, floatVal 13 u = some acc → floatVal 12 x.weight = some w → floatVal fmt (fieldLE x.row (b * j) b) = some e →
        inRange 13 (acc + w * e) → isRounded 13 0 (acc + w * e) v

/-- EPC of an engine that stands at the points of R107: the header's address of a convoy that has begun, and else as it was. -/
def stopEpc (g : Eng) : Word :=
  match g.v.vq with
  | q :: _ => if q.start ≠ none then q.pc else g.tr.epc
  | [] => g.tr.epc

/-- A response stands in the ring at the place that the producer index names (R68, R69): the operation, the status and the
tag. -/
def responded (s t : State) (op status : Nat) (tag : BitVec 32) : Prop :=
  let bs := t.mbox.rings.readBytes (0x9000 + s.mbox.rsppi.toNat % 256 * 32) 32
  t.mbox.rsppi = s.mbox.rsppi + 1 ∧ fieldLE bs 0 1 = op % 256 ∧ fieldLE bs 1 1 = status % 256 ∧ fieldLE bs 4 4 = tag.toNat

/-- No response waits, and the ring has room for one (R68). -/
def ringFree (s : State) : Prop := s.mbox.waiting = [] ∧ s.mbox.rsppi.toNat < s.mbox.rspci.toNat + 256

/-- A launch record is malformed: field by field, as R73 reads the table of R72. -/
def recordMalformed (bs : List Byte) : Bool :=
  let n := fieldLE bs
  n 48 16 ≠ 0 || 8 ≤ n 38 2 || n 0 8 % 4 ≠ 0 || n 8 8 % 64 ≠ 0 || n 16 8 % 8 ≠ 0 || n 24 8 % 65536 ≠ 0 ||
    n 32 2 < 1 || 20 < n 32 2 || n 34 2 < 1 || 16 < n 34 2 || 15 < n 36 1 || (n 40 1 ≠ 0 && (n 40 1 < 10 || 18 < n 40 1)) ||
    15 < n 41 1 || 3 < n 42 1 || n 43 1 < 1 || (n 38 2 % 2 = 1 && n 42 1 ≠ 0)

/-- The status of a submission whose record is `bs`: the first refusal that applies, in the order 6, 2, 5, 4, 3, 1 (R76, R77, R79). -/
def submissionStatus (s : State) (b : Submission) (record : Option (List Byte)) : Nat :=
  match record with
  | none => 6
  | some bs =>
    let n := fieldLE bs
    let parent := (s.launchAt b.parent).rec_
    if recordMalformed bs = true then 2
    else if b.core ≠ none ∧ (n 24 8 ≠ 0 ∨ n 37 1 ≠ parent.part ∨ (8 ≤ parent.queue ∧ n 36 1 < 8)) then 5
    else
      match (if n 37 1 < 16 then s.partDef (n 37 1) else none) with
      | none => 4
      | some d =>
        if d.w < n 32 2 ∨ d.h < n 34 2 then 3
        else if 64 ≤ (s.launches.filter (fun l => l.st = .queued ∧ l.rec_.queue = n 36 1)).length then 1 else 0

/-- The completion word of a launch (R83). -/
def completionWord (l : Launch) : Nat :=
  l.status % 2 ^ 8 * 2 ^ 56 + l.ecode % 2 ^ 8 * 2 ^ 48 + l.core % 2 ^ 16 * 2 ^ 32 + l.rec_.tag.toNat

/-- Steps of instances and launches: what each needs. -/
def launchStepPre (s : State) (i : Instr) : Prop :=
  match i with
  | .preEmption c => (s.coreAt c).preReq = true ∧ s.haltedAt c = false ∧ (s.instAt c).live = true ∧ s.atStops c = true
  | .instanceStart c =>
    ∃ id, (s.coreAt c).next = some id ∧ (s.instAt c).live = false ∧ (s.coreAt c).retired = false ∧ s.haltedAt c = false ∧
      (s.launchAt id).stopping = false ∧ (s.launchAt id).st = .running
  | .instanceResume c =>
    (s.coreAt c).resumeReq = true ∧ (s.instAt c).live = false ∧ (s.coreAt c).retired = false ∧ s.haltedAt c = false ∧
      (s.coreAt c).parked.live = true ∧ (s.launchAt (s.coreAt c).parked.launch).stopping = false ∧ (s.coreAt c).imageOk = true
  | .instanceEnd c => s.instDone c = true ∧ (s.engAt c callerId).unreadError = false
  | .launchEnd id => s.mayEnd (s.launchAt id) = true
  | .launchPortSubmit p _ => s.hub.lbusy[p] = false ∧ s.hub.halted = false ∧ (p = 0 ∨ s.hub.boot = .running)
  | .submissionTake => s.subs ≠ [] ∧ s.hub.halted = false ∧ s.takenAt ≠ some s.clk ∧ s.round = 0 ∧ ∃ b ∈ s.subs, b.at_ < s.clk
  | .placementRound => 0 < s.round ∧ s.hub.halted = false
  | _ => False

/-- What each leaves. -/
def launchStepPost (s t : State) (i : Instr) : Prop :=
  match i with
  | .preEmption c =>
    (t.coreAt c).parked.live = true ∧ (t.coreAt c).parked.launch = (s.instAt c).launch ∧ t.instAt c = Inst.reset ∧
      (t.coreAt c).preReq = false ∧ t.mem = s.mem ∧ (∀ d, d ≠ c → t.coreAt d = s.coreAt d) ∧
      ∀ e : EngId, ((t.coreAt c).parked.engs[e]).regs = (s.engAt c e).regs ∧
        ((t.coreAt c).parked.engs[e]).preds = (s.engAt c e).preds ∧ ((t.coreAt c).parked.engs[e]).pc = (s.engAt c e).pc ∧
        ((t.coreAt c).parked.engs[e]).tr = { (s.engAt c e).tr with epc := stopEpc (s.engAt c e) }
  | .instanceStart c =>
    ∀ id, (s.coreAt c).next = some id →
      let l := s.launchAt id
      let g := t.engAt c callerId
      onlyCore s t c ∧ (t.coreAt c).next = none ∧ (t.instAt c).live = true ∧ (t.instAt c).launch = l.id ∧
        (t.instAt c).lx = c.val % 20 - l.ox ∧ (t.instAt c).ly = c.val / 20 - l.oy ∧
        g.running = true ∧ g.pc = l.rec_.entry ∧ g.preds = 0 ∧ g.tr.priv = false ∧
        (∀ r : Fin 32, g.regs[r] = if r.val = 1 then l.rec_.param else
          if r.val = 2 then wordN (c.val % 20 - l.ox + l.rec_.w * (c.val / 20 - l.oy)) else 0) ∧
        ∀ k, k < 4 → (t.engAt c (threadId k)).running = false
  | .instanceResume c =>
    (t.instAt c).live = true ∧ (t.instAt c).launch = (s.coreAt c).parked.launch ∧ (t.coreAt c).parked = Inst.reset ∧
      (t.coreAt c).resumeReq = false ∧ t.mem = s.mem ∧ (∀ d, d ≠ c → t.coreAt d = s.coreAt d) ∧
      ∀ e : EngId, (t.engAt c e).regs = ((s.coreAt c).parked.engs[e]).regs ∧
        (t.engAt c e).preds = ((s.coreAt c).parked.engs[e]).preds ∧ (t.engAt c e).pc = ((s.coreAt c).parked.engs[e]).pc ∧
        (t.engAt c e).tr = { ((s.coreAt c).parked.engs[e]).tr with epc := stopEpc ((s.coreAt c).parked.engs[e]) } ∧
        (t.engAt c e).frozen = (((s.coreAt c).parked.engs[e]).frozen && !((s.coreAt c).parked.engs[e]).thaw)
  | .instanceEnd c =>
    t.coreAt c = { s.coreAt c with
      inst := t.instAt c, tlb := (s.coreAt c).tlb.filter (fun x => x.parked), owner := if (s.coreAt c).owner = .running then .nobody else (s.coreAt c).owner } ∧
      onlyCore s t c ∧ t.instAt c = { s.instAt c with ending := true, engs := (t.instAt c).engs } ∧
      ∀ e : EngId,
        t.engAt c e = { s.engAt c e with v := { (s.engAt c e).v with tags := (t.engAt c e).v.tags } } ∧
          ∀ r : Fin 32, (t.engAt c e).v.tags[r] = (s.engAt c e).v.tags[r] &&& ~~~0x40000
  | .launchEnd id =>
    let l := s.launchAt id
    (t.launchAt id).st = .ended ∧ (∀ c, ¬ ((t.instAt c).live = true ∧ (t.instAt c).launch = id)) ∧
      (l.rec_.cmpl = 0 → t.mem = s.mem) ∧
      (∀ page pa, l.rec_.cmpl ≠ 0 → s.walkRoot l.rec_.part l.rec_.ptroot.toNat l.rec_.cmpl.toNat = .ok page →
        judgePage page l.rec_.cmpl.toNat permW = .ok pa → s.populated l.rec_.part pa 8 = true →
        (∀ k, k < 8 → (t.mem.read (pa + k)).toNat = completionWord l / 256 ^ k % 256) ∧
          ∀ a, a < pa ∨ pa + 8 ≤ a → t.mem.read a = s.mem.read a) ∧
      (l.by_ = .host → ringFree s → responded s t 1 0 l.reqTag ∧
        fieldLE (t.mbox.rings.readBytes (0x9000 + s.mbox.rsppi.toNat % 256 * 32) 32) 8 8 = completionWord l)
  | .launchPortSubmit p v =>
    ∃ b, t = { s with subs := s.subs ++ [b], hub := t.hub } ∧ b.port = some p ∧ b.core = none ∧ b.tag = none ∧
      b.addr = (v &&& 0xfffffffffffc0).toNat ∧ b.at_ = s.clk ∧ t.hub = { s.hub with lbusy := t.hub.lbusy } ∧
      ∀ q : Fin 16, t.hub.lbusy[q] = (s.hub.lbusy[q] || q == p)
  | .submissionTake =>
    ∃ b status, b ∈ s.subs ∧ (∀ x ∈ s.subs, b.at_ ≤ x.at_) ∧ t.subs = s.subs.erase b ∧ status = submissionStatus s b (s.subBytes b) ∧
      (if status = 0 then ∃ l, t.launches = s.launches ++ [l] ∧ l.id = s.nextId ∧ l.st = .queued ∧ t.nextId = s.nextId + 1 ∧
          t.round = s.round + 1
        else t.launches = s.launches) ∧
      (∀ p, b.port = some p → t.hub.lres[p] = status ∧ t.hub.lbusy[p] = false) ∧
      (∀ c, b.core = some c → (s.instAt c).live = true → (s.instAt c).launch = b.parent → (s.engAt c callerId).tr.uirq = false →
        (s.engAt c callerId).uispans = [] →
        ∀ r, (t.engAt c callerId).rd r = if r = b.rd ∧ r ≠ 0 then wordN status else (s.engAt c callerId).rd r) ∧
      (∀ tag, b.core = none → b.tag = some (.host, tag) → status ≠ 0 → ringFree s → responded s t 1 (16 + status) tag) ∧ t.mem = s.mem
  | .placementRound =>
    t.round = s.round - 1 ∧ t.mem = s.mem ∧
      ∀ l d o, s.launches = [l] → l.st = .queued → l.rec_.queue < 8 → s.partOpen l.rec_.part = some d →
        (candidates d l.rec_.w l.rec_.h).find? (fun o => (rectCores o l.rec_.w l.rec_.h).all (fun c => (s.coreAt c).free)) =
          some o →
        t.launches = [{ l with st := .running, ox := o.1, oy := o.2 }] ∧
          ∀ c, (t.coreAt c).next = if c ∈ rectCores o l.rec_.w l.rec_.h then some l.id else (s.coreAt c).next
  | _ => False

end Sys2Proof.Claims

/-- R24, R220, R226, R227, R229, R233 to R236, R239: a Factor goes on with its gate's oldest entry, reads its logits, writes its records,
arrives, counts an entry that is malformed, and freezes at a place without memory or at a header; a row that arrives is counted as stale,
refused, a duplicate or in conflict, or begins to land with its landing entry, goes on unit by unit, and leaves once it is written, a combine
row with its bit set; a drain marker is noted; and a pool is enabled, asked to stop, and stopped. That an unreadable descriptor is refused
(log 14), that rows land unit by unit (log 64) and that an entry with a reserved bit set is refused (log 90) are the model's choices. -/
def Obligations.routing_and_pool_steps : Prop :=
  ∀ (i : Instr) (s : State), routeStepPre s i → ∃ t, exec i s = .next t ∧ routeStepPost s t i

/-- R219, R222, R223, R225, R228, R229, R231, R427: the routing commands. At the head of its queue `rtpush` enters the gate queue of its
core's die; `rdisp` and `rcomb` are accepted with their block; `rgen.open` opens a free generation and `rgen.retire` makes an open one
retiring, and free once a marker has gone out and come in on every live port and every row has been judged; of any other
generation they fault with code 9. The record of a dispatch that is at turn is placed, its row sent, or dropped, its counts kept and
its record, inverse entry and dropped entry written; `rcomb.part` sends the rounded sum of a group; and a command that has ended writes its status
word and arrives. -/
def Obligations.routing_commands : Prop :=
  (∀ (s : State) (c : CoreId) (q : Fin 2) (x : TqEnt) (a : SReg) (b : Bool) (stl : Stl) (bs : List Byte), headIs s c q x →
    x.cmd = .rtpush a b stl → s.tqMay c x 15 false = true → s.readBlock c false x.a.toNat 32 = .ok bs →
    (s.dies[dieOf c].gate).length < 256 →
    ∃ t g, exec (.engineCommandCompletion (.tile c q)) s = .next t ∧ t.dies[dieOf c].gate = s.dies[dieOf c].gate ++ [g] ∧ g.bytes = bs ∧
      g.launch = (s.instAt c).launch ∧ g.core = c ∧ g.served = false ∧ headGone s t c q ∧ bytesKept s t) ∧
  (∀ (s : State) (c : CoreId) (q : Fin 2) (x : TqEnt) (kind : Nat) (bs : List Byte), headIs s c q x → routeKind x.cmd = some kind →
    s.readBlock c false x.a.toNat 128 = .ok bs → s.tqMay c x (fieldLE bs 68 1 % 16) false = true → (s.dies[dieOf c].route).length < 32 →
    ∃ t k, exec (.engineCommandCompletion (.tile c q)) s = .next t ∧ t.dies[dieOf c].route = s.dies[dieOf c].route ++ [k] ∧
      k.kind = kind ∧ k.blk = bs ∧ k.off = x.a.toNat ∧ k.core = c ∧ k.launch = (s.instAt c).launch ∧ k.stage = 0 ∧ k.r = 0 ∧ k.code = 0 ∧
      headGone s t c q ∧ bytesKept s t) ∧
  (∀ (s : State) (c : CoreId) (q : Fin 2) (x : TqEnt) (n a b : SReg) (w : Bool) (stl : Stl), headIs s c q x →
    x.cmd = .rgenOpen n a b w stl → s.tqMay c x 15 false = true →
    (s.taking x.c.toNat ≠ none → callerFree s c →
      ∃ t, exec (.engineCommandCompletion (.tile c q)) s = .next t ∧ headTraps s t c q x 0x13 0x900 ∧ t.gens = s.gens) ∧
    (s.taking x.c.toNat = none → ((s.gens.filter (fun g => g.num != x.c.toNat)).map (fun g =>
        if g.bitmap = none then 0 else 64 * g.nrow)).foldl (· + ·) 0 + 64 * x.a.toNat ≤ 2097152 →
      ∃ t g, exec (.engineCommandCompletion (.tile c q)) s = .next t ∧ headGone s t c q ∧ bytesKept s t ∧
        t.gens = g :: s.gens.filter (fun y => y.num != x.c.toNat) ∧ g.num = x.c.toNat ∧ g.st = .opened ∧ g.base = x.b.toNat ∧
        g.nrow = x.a.toNat ∧ g.launch = (s.instAt c).launch ∧ g.bitmap = some 0 ∧ g.drained = 0)) ∧
  (∀ (s : State) (c : CoreId) (q : Fin 2) (x : TqEnt) (a : SReg) (w : Bool) (stl : Stl), headIs s c q x →
    x.cmd = .rgenRetire a w stl → s.tqMay c x 15 false = true →
    (∀ g, x.begun = false → s.gen x.c.toNat = some g → g.st = .opened →
      ∃ t, exec (.engineCommandCompletion (.tile c q)) s = .next t ∧ t.gens = s.gens ∧ bytesKept s t ∧
        ((t.instAt c).tqs[q]).ents = { x with begun := true } :: ((s.instAt c).tqs[q]).ents.drop 1) ∧
    (x.begun = false → (∀ g, s.gen x.c.toNat = some g → g.st ≠ .opened) → callerFree s c →
      ∃ t, exec (.engineCommandCompletion (.tile c q)) s = .next t ∧ headTraps s t c q x 0x13 0x900 ∧ t.gens = s.gens) ∧
    (∀ g, x.begun = true → x.prog = 0 → s.gen x.c.toNat = some g → g.st = .opened →
      (∀ d : Fin 8, ∀ k ∈ s.dies[d].route, k.concerns x.c.toNat = false) → s.issuedOf c x.seq x.c.toNat = false →
      ∃ t, exec (.engineCommandCompletion (.tile c q)) s = .next t ∧
        t.gens = s.gens.map (fun y => if y.num = x.c.toNat then { y with st := .retiring } else y) ∧ bytesKept s t ∧
        ((t.instAt c).tqs[q]).ents = { x with prog := 1 } :: ((s.instAt c).tqs[q]).ents.drop 1) ∧
    (∀ g, x.begun = true → x.prog = 1 → s.gen x.c.toNat = some g → (∀ r ∈ s.rows, r.gen ≠ x.c.toNat) →
      (∀ p : Fin 32, s.ports[p].live = true → g.drained.getLsbD p.val = true ∧ g.marked.getLsbD p.val = true) →
      ∃ t, exec (.engineCommandCompletion (.tile c q)) s = .next t ∧ headGone s t c q ∧ bytesKept s t ∧
        ∀ y, t.gen x.c.toNat = some y → y.st = .free)) ∧
  (∀ (s : State) (d : Fin 8) (k : RouteCmd) (rest : List RouteCmd) (bs : List Byte) (mr mi md : List (Nat × Nat × Nat)),
    routeOldest s d k rest → k.kind = 0 → k.stage = 1 → k.r < fieldLE k.blk 0 4 →
    let l := s.launchAt k.launch
    let ra := (fieldLE k.blk 8 8 + 16 * k.r) % 2 ^ 64
    let ia := (fieldLE k.blk 48 8 + 8 * k.r) % 2 ^ 64
    let da := (fieldLE k.blk 40 8 + 8 + 8 * k.ndrop) % 2 ^ 64
    ra % 16 = 0 → ia % 8 = 0 → da % 8 = 0 → s.engMap l (permR + permW) ra 16 = .ok mr → s.engMap l permW ia 8 = .ok mi →
    s.engMap l permW da 8 = .ok md → k.readG 8 (fieldLE k.blk 8 8 + 16 * k.r) 16 = .ok bs →
    let w0 := fieldLE bs 0 8
    let w1 := fieldLE bs 8 8
    let e := w0 / 2 ^ 24 % 2 ^ 12
    let pe := k.table.getD e 0
    let ne := k.counts.getD e 0
    let factor : Prop := w0.testBit 39 = true ∧ w0.testBit 56 = false
    ¬ reservedSet w0 w1 → e < fieldLE k.blk 4 2 →
    (∀ data, ¬ factor → ne < pe / 2 ^ 44 % 2 ^ 12 → pe % 2 ^ 12 = s.hub.pkg.toNat → pe / 2 ^ 12 % 2 ^ 16 < l.rec_.w * l.rec_.h →
      let row := pe / 2 ^ 33 % 2 ^ 11 + ne
      let ch := fieldLE k.blk 64 1
      pe / 2 ^ 28 % 2 ^ 5 + ch * (row / 64) + ch ≤ 32 → (∃ parked, s.instFor l.id (l.coreOf (pe / 2 ^ 12 % 2 ^ 16)) = some parked) →
      k.readG 8 (fieldLE k.blk 16 8 + 256 * ch * (w0 % 2 ^ 24)) (256 * ch) = .ok data → fieldLE k.blk 24 8 = 0 →
      ∃ t k' r v0 v1, exec (.engineCommandCompletion (.route d)) s = .next t ∧ t.dies[d].route = k' :: rest ∧ k'.r = k.r + 1 ∧
        k'.counts = k.counts.set e (ne + 1) ∧ k'.ndrop = k.ndrop ∧ v0 < 2 ^ 64 ∧ v1 < 2 ^ 64 ∧
        (∀ i, i < 64 → v0.testBit i = (w0.testBit i && i != 39 && i != 56)) ∧ v1 / 2 ^ 32 = row ∧ v1 / 2 ^ 16 % 2 ^ 12 = pe % 2 ^ 12 ∧
        v1 % 2 ^ 16 = w1 % 2 ^ 16 ∧ puts8 k'.puts ra v0 ∧ puts8 k'.puts (ra + 8) v1 ∧ puts8 k'.puts ia v1 ∧
        t.rows = s.rows ++ [r] ∧ r.combine = false ∧ r.drow = row ∧ r.word0.toNat = v0 ∧ r.gen = fieldLE k.blk 6 2 ∧
        r.core = pe / 2 ^ 12 % 2 ^ 16 ∧ r.xbase = pe / 2 ^ 28 % 2 ^ 5 ∧ r.chunks = ch ∧ r.data = data ∧ bytesKept s t) ∧
    (factor ∨ pe / 2 ^ 44 % 2 ^ 12 ≤ ne →
      ∃ t k' v0 v1, exec (.engineCommandCompletion (.route d)) s = .next t ∧ t.dies[d].route = k' :: rest ∧ k'.r = k.r + 1 ∧
        (factor → k'.counts = k.counts) ∧ (¬ factor → k'.counts = k.counts.set e (ne + 1)) ∧ k'.ndrop = k.ndrop + 1 ∧ v0 < 2 ^ 64 ∧
        v1 < 2 ^ 64 ∧ v0.testBit 39 = true ∧ (v0.testBit 56 = true ↔ ¬ factor) ∧
        (∀ i, i < 64 → i ≠ 39 → i ≠ 56 → v0.testBit i = w0.testBit i) ∧ v1 / 2 ^ 32 = 2 ^ 32 - 1 ∧ v1 % 2 ^ 32 = w1 % 2 ^ 32 ∧
        puts8 k'.puts ra v0 ∧ puts8 k'.puts (ra + 8) v1 ∧ puts8 k'.puts da v0 ∧ puts8 k'.puts ia v1 ∧ t.rows = s.rows ∧ bytesKept s t)) ∧
  (∀ (s : State) (d : Fin 8) (k : RouteCmd) (rest : List RouteCmd) (tok : Nat), routeOldest s d k rest → k.kind = 1 → k.stage = 1 →
    fieldLE k.blk 0 4 ≤ k.r → k.ents ≠ [] → (∀ x ∈ k.ents, x.spkg = s.hub.pkg.toNat ∧ x.token = tok) →
    (k.ents.map (fun x => x.kslot)).Pairwise (· < ·) →
    ∃ t r, exec (.engineCommandCompletion (.route d)) s = .next t ∧ t.dies[d].route = { k with stage := 2 } :: rest ∧
      t.rows = s.rows ++ [r] ∧ r.combine = true ∧ r.gen = fieldLE k.blk 8 2 ∧
      r.drow = fieldLE k.blk 65 1 * tok + (k.ents.map (fun x => x.kslot)).headD 0 ∧ r.data.length = 4 * fieldLE k.blk 10 2 ∧ bytesKept s t ∧
      ∀ j, j < fieldLE k.blk 10 2 → combineSum (fieldLE k.blk 12 1) j k.ents.reverse (fieldLE r.data (4 * j) 4)) ∧
  ∀ (s : State) (d : Fin 8) (k : RouteCmd) (rest : List RouteCmd), routeOldest s d k rest → k.stage = 3 → s.rowsDone d.val = true →
    (s.instAt k.core).live = true → (s.instAt k.core).launch = k.launch → k.off + 128 ≤ ((s.coreAt k.core).winS (s.fgAt k.core)).2 →
    (s.launchAt k.launch).id = k.launch →
    ∃ t, exec (.engineCommandCompletion (.route d)) s = .next t ∧ t.dies[d].route = rest ∧ t.mem = s.mem ∧
      fieldLE ((t.coreAt k.core).bufS.readBytes blkS (((s.coreAt k.core).winS (s.fgAt k.core)).1 + k.off + 112) 8) 0 8 =
        ((if k.code = 0 then 1 else 3) * 2 ^ 62 + k.code % 2 ^ 6 * 2 ^ 56 + fieldLE k.blk 0 4 % 2 ^ 24 * 2 ^ 32 + k.r % 2 ^ 32) ∧
      ∀ b : BitVec 6, barAt (t.instAt k.core) b =
        if fieldLE k.blk 67 1 % 2 = 1 ∧ fieldLE k.blk 66 1 = b.toNat then
          { barAt (s.instAt k.core) b with arr := (barAt (s.instAt k.core) b).arr + 1 } else barAt (s.instAt k.core) b

namespace Sys2Proof.Claims

/-- A partition's allocators hold one command, of an instance that runs with its ordinary registers in place, none of them is frozen, and
nothing of the command waits to be written. -/
def oneCommand (s : State) (p : Fin 16) (k : KvCmd) : Prop :=
  s.parts[p].pool.cmds = [k] ∧ s.parts[p].pool.frozen = [] ∧ s.hub.halted = false ∧ k.puts = [] ∧ (s.instAt k.core).live = true ∧
    (s.instAt k.core).launch = k.launch ∧ (s.launchAt k.launch).rec_.part = p.val ∧ (s.engAt k.core callerId).tr.uirq = false ∧
    (s.engAt k.core callerId).uispans = []

/-- The command ends: the result word of R248 lands in its register, no other register changes, and the allocators hold it no longer. -/
def kvEnds (s t : State) (p : Fin 16) (k : KvCmd) (rd : SReg) (status aux count : Nat) : Prop :=
  t.parts[p].pool.cmds = [] ∧
    ∀ r, (t.engAt k.core callerId).rd r =
      if r = rd ∧ r ≠ 0 then wordN (status * 2 ^ 56 + aux % 2 ^ 16 * 2 ^ 16 + count % 2 ^ 16) else (s.engAt k.core callerId).rd r

/-- The entry at an address is at hand with value `w`, for the rights that a command needs of it. -/
def entryIs (s : State) (k : KvCmd) (need a : Nat) (ps : List (Nat × Nat × Nat)) (w : Nat) : Prop :=
  s.engMap (s.launchAt k.launch) need a 8 = .ok ps ∧ w = numLE (s.engGet ps)

/-- Where the pool's frames and their state stand as they stood. -/
def framesKept (s t : State) (p : Fin 16) : Prop := t.parts[p].pool.frames = s.parts[p].pool.frames

/-- The command has written its entry, and waits for the holders of references that were read from it (R242, R252). -/
def kvWaits (s t : State) (p : Fin 16) (k : KvCmd) (ps : List (Nat × Nat × Nat)) (v : Nat) (x : Option (Nat × Nat)) (res : Word) : Prop :=
  ∃ k', t.parts[p].pool.cmds = [k'] ∧ k'.waiting = true ∧ k'.frame = x ∧ k'.res = res ∧ k'.cmd = k.cmd ∧
    k'.hold = s.holders p.val (entryPa ps) ∧ t.mem = (s.engPut (s.launchAt k.launch) ps (bytesLE 8 v)).mem

end Sys2Proof.Claims

/-- R235, R247 to R252: the KV commands. At the head of its queue a command is answered with status 6 while its partition has no enabled
pool. An allocator then serves the one that it has accepted: `kvpin` and `kvunpin` count pins and refuse a full count, a zero count, an evicting
frame and an entry that names none; `kvfree` and `kvinv` write the entry and wait for its holders, and `kvfree` then frees the frame; `kvalloc`
takes the lowest free frame of the first slot from its cursor on that has one, writes its entry, and reports the cursor and the count;
`kvevict` passes over candidates that are not idle, takes the first that is, and reports its index or that there is none. -/
def Obligations.kv_commands : Prop :=
  (∀ (s : State) (c : CoreId) (q : Fin 2) (x : TqEnt), headIs s c q x → kvRd x.cmd ≠ 0 →
    ((s.poolOf (s.recOf c).part).en = false ∨ (s.poolOf (s.recOf c).part).busy = true) → (s.engAt c callerId).tr.uirq = false →
    (s.engAt c callerId).uispans = [] →
    ∃ t, exec (.engineCommandCompletion (.tile c q)) s = .next t ∧ headGone s t c q ∧ bytesKept s t ∧
      ∀ r, (t.engAt c callerId).rd r = if r = kvRd x.cmd then wordN (6 * 2 ^ 56) else (s.engAt c callerId).rd r) ∧
  (∀ (s : State) (p : Fin 16) (k : KvCmd) (rd a : SReg) (b : Bool) (stl : Stl) (pin : Bool) (ps : List (Nat × Nat × Nat)) (w : Nat),
    oneCommand s p k → k.waiting = false → k.cmd = (if pin then .kvpin rd a b stl else .kvunpin rd a b stl) →
    entryIs s k permR k.a.toNat ps w →
    (∀ i f y, s.parts[p].pool.entryKv w = .frame i f → s.parts[p].pool.frame i f = some y →
      let status := if pin = true ∧ y.evicting = true then 7 else if pin = true ∧ 255 ≤ y.pins then 3 else if pin = false ∧ y.pins = 0 then 4 else 0
      ∃ t, exec (.engineCommandCompletion (.alloc p)) s = .next t ∧ kvEnds s t p k rd status 0 0 ∧ t.mem = s.mem ∧
        (status ≠ 0 → framesKept s t p) ∧
        (status = 0 → t.parts[p].pool.frames = s.parts[p].pool.frames.map (fun z =>
          if z.slot = i ∧ z.num = f then { z with pins := if pin then z.pins + 1 else z.pins - 1 } else z))) ∧
    ((∀ i f, s.parts[p].pool.entryKv w ≠ .frame i f) →
      ∃ t, exec (.engineCommandCompletion (.alloc p)) s = .next t ∧ kvEnds s t p k rd 2 0 0 ∧ framesKept s t p ∧ t.mem = s.mem)) ∧
  (∀ (s : State) (p : Fin 16) (k : KvCmd) (rd a : SReg) (b : Bool) (stl : Stl) (ps : List (Nat × Nat × Nat)) (w i f : Nat) (y : Frame),
    oneCommand s p k → k.waiting = false → k.cmd = .kvfree rd a b stl → entryIs s k (permR + permW) k.a.toNat ps w →
    s.parts[p].pool.entryKv w = .frame i f → s.parts[p].pool.frame i f = some y →
    ∃ t, exec (.engineCommandCompletion (.alloc p)) s = .next t ∧
      if y.pins ≠ 0 then kvEnds s t p k rd 3 0 0 ∧ framesKept s t p ∧ t.mem = s.mem
      else if y.evicting = true then kvEnds s t p k rd 7 0 0 ∧ framesKept s t p ∧ t.mem = s.mem
      else kvWaits s t p k ps 0 (some (i, f)) 0) ∧
  (∀ (s : State) (p : Fin 16) (k : KvCmd) (rd a b : SReg) (q : Bool) (stl : Stl) (ps : List (Nat × Nat × Nat)) (w : Nat),
    oneCommand s p k → k.waiting = false → k.cmd = .kvinv rd a b q stl → entryIs s k permW k.a.toNat ps w →
    ∃ t, exec (.engineCommandCompletion (.alloc p)) s = .next t ∧
      if s.parts[p].pool.entryKv k.b.toNat = .bad ∨ ps = [] then kvEnds s t p k rd 2 0 0 ∧ t.mem = s.mem
      else kvWaits s t p k ps k.b.toNat k.frame 0) ∧
  (∀ (s : State) (p : Fin 16) (k : KvCmd), oneCommand s p k → k.waiting = true → k.hold = [] → k.src = [] →
    ∃ t, exec (.engineCommandCompletion (.alloc p)) s = .next t ∧ t.mem = s.mem ∧ t.parts[p].pool.cmds = [] ∧
      (kvRd k.cmd ≠ 0 → (t.engAt k.core callerId).rd (kvRd k.cmd) = k.res) ∧
      t.parts[p].pool.frames = match k.frame with
        | none => s.parts[p].pool.frames
        | some x => s.parts[p].pool.frames.filter (fun z => !(z.slot == x.1 && z.num == x.2))) ∧
  (∀ (s : State) (p : Fin 16) (k : KvCmd) (rd a b : SReg) (q : Bool) (stl : Stl), oneCommand s p k → k.waiting = false →
    k.cmd = .kvalloc rd a b q stl →
    let pool := s.parts[p].pool
    let cursor := k.b.toNat / 2 ^ 16 % 2 ^ 9 % pool.nch
    let used (i f : Nat) : Prop := ∃ z ∈ pool.frames, z.slot = i ∧ z.num = f
    let full (i : Nat) : Prop := pool.nfr ≤ (pool.frames.filter (fun z => z.slot == i)).length
    (k.b.toNat % 2 ^ 7 ≤ k.got →
      ∃ t, exec (.engineCommandCompletion (.alloc p)) s = .next t ∧
        kvEnds s t p k rd 0 ((cursor + k.got) % pool.nch) k.got ∧ framesKept s t p ∧ t.mem = s.mem) ∧
    (k.got < k.b.toNat % 2 ^ 7 → (∀ i, i < pool.nch → full i) →
      ∃ t, exec (.engineCommandCompletion (.alloc p)) s = .next t ∧
        kvEnds s t p k rd 5 ((cursor + k.got) % pool.nch) k.got ∧ framesKept s t p ∧ t.mem = s.mem) ∧
    (∀ j f fs pe, k.got < k.b.toNat % 2 ^ 7 → j < pool.nch →
      let i := (cursor + k.got + j) % pool.nch
      (∀ j', j' < j → full ((cursor + k.got + j') % pool.nch)) → ¬ full i → f < pool.nfr → ¬ used i f → (∀ f', f' < f → used i f') →
      s.engMap (s.launchAt k.launch) permW (pool.frameVa i f) (2 ^ pool.fshift) = .ok fs →
      s.engMap (s.launchAt k.launch) permW ((k.a.toNat + 8 * k.got) % 2 ^ 64) 8 = .ok pe → (k.a.toNat + 8 * k.got) % 8 = 0 →
      ∃ t k' z, exec (.engineCommandCompletion (.alloc p)) s = .next t ∧ t.parts[p].pool.cmds = [k'] ∧ k'.got = k.got + 1 ∧
        t.parts[p].pool.frames = pool.frames ++ [z] ∧ z.slot = i ∧ z.num = f ∧ z.pins = 0 ∧ z.evicting = false ∧ t.mem = s.mem ∧
        puts8 k'.puts ((k.a.toNat + 8 * k.got) % 2 ^ 64) (pool.frameVa i f + 1))) ∧
  ∀ (s : State) (p : Fin 16) (k : KvCmd) (rd a b : SReg) (q : Bool) (stl : Stl), oneCommand s p k → k.waiting = false →
    k.cmd = .kvevict rd a b q stl →
    (k.b.toNat ≤ k.got →
      ∃ t, exec (.engineCommandCompletion (.alloc p)) s = .next t ∧ kvEnds s t p k rd 1 0 0 ∧ framesKept s t p ∧ t.mem = s.mem) ∧
    (∀ ps w, k.got < k.b.toNat → entryIs s k (permR + permW) (fieldLE k.list (16 * k.got) 8) ps w →
      let idle (i f : Nat) : Prop := ∃ y, s.parts[p].pool.frame i f = some y ∧ y.pins = 0 ∧ y.evicting = false ∧
        ∀ r ∈ s.refs p.val, r.frame ≠ s.parts[p].pool.frameVa i f
      ((∀ i f, s.parts[p].pool.entryKv w = .frame i f → ¬ idle i f) →
        ∃ t, exec (.engineCommandCompletion (.alloc p)) s = .next t ∧ t.parts[p].pool.cmds = [{ k with got := k.got + 1 }] ∧
          framesKept s t p ∧ t.mem = s.mem) ∧
      ∀ i f src dst, s.parts[p].pool.entryKv w = .frame i f → idle i f →
        let spill := fieldLE k.list (16 * k.got + 8) 8 / 4096 * 4096
        s.engMap (s.launchAt k.launch) (permR + permRaw) (s.parts[p].pool.frameVa i f) (2 ^ s.parts[p].pool.fshift) = .ok src →
        s.engMap (s.launchAt k.launch) (permW + permRaw) spill (2 ^ s.parts[p].pool.fshift) = .ok dst →
        ∃ t, exec (.engineCommandCompletion (.alloc p)) s = .next t ∧
          (∃ k', t.parts[p].pool.cmds = [k'] ∧ k'.waiting = true ∧ k'.frame = some (i, f) ∧ k'.src = src ∧ k'.dst = dst ∧
            k'.res = wordN (k.got % 2 ^ 16 * 2 ^ 16)) ∧
          ∃ y, t.parts[p].pool.frame i f = some y ∧ y.evicting = true ∧ y.pins = 0)

/-- R75, R76, R77, R78, R81, R83, R87, R93, R107, R108, R153, R274: submission, acceptance with the status of the first refusal, placement,
start, parking, resumption and end of launches, with the completion word and its answer, and the end of their instances. That a
launch keeps its cores until it has ended (log 78) and that a submission is taken in a later ck (log 79) are the model's choices. -/
def Obligations.launch_steps : Prop :=
  ∀ (i : Instr) (s : State), launchStepPre s i → ∃ t, exec i s = .next t ∧ launchStepPost s t i

/-! ### Requests, repair, the hub's registers, links and boot -/

namespace Sys2Proof.Claims

/-- The host's next request of an operation is at hand, and its response finds room in the ring (R68, R70). -/
def asked (s : State) (op : Nat) (r : Request) (rest : List Request) : Prop :=
  s.runtime = true ∧ s.mbox.reqs = r :: rest ∧ r.op = op ∧ r.by_ = .host ∧ s.mbox.waiting = [] ∧
    s.mbox.rsppi.toNat < s.mbox.rspci.toNat + 256

/-- A launch has been told to end. -/
def stoppedBy (t : State) (id : Nat) : Prop := ∃ l ∈ t.launches, l.id = id ∧ l.stopping = true

/-- The repair register holds an operation, its target and its status, and is not busy (R60). -/
def repaired (t : State) (op : Nat) (target : BitVec 11) (status : Nat) : Prop :=
  t.hub.repOp = BitVec.ofNat 4 op ∧ t.hub.repTarget = target ∧ t.hub.repStatus = status ∧ t.hub.repBusy = false

/-- The notification queue takes a record where it has room, and counts it where it has none (R272). -/
def notified (s t : State) (kind : Nat) (addr : Word) : Prop :=
  if s.hub.notifs.length < 1024 then ∃ n, t.hub.notifs = s.hub.notifs ++ [n] ∧ n.kind = kind ∧ n.addr = addr
  else t.hub.notifs = s.hub.notifs ∧ t.hub.dropped = s.hub.dropped + 1

/-- The repair register takes a command: it is not busy, and the system cores run (R60, R282). -/
def repairFree (s : State) : Prop := s.hub.repBusy = false ∧ s.hub.halted = false

/-- Requests and repair: what each step needs. -/
def requestPre (s : State) (i : Instr) : Prop :=
  match i with
  | .mailboxPoll => s.runtime = true ∧ s.hub.mboxOn = true ∧ s.mbox.st = 1 ∧ s.mbox.waiting = [] ∧ s.mbox.reqs = [] ∧
      s.mbox.reqpi ≠ s.mbox.reqci
  | .submitLaunch => (∃ r rest, asked s 1 r rest) ∧ ∀ b ∈ s.subs, b.tag = none
  | .cancelLaunch => ∃ r rest, asked s 2 r rest
  | .attest _ => ∃ r rest, asked s 3 r rest
  | .configurationRecord _ => ∃ r rest, asked s 4 r rest
  | .runtimeImage _ => ∃ r rest, asked s 5 r rest
  | .responseRelease => s.hub.halted = false ∧ s.mbox.waiting ≠ [] ∧ s.mbox.rsppi.toNat < s.mbox.rspci.toNat + 256
  | .birotteRequest p => s.ports[p].reqs ≠ [] ∧ s.runtime = true ∧ s.mbox.reqs = [] ∧ s.mbox.waiting = []
  | .retireCore t => repairFree s ∧ t.toNat < 320
  | .retireLaneGroup t =>
    repairFree s ∧ t.toNat < 1280 ∧ (s.instAt (coreN (t.toNat / 4))).live = false ∧
      (s.coreAt (coreN (t.toNat / 4))).retired = false
  | .retireChannel t => repairFree s ∧ t.toNat < 384
  | .retirePort t => repairFree s ∧ t.toNat < 32
  | .resetPartition t => repairFree s ∧ t.toNat < 16 ∧ ∃ d, s.partDef t.toNat = some d
  | .reImagePartition t => repairFree s ∧ t.toNat < 16 ∧ ∃ d, s.partDef t.toNat = some d
  | .repairBadOperation op _ => repairFree s ∧ (op = 0 ∨ 7 ≤ op.toNat)
  | .pendingCoreRetirement c => (s.coreAt c).retirePend = true ∧ (s.instAt c).live = false
  | .partitionResetComplete p =>
    ∃ r d, s.parts[p].resetting = some r ∧ s.parts[p].pdef = some d ∧
      (∀ c ∈ d.cores, (s.instAt c).live = false ∧ (s.coreAt c).parked.live = false ∧ (s.coreAt c).next = none ∧
        (s.coreAt c).resumeReq = false) ∧
      ∀ q : Fin 32, d.ports.getLsbD q.val = true → ((s.ports[q]).cls[(6 : Fin 8)]).frames.find? (fun f => !f.sent) = none
  | _ => False

/-- A partition's reset begins: what uses it is told to end (R58). -/
def resetBegun (s t : State) (op : Nat) (target : BitVec 11) (reimage : Bool) : Prop :=
  t.hub.repOp = BitVec.ofNat 4 op ∧ t.hub.repTarget = target ∧ t.hub.repBusy = true ∧ t.mem = s.mem ∧
    (∀ p : Fin 16, p.val = target.toNat → t.parts[p].resetting = some reimage) ∧
    ∀ d l, s.partDef target.toNat = some d → l ∈ s.launches → (l.st = .running ∨ l.st = .parked) →
      (∃ c ∈ l.coreList, d.hasCore c = true) → stoppedBy t l.id

/-- What each leaves. -/
def requestPost (s t : State) (i : Instr) : Prop :=
  match i with
  | .mailboxPoll =>
    let bs := s.mbox.rings.readBytes (0x1000 + 128 * (s.mbox.reqci.toNat % 256)) 128
    t.mbox.reqci = s.mbox.reqci + 1 ∧ t.mem = s.mem ∧
      (if fieldLE bs 0 1 = 0 ∨ 5 < fieldLE bs 0 1 ∨ zeroBytes bs 1 3 = false ∨ zeroBytes bs 8 8 = false then
        t.mbox.reqs = [] ∧ (s.mbox.rsppi.toNat < s.mbox.rspci.toNat + 256 →
          responded s t (fieldLE bs 0 1) 2 (BitVec.ofNat 32 (fieldLE bs 4 4)))
      else t.mbox.reqs = [{ by_ := .host, bytes := bs }] ∧ t.mbox.rsppi = s.mbox.rsppi)
  | .submitLaunch =>
    ∀ r rest, asked s 1 r rest →
      t.mbox = s.mbox ∧ ∃ b, t.subs = s.subs ++ [b] ∧ b.recBytes = some (cut r.bytes 16 64) ∧ b.core = none ∧ b.port = none ∧
        b.tag = some (.host, r.tag)
  | .cancelLaunch =>
    ∀ r rest, asked s 2 r rest →
      t.mbox.reqs = rest ∧
        (s.cancelTarget .host (BitVec.ofNat 32 (fieldLE r.bytes 16 4)) = none → responded s t 2 1 r.tag ∧ t.launches = s.launches) ∧
        (∀ l, s.cancelTarget .host (BitVec.ofNat 32 (fieldLE r.bytes 16 4)) = some l → l.st ≠ .queued →
          responded s t 2 0 r.tag ∧ (t.launchAt l.id).stopping = true ∧ ∀ k, k ≠ l.id → t.launchAt k = s.launchAt k)
  | .attest written =>
    ∀ r rest, asked s 3 r rest →
      t.mbox.reqs = rest ∧ responded s t 3 (if written then 0 else 3) r.tag ∧ t.mem = s.mem ∧
        (if written then
          ∀ k, k < 32 → (t.hostMem.read (fieldLE r.bytes 48 8 + k)).toNat = fieldLE (cut r.bytes 16 32) k 1
        else t.hostMem = s.hostMem)
  | .configurationRecord read =>
    ∀ r rest, asked s 4 r rest →
      match s.hub.recNew with
      | some x => t.hub = { s.hub with record := some x, recNew := none } ∧ t.mbox.reqs = rest ∧ responded s t 4 0 r.tag
      | none =>
        let bs := s.hostMem.readBytes (fieldLE r.bytes 16 8) 1104
        if read = false then t.hub = s.hub ∧ t.mbox.reqs = rest ∧ responded s t 4 3 r.tag
        else if recordOk s.hub.record bs = true then t = { s with hub := { s.hub with recNew := some bs } }
        else t.hub = s.hub ∧ t.mbox.reqs = rest ∧ responded s t 4 4 r.tag
  | .runtimeImage read =>
    ∀ r rest, asked s 5 r rest →
      let img := s.hostMem.readBytes (fieldLE r.bytes 16 8) (fieldLE r.bytes 24 4)
      t.mbox.reqs = rest ∧
        if read = false ∨ 0x10000000 + 256 < fieldLE r.bytes 24 4 then t.hub = s.hub ∧ responded s t 5 3 r.tag
        else if imageOk s.hub.record 1 img = true then
          t.hub.selB = (!s.hub.selB) ∧ t.hub.boot = .step 4 ∧ t.hub.switchAt = some s.clk ∧ responded s t 5 0 r.tag
        else if imageOk s.hub.record 2 img = true then
          t.hub = { s.hub with rtNext := some img } ∧ responded s t 5 0 r.tag
        else t.hub = s.hub ∧ responded s t 5 5 r.tag
  | .responseRelease =>
    t.mbox.waiting = s.mbox.waiting.drop 1 ∧ t.mbox.rsppi = s.mbox.rsppi + 1 ∧ t.mem = s.mem ∧ t.mbox.reqs = s.mbox.reqs
  | .birotteRequest p =>
    ∀ n bs rest, s.ports[p].reqs = (n, bs) :: rest →
      t.ports[p].reqs = rest ∧ t.mem = s.mem ∧ t.launches = s.launches ∧
        (({ by_ := .pkg p n, bytes := bs } : Request).bad = false → t.mbox.reqs = [{ by_ := .pkg p n, bytes := bs }]) ∧
        (({ by_ := .pkg p n, bytes := bs } : Request).bad = true → t.mbox.reqs = [])
  | .retireCore n =>
    let c := coreN n.toNat
    if (s.coreAt c).retired = true then repaired t 1 n 0 ∧ t.cores = s.cores
    else if (s.instAt c).live = true then
      repaired t 1 n 1 ∧ (t.coreAt c).retirePend = true ∧ (t.coreAt c).retired = false
    else repaired t 1 n 0 ∧ (t.coreAt c).retired = true ∧ ((s.coreAt c).parked.live = true → s.launches.any (fun l =>
        l.id == (s.coreAt c).parked.launch) = true → stoppedBy t (s.coreAt c).parked.launch)
  | .retireLaneGroup n =>
    let c := coreN (n.toNat / 4)
    t.hub.repOp = 2 ∧ t.hub.repTarget = n ∧ t.hub.repBusy = false ∧
      (∀ g, (t.coreAt c).lanesOut.getLsbD g = ((s.coreAt c).lanesOut.getLsbD g || g == n.toNat % 4)) ∧
      ((t.coreAt c).lanesOut ≠ 0xf → t.hub.repStatus = 0 ∧ (t.coreAt c).retired = false)
  | .retireChannel n =>
    repaired t 3 n 0 ∧ t.launches = s.launches ∧ bytesKept s t ∧
      (∀ c e, t.engAt c e = { s.engAt c e with accs := (t.engAt c e).accs } ∧
        (t.engAt c e).accs.map (fun a => { a with loc := none }) = (s.engAt c e).accs.map (fun a => { a with loc := none })) ∧
      ∀ k, t.chanOut.getLsbD k = (s.chanOut.getLsbD k || k == n.toNat)
  | .retirePort n =>
    repaired t 4 n 0 ∧ ∀ p : Fin 32, if p.val = n.toNat then t.ports[p].retired = true ∧ t.ports[p].live = false
      else t.ports[p] = s.ports[p]
  | .resetPartition n => resetBegun s t 5 n false
  | .reImagePartition n => resetBegun s t 6 n true
  | .repairBadOperation op n =>
    onlyHub s t ∧ t.hub = { s.hub with repOp := op, repTarget := n, repBusy := false, repStatus := 3 }
  | .pendingCoreRetirement c => (t.coreAt c).retired = true ∧ (t.coreAt c).retirePend = false ∧ t.mem = s.mem
  | .partitionResetComplete p =>
    ∀ r d, s.parts[p].resetting = some r → s.parts[p].pdef = some d →
      t.parts[p].resetting = none ∧ t.hub.repBusy = false ∧ t.hub.repStatus = 0 ∧
        (∀ c, if d.hasCore c = true then
            (t.coreAt c).bufS = Buf.reset ∧ (t.coreAt c).bufX = Buf.reset ∧ (t.coreAt c).bufW = Buf.reset ∧
              (t.coreAt c).bufZ = Buf.reset ∧ (t.coreAt c).vrf = [] ∧ (t.coreAt c).halted = false
          else t.coreAt c = s.coreAt c) ∧
        (∀ q : Fin 32, if d.ports.getLsbD q.val = true then
            t.ports[q].live = false ∧ ∀ c : Fin 8, (t.ports[q].cls[c]).frames = [] ∧ (t.ports[q].cls[c]).credit = 0
          else t.ports[q] = s.ports[q]) ∧
        ∀ a, t.mem.read a = if r = true ∧ a / 2 ^ 33 < 384 ∧ d.chans.getLsbD (a / 2 ^ 33) = true then Config.blankByte
          else s.mem.read a
  | _ => False

/-- The hub's registers and the package's states: what each step needs. -/
def hubStepPre (s : State) (i : Instr) : Prop :=
  match i with
  | .healthWord _ => s.hub.halted = false
  | .firmwareUpdate _ => s.hub.boot = .running ∧ s.hub.halted = false
  | .healthTimeout => ∃ k, s.hub.switchAt = some k ∧ (s.hub.health ≠ 0 ∨ (s.hub.halted = false ∧ k + 10 * 850000000 ≤ s.clk))
  | .notificationPop => s.hub.halted = false
  | .unfreezeRegister m => s.hub.halted = false ∧ ∃ c e, m = engMaster c e
  | .splitApply c => (s.instAt c).live = false ∧ (s.coreAt c).parked.live = false ∧ (s.coreAt c).splitNew ≠ none
  | .trcWrite _ _ => s.hub.halted = false
  | .registerWrite a n _ => s.hub.halted = false ∧ ∃ c : CoreId, a = 0xf000001000000 + 0x1000 * c.val + 8 ∧ n = 8
  | .debugHalt => True
  | .debugResume => True
  | .powerEstimate _ => True
  | .thermalThrottleEnter d t => 105 ≤ t.toNat ∧ s.hub.hots[d] = false
  | .thermalThrottleLeave d t => t.toNat < 105 ∧ s.hub.hots[d] = true
  | .thermalHalt d t => 115 ≤ t.toNat ∧ ((s.hub.temps[d]).toNat < 115 ∨ ∃ c, (s.coreAt c).halted = false)
  | .powerFail _ => True
  | _ => False

/-- What each leaves. -/
def hubStepPost (s t : State) (i : Instr) : Prop :=
  match i with
  | .healthWord v => onlyHub s t ∧ t.hub = { s.hub with health := if v = 0 then s.hub.health else v }
  | .firmwareUpdate image =>
    let ok := imageOk s.hub.record 1 image
    t.mem = s.mem ∧ t.cores = s.cores ∧
      (if s.hub.selB then
        t.hub.slotA = some image ∧ t.hub.validA = ok ∧ t.hub.slotB = s.hub.slotB ∧ t.hub.validB = s.hub.validB
       else t.hub.slotB = some image ∧ t.hub.validB = ok ∧ t.hub.slotA = s.hub.slotA ∧ t.hub.validA = s.hub.validA) ∧
      (if ok = true then
        t.hub.selB = (!s.hub.selB) ∧ t.hub.prevSel = s.hub.selB ∧ t.hub.health = 0 ∧ t.hub.switchAt = some s.clk ∧ t.hub.boot = .step 4
       else t.hub.selB = s.hub.selB ∧ t.hub.boot = s.hub.boot ∧ onlyHub s t)
  | .healthTimeout =>
    if s.hub.health ≠ 0 then onlyHub s t ∧ t.hub = { s.hub with switchAt := none }
    else t.hub.selB = s.hub.prevSel ∧ t.hub.switchAt = none ∧ t.hub.boot = .step 4 ∧ t.mem = s.mem ∧ t.cores = s.cores
  | .notificationPop =>
    onlyHub s t ∧
      match s.hub.notifs with
      | [] => t.hub = { s.hub with popped := 0 }
      | n :: rest => t.hub.popped = n.addr ∧ t.hub.dropped = 0 ∧
          (if s.hub.dropped = 0 then t.hub.notifs = rest else ∃ o, t.hub.notifs = rest ++ [o] ∧ o.kind = 6)
  | .unfreezeRegister m =>
    ∀ c e, m = engMaster c e →
      if (s.engAt c e).frozen = true then t.hub.unfreezeRes = 0 ∧ t.engAt c e = { s.engAt c e with frozen := false }
      else t.engAt c e = s.engAt c e ∧ t.hub.unfreezeRes = if ((s.coreAt c).parked.engs[e]).frozen then 0 else 1
  | .splitApply c =>
    ∀ v, (s.coreAt c).splitNew = some v →
      onlyCore s t c ∧ t.coreAt c = { s.coreAt c with
        sfg := min (v.toNat / 2 ^ 24 % 2 ^ 6) 32, xfg := min (v.toNat / 2 ^ 16 % 2 ^ 6) 32,
        wfg := min (v.toNat / 2 ^ 8 % 2 ^ 7) 64, zfg := min (v.toNat % 2 ^ 7) 64, splitNew := none }
  | .trcWrite c v =>
    onlyCore s t c ∧ t.coreAt c = { s.coreAt c with trc := v &&& 0xc00fffffffffffff, trp := 0, trcFull := false }
  | .registerWrite a _ v =>
    ∀ c : CoreId, a = 0xf000001000000 + 0x1000 * c.val + 8 →
      onlyCore s t c ∧ t.coreAt c = { s.coreAt c with tbase := v &&& 0xffffffffff000 }
  | .debugHalt => onlyHub s t ∧ t.hub = { s.hub with halted := true }
  | .debugResume =>
    t = { s with hub := { s.hub with halted := false }, ports := t.ports, wire := t.wire } ∧
      ∀ (p : Fin 32) (c : Fin 8), t.ports[p] = { s.ports[p] with cls := t.ports[p].cls } ∧
        t.ports[p].cls[c] = { s.ports[p].cls[c] with grant := (t.ports[p].cls[c]).grant, grantAck := (t.ports[p].cls[c]).grantAck } ∧
        (s.ports[p].live = true → s.ports[p].frozen = false → (t.ports[p].cls[c]).grant = (s.ports[p].cls[c]).space)
  | .powerEstimate n => onlyHub s t ∧ t.hub = { s.hub with estimate := n }
  | .thermalThrottleEnter d k => onlyHub s t ∧ t.hub.hots[d] = true ∧ t.hub.temps[d] = k ∧ notified s t 7 (wordN (k.toNat + 256))
  | .thermalThrottleLeave d k => onlyHub s t ∧ t.hub.hots[d] = false ∧ t.hub.temps[d] = k ∧ notified s t 7 (wordN (k.toNat + 512))
  | .thermalHalt d k =>
    t.hub.temps[d] = k ∧ notified s t 7 (wordN (k.toNat + 768)) ∧ t.mem = s.mem ∧
      ∀ c, t.coreAt c = { s.coreAt c with halted := true }
  | .powerFail keepOld =>
    t.hub.record = (match s.hub.recNew with | some r => if keepOld then s.hub.record else some r | none => s.hub.record) ∧
      t.hub.recNew = none ∧ t.hub.boot = .step 1 ∧ t.hub.slotA = s.hub.slotA ∧ t.hub.slotB = s.hub.slotB ∧
      t.hub.selB = s.hub.selB ∧ t.launches = [] ∧ t.mem = State.reset.mem ∧ t.cores = State.reset.cores
  | _ => False

/-- A frame of a type that a port, up and not retired, can read (R30, R31). -/
def frameAt (s : State) (p : Fin 32) (ty : Nat) (bytes : List Byte) (f : FrameIn) : Prop :=
  s.ports[p].up = true ∧ s.ports[p].retired = false ∧ parseFrame (s.etype p) bytes = some f ∧ f.ty = ty

/-- The frames of a class after an acknowledgement: those sent and covered are gone (R32). -/
def unacked (k : TClass) (ack : BitVec 32) : List TxFrame := k.frames.filter (fun f => !f.sent || later f.seq ack)

/-- The numbers and beats of the frames that an acknowledgement covers. -/
def covered (k : TClass) (ack : BitVec 32) : List (BitVec 32 × Nat) :=
  (k.frames.filter (fun f => f.sent && !later f.seq ack)).map (fun f => (f.seq, f.payload.length / 64))

/-- The beats of the frames that a class has sent with a number later than another, acknowledged since or not (R33). -/
def beatsPast (k : TClass) (ack : BitVec 32) : Nat :=
  ((k.frames.filter (fun x => x.sent && later x.seq ack)).map (fun x => x.payload.length / 64)).sum +
    ((k.past.filter (fun x => later x.1 ack)).map (fun x => x.2)).sum

/-- Links: what each step needs. -/
def linkStepPre (s : State) (i : Instr) : Prop :=
  match i with
  | .portComeUp p =>
    s.ports[p].retired = false ∧ s.ports[p].live = false ∧ (∀ n, s.hub.boot ≠ .recovery n) ∧
      (s.ports[p].up = true ∨ s.hub.boot = .running ∨ s.hub.boot = .enrol ∨
        ((s.hub.boot = .step 5 ∨ ∃ data q, s.hub.boot = .fetch 2 data q) ∧ s.hub.trained ≤ p.val))
  | .dataFrameReceive p b => ∃ f, frameAt s p 0 b f
  | .acknowledgement p b => ∃ f, frameAt s p 1 b f
  | .creditGrant p b => ∃ f, frameAt s p 2 b f
  | .dataFrameSend p c =>
    s.ports[p].live = true ∧ s.ports[p].frozen = false ∧ s.hub.halted = false ∧
      ∃ f, (s.ports[p].cls[c]).frames.find? (fun f => !f.sent) = some f ∧ f.beats ≤ (s.ports[p].cls[c]).credit ∧
        ((s.ports[p].cls[c]).frames.filter (fun f => f.sent)).length < 2 ^ 20
  | .resendTimeout p c =>
    s.ports[p].live = true ∧ s.ports[p].frozen = false ∧ s.hub.halted = false ∧
      ∃ f rest, (s.ports[p].cls[c]).frames = f :: rest ∧ f.sent = true ∧ f.sentAt + 20 * 850 ≤ s.clk
  | .keepAlive p => s.ports[p].live = true ∧ s.ports[p].lastKa + 10 * 850 ≤ s.clk
  | .keepAliveReceipt p => s.ports[p].up = true ∧ s.ports[p].retired = false
  | .peerDown p => s.ports[p].live = true ∧ s.ports[p].lastRx + 80 * 850 ≤ s.clk
  | .ucieRetrain a b => ∃ e, edgeOf a b = some e
  | .ucieRetrainingEnd a b => ∃ e, edgeOf a b = some e
  | .ucieRetrainingFailure a b => ∃ e, edgeOf a b = some e ∧ e ∈ s.edges
  | .cxlSurpriseRemoval p => s.cxl[p] ≠ none
  | _ => False

/-- What each leaves. -/
def linkStepPost (s t : State) (i : Instr) : Prop :=
  match i with
  | .portComeUp p =>
    onlyPort { s with hub := t.hub } t p ∧ t.hub = { s.hub with trained := max s.hub.trained (p.val + 1) } ∧
      t.ports[p].live = true ∧ t.ports[p].lastRx = s.clk ∧ t.wire.length = s.wire.length + 8 ∧
      ∀ c : Fin 8, (t.ports[p].cls[c]).frames = [] ∧ (t.ports[p].cls[c]).rx = 0 ∧ (t.ports[p].cls[c]).tx = 0 ∧
        (t.ports[p].cls[c]).credit = 0
  | .dataFrameReceive p b =>
    ∀ f, frameAt s p 0 b f →
      t.ports[p].lastRx = s.clk ∧ t.mem = s.mem ∧ t.cores = s.cores ∧ (∀ q : Fin 32, q ≠ p → t.ports[q] = s.ports[q]) ∧
        if s.hub.halted = true ∨ s.ports[p].frozen = true then t.ports[p].cls = s.ports[p].cls ∧ t.wire = s.wire
        else if f.dpkg ≠ s.hub.pkg then
          t.ports[p].misdirected = s.ports[p].misdirected + 1 ∧ t.ports[p].cls = s.ports[p].cls ∧ t.wire = s.wire
        else
          (t.ports[p].cls[f.cls]).rx = (if f.seq = (s.ports[p].cls[f.cls]).rx then f.seq + 1 else (s.ports[p].cls[f.cls]).rx) ∧
            (t.ports[p].cls[f.cls]).frames = unacked s.ports[p].cls[f.cls] f.ack ∧ s.wire.length < t.wire.length ∧
            (f.seq ≠ (s.ports[p].cls[f.cls]).rx → t.wire.length = s.wire.length + 1) ∧
            (f.cls = 5 → t.wire.length = s.wire.length + 1 ∧
              t.rows.length = s.rows.length + if f.seq = (s.ports[p].cls[f.cls]).rx then 1 else 0)
  | .acknowledgement p b =>
    ∀ f, frameAt s p 1 b f →
      onlyPort s t p ∧ t.wire = s.wire ∧ t.ports[p] = { s.ports[p] with lastRx := s.clk, cls := t.ports[p].cls } ∧
        ∀ c : Fin 8, t.ports[p].cls[c] =
          if c = f.cls then { s.ports[p].cls[c] with
            frames := unacked s.ports[p].cls[c] f.ack, past := (s.ports[p].cls[c]).past ++ covered s.ports[p].cls[c] f.ack } else s.ports[p].cls[c]
  | .creditGrant p b =>
    ∀ f, frameAt s p 2 b f →
      onlyPort s t p ∧ t.wire = s.wire ∧ t.ports[p] = { s.ports[p] with lastRx := s.clk, cls := t.ports[p].cls } ∧
        (t.ports[p].cls[f.cls]).frames = unacked s.ports[p].cls[f.cls] f.ack ∧
        (t.ports[p].cls[f.cls]).credit = f.credit - beatsPast s.ports[p].cls[f.cls] f.ack ∧
        ∀ c : Fin 8, c ≠ f.cls → t.ports[p].cls[c] = s.ports[p].cls[c]
  | .dataFrameSend p c =>
    ∀ f, (s.ports[p].cls[c]).frames.find? (fun f => !f.sent) = some f →
      onlyPort s t p ∧ (t.ports[p].cls[c]).credit = (s.ports[p].cls[c]).credit - f.payload.length / 64 ∧
        t.wire.length = s.wire.length + 1 ∧ (∀ d : Fin 8, d ≠ c → t.ports[p].cls[d] = s.ports[p].cls[d]) ∧
        (t.ports[p].cls[c]).frames = (s.ports[p].cls[c]).frames.map (fun x =>
          if x.seq == f.seq then { x with sent := true, sentAt := s.clk } else x)
  | .resendTimeout p c =>
    onlyPort s t p ∧ t.wire.length = s.wire.length + ((s.ports[p].cls[c]).frames.filter (fun f => f.sent)).length ∧
      (t.ports[p].cls[c]).frames = (s.ports[p].cls[c]).frames.map (fun x => if x.sent then { x with sentAt := s.clk } else x)
  | .keepAlive p =>
    onlyPort s t p ∧ t.ports[p] = { s.ports[p] with lastKa := s.clk } ∧ t.wire.length = s.wire.length + 1
  | .keepAliveReceipt p =>
    onlyPort s t p ∧ t.ports[p].lastRx = s.clk ∧ 
      t.wire.length = s.wire.length + if s.hub.halted then (if s.ports[p].live then 9 else 1) else 0
  | .peerDown p =>
    t.ports[p].live = false ∧ t.ports[p].peerDown = true ∧ t.ports[p].retired = s.ports[p].retired ∧
      (∀ c : Fin 8, (t.ports[p].cls[c]).frames = []) ∧ (∀ q : Fin 32, q ≠ p → t.ports[q] = s.ports[q]) ∧ notified s t 4 0 ∧
      t.mem = s.mem
  | .ucieRetrain a b =>
    ∀ e, edgeOf a b = some e → t = { s with edges := t.edges } ∧ ∀ x, x ∈ t.edges ↔ x = e ∨ x ∈ s.edges
  | .ucieRetrainingEnd a b => ∀ e, edgeOf a b = some e → t = { s with edges := s.edges.erase e }
  | .ucieRetrainingFailure a b =>
    ∀ e, edgeOf a b = some e →
      t.edges = s.edges.erase e ∧ notified s t 5 0 ∧ t.mem = s.mem ∧
        ∀ l ∈ s.launches, (l.st = .running ∨ l.st = .parked) →
          (∃ c ∈ l.coreList, (dieOf c).val = e.1.val ∨ (dieOf c).val = e.2.val) → stoppedBy t l.id
  | .cxlSurpriseRemoval p =>
    t.cxl[p] = none ∧ (∀ q : Fin 8, q ≠ p → t.cxl[q] = s.cxl[q]) ∧ t.launches = s.launches ∧
      (∀ c, (t.coreAt c).bufS = (s.coreAt c).bufS ∧ (t.coreAt c).bufX = (s.coreAt c).bufX ∧ (t.coreAt c).bufW = (s.coreAt c).bufW ∧
        (t.coreAt c).bufZ = (s.coreAt c).bufZ ∧ (t.coreAt c).vrf = (s.coreAt c).vrf) ∧
      ∀ a, t.mem.read a = if 0x100000000000 + 2 ^ 41 * p.val ≤ a ∧ a < 0x100000000000 + 2 ^ 41 * (p.val + 1) then Config.blankByte
        else s.mem.read a
  | _ => False

/-- The lowest port that carries frames, if any (R51). -/
def lowestPort (s : State) (q : Fin 32) : Prop := s.ports[q].live = true ∧ ∀ x : Fin 32, x < q → s.ports[x].live = false

/-- A fetch of an image of a type has begun at the lowest port that carries frames; with none the boot stands as it stood (R51, R53). -/
def fetchBegun (s t : State) (ty : Nat) (stood : BootSt) : Prop :=
  (∀ q, lowestPort s q → t.hub.boot = .fetch ty [] q ∧ t.hub.fetchAt = s.clk) ∧
    ((∀ x : Fin 32, s.ports[x].live = false) → t.hub.boot = stood)

/-- The slot of a choice holds boot firmware that passes the check of R50 and is marked valid (R51, R63). -/
def slotGood (s : State) (b : Bool) : Bool :=
  (if b then s.hub.validB else s.hub.validA) &&
    match (if b then s.hub.slotB else s.hub.slotA) with | some img => imageOk s.hub.record 1 img | none => false

/-- Boot: what each step needs. -/
def bootStepPre (s : State) (i : Instr) : Prop :=
  match i with
  | .bootSequence =>
    s.hub.halted = false ∧
      ((∃ n, 1 ≤ n ∧ n ≤ 6 ∧ s.hub.boot = .step n) ∨
        (s.hub.recNew ≠ none ∧ ((∃ n, s.hub.boot = .recovery n) ∨ s.hub.boot = .enrol)))
  | .enrolmentReport => s.hub.halted = false ∧ s.hub.boot = .enrol ∧ s.hub.progressAt + 850000000 ≤ s.clk
  | .bootRequestRetry => s.hub.halted = false ∧ s.upPorts ≠ [] ∧ s.hub.progressAt + 1000 * 850 ≤ s.clk ∧ ∃ ty data p, s.hub.boot = .fetch ty data p
  | .bootFetchRetry =>
    s.hub.halted = false ∧ s.hub.fetchAt + 30 * 850000000 ≤ s.clk ∧ (s.hub.boot = .step 5 ∨ ∃ data p, s.hub.boot = .fetch 2 data p)
  | .imageData p =>
    s.hub.halted = false ∧ ∃ m rest ty data q, s.ports[p].boots = m :: rest ∧ bootBad m = false ∧ fieldLE m 4 1 = 2 ∧ s.hub.boot = .fetch ty data q
  | .recordOffer p =>
    s.hub.halted = false ∧ ∃ m rest n, s.ports[p].boots = m :: rest ∧ bootBad m = false ∧ fieldLE m 4 1 = 4 ∧ s.hub.boot = .recovery n
  | _ => False

/-- What each leaves. -/
def bootStepPost (s t : State) (i : Instr) : Prop :=
  t.mem = s.mem ∧ t.launches = s.launches ∧
  match i with
  | .bootSequence =>
    let r := s.hub.record.getD []
    (s.hub.boot = .step 1 → t.hub.boot =
      if s.hub.record = none ∨ zeroBytes r 400 512 = true then .enrol else if recordRoot 0 r = true then .step 2 else .recovery 1) ∧
      (s.hub.boot = .step 2 →
        match Config.pufSeed s.hub.helper s.hub.resets with
        | none => t.hub.boot = .recovery 2
        | some seed =>
          let pub := pubOf (deviceKey seed)
          if verifyP256 (cut r 976 64) pub (cut r 912 64) = true then
            t.hub.boot = .step 3 ∧ t.hub.devPriv = deviceKey seed ∧ t.hub.devPub = pub ∧ t.hub.ident = keyHash pub
          else t.hub.boot = .recovery 2) ∧
      (s.hub.boot = .step 3 →
        t.hub.boot = .step 4 ∧
          (∀ c : CoreId,
            let lanes := fieldLE r (184 + c.val / 2) 1 / 16 ^ (c.val % 2) % 16
            (∀ g, g < 4 → (t.coreAt c).lanesOut.getLsbD g = ((s.coreAt c).lanesOut.getLsbD g || lanes.testBit g)) ∧
              (t.coreAt c).retired = ((s.coreAt c).retired || (fieldLE r (144 + c.val / 8) 1).testBit (c.val % 8) || lanes == 15)) ∧
          (∀ p : Fin 32, t.ports[p].retired = (s.ports[p].retired || (fieldLE r (392 + p.val / 8) 1).testBit (p.val % 8))) ∧
          ∀ k, k < 384 → t.chanOut.getLsbD k = (s.chanOut.getLsbD k || (fieldLE r (344 + k / 8) 1).testBit (k % 8))) ∧
      (s.hub.boot = .step 4 →
        if slotGood s s.hub.selB = true ∨ slotGood s (!s.hub.selB) = true then t.hub.boot = .step 5 else fetchBegun s t 1 (.step 4)) ∧
      (s.hub.boot = .step 5 →
        match s.hub.rtNext with
        | some img => t.hub.boot = .step 6 ∧ t.hub.rtImage = some img ∧ t.hub.rtNext = none
        | none => fetchBegun s t 2 (.step 5)) ∧
      (s.hub.boot = .step 6 →
        if imageOk s.hub.record 2 (s.hub.rtImage.getD []) = true then t.hub.boot = .running ∧ t.mbox.st = 1
        else t.hub.boot = .step 5) ∧
      (∀ x, ((∃ n, s.hub.boot = .recovery n) ∨ s.hub.boot = .enrol) → s.hub.recNew = some x →
        t.hub.boot = .step 1 ∧ t.hub.record = some x ∧ t.hub.recNew = none)
  | .enrolmentReport =>
    t.hub = { s.hub with progressAt := s.clk } ∧ ∀ p : Fin 32,
      (t.ports[p].cls[(7 : Fin 8)]).frames.length =
        (s.ports[p].cls[(7 : Fin 8)]).frames.length + if s.ports[p].live = true then 1 else 0
  | .bootRequestRetry =>
    ∀ ty data p, s.hub.boot = .fetch ty data p →
      ∃ q, t.hub.boot = .fetch ty data q ∧ t.hub.progressAt = s.clk ∧ s.ports[q].live = true ∧
        (if p < q then ∀ x : Fin 32, p < x → x < q → s.ports[x].live = false
         else (∀ x : Fin 32, p < x → s.ports[x].live = false) ∧ ∀ x : Fin 32, x < q → s.ports[x].live = false)
  | .bootFetchRetry =>
    fetchBegun s t 2 (.step 5) ∧ t.hub.fetchAt = s.clk ∧ t.hub.trained = 0 ∧ ∀ p : Fin 32,
      (t.ports[p].cls[(7 : Fin 8)]).frames.length = (s.ports[p].cls[(7 : Fin 8)]).frames.length +
        if s.ports[p].live = true then (if ∀ x : Fin 32, x < p → s.ports[x].live = false then 2 else 1) else 0
  | .imageData p =>
    ∀ m rest ty data q, s.ports[p].boots = m :: rest → s.hub.boot = .fetch ty data q →
      t.ports[p].boots = rest ∧
        (if fieldLE m 5 1 ≠ ty ∨ fieldLE m 8 8 ≠ data.length then t.hub.boot = s.hub.boot
         else
          let all := data ++ cut m 64 (fieldLE m 16 4)
          all.length < 256 ∨ all.length < 256 + imageSize all → t.hub.boot = .fetch ty all q)
  | .recordOffer p =>
    ∀ m rest, s.ports[p].boots = m :: rest →
      t.ports[p].boots = rest ∧ t.hub.boot = s.hub.boot ∧
        t.hub.recNew = if recordRoot 0 (cut m 64 (fieldLE m 16 4)) = true then some (cut m 64 (fieldLE m 16 4)) else s.hub.recNew
  | _ => False

end Sys2Proof.Claims

/-- R47, R56, R58, R60, R62, R68 to R71, R84: requests of the host and of other packages are taken, answered and done, and so
are the repair register's operations. That an accepted record is written in two steps (log 34), that only the header's reserved bytes make a
request malformed (log 32), that a submission leaves its request standing until it is answered (log 33), and that an image that is
none is rejected with nothing written (log 104) are the model's choices. -/
def Obligations.request_steps : Prop :=
  ∀ (i : Instr) (s : State), requestPre s i → ∃ t, exec i s = .next t ∧ requestPost s t i

/-- R39, R40, R47, R63 to R66, R89, R272, R274, R282, R284: the hub's registers, firmware and its health, temperatures, halt and power. The
record of kind 6 that a pop appends (log 15), a power failure between the two steps of a record's write (log 34), and the values after it
that the spec does not give (log 11) are the model's choices. -/
def Obligations.hub_steps : Prop :=
  ∀ (i : Instr) (s : State), hubStepPre s i → ∃ t, exec i s = .next t ∧ hubStepPost s t i

/-- R17, R27, R31 to R35: ports come up, frames are received, acknowledged, sent and sent again, peers fall silent, and edges and CXL
devices come and go. Address 0 in the notification of a lost edge (log 83), ports that come up in any order in enrolment (log 87), and what a
removed CXL window reads as (log 1, log 28) are the model's choices. -/
def Obligations.link_steps : Prop :=
  ∀ (i : Instr) (s : State), linkStepPre s i → ∃ t, exec i s = .next t ∧ linkStepPost s t i

/-- R46, R51, R53, R54: the steps of boot with their failures, of enrolment and recovery, and of the fetch of an image. That step 1 takes 0
for the version before the stored record (log 80), that the boot starts again at step 1 after a record has been written in recovery or
enrolment (log 31), and that the 30 s retry also begins a fetch again that makes progress (log 99) are the model's choices. -/
def Obligations.boot_steps : Prop :=
  ∀ (i : Instr) (s : State), bootStepPre s i → ∃ t, exec i s = .next t ∧ bootStepPost s t i

/-! ### Encodings, the step, and the state at reset -/

namespace Sys2Proof.Claims

/-- Words written out field by field from the high bit, as R301 to R318 lay them out, and what they stand for. -/
def knownWords : List (List Word32 × Instr) :=
  [ -- R301, R307: the R form: major, rd, rs1, rs2, func8, STL
    ([0b000000#6 ++ 0b00001#5 ++ 0b00010#5 ++ 0b00011#5 ++ 0b00000000#8 ++ 0b000#3], .add 1 2 3 0),
    ([0b000000#6 ++ 0b00#2 ++ 0b101#3 ++ 0b00110#5 ++ 0b00111#5 ++ 0b00100010#8 ++ 0b001#3], .cmpLt 5 6 7 1),
    -- R301: the I form, an immediate of -1
    ([0b000001#6 ++ 0b11111#5 ++ 0b11110#5 ++ 0b1111111111111#13 ++ 0b000#3], .addi 31 30 0x1fff 0),
    -- R301: the M form: 8 bytes at s2 - 8 in S, class 3
    ([0b010000#6 ++ 0b00101#5 ++ 0b00010#5 ++ 0b0011#4 ++ 0b11#2 ++ 0b1#1 ++ 0b111111#6 ++ 0b000#3],
      .ld { r := 5, base := 2, cls := 3, width := 3, sp := true, imm := 0x3f } 0),
    -- R303: cas is major 0x16 with bit 25 clear; ord 4 is aq at .pkg
    ([0b010110#6 ++ 0b0#1 ++ 0b001#3 ++ 0b01001#5 ++ 0b010#3 ++ 0b10#2 ++ 0b0#1 ++ 0b1111#4 ++ 0b0100#4 ++ 0b000#3],
      .amoCas { rd := 1, base := 9, rs2 := 2, width := 2, sp := false, cls := 15, ord := 4 } 0),
    -- R301: the L form, one word back
    ([0b011000#6 ++ 0b11111111111111111111111#23 ++ 0b111#3], .br 0x7fffff 7),
    -- R306: bar.init of barrier 9 with scope 2; cr.wr of EPC; eret; tlbinv with ALL; nop
    ([0b100000#6 ++ 0b00000#5 ++ 0b00100#5 ++ 0b001001#6 ++ 0b000#3 ++ 0b10#2 ++ 0b00#2 ++ 0b000#3], .barInit 9 4 2 0),
    ([0b101000#6 ++ 0b00011#5 ++ 0b01#2 ++ 0b000000010001#12 ++ 0b0000#4 ++ 0b000#3], .crWr 3 0x11 0),
    ([0b101010#6 ++ 0b00000#5 ++ 0b00000#5 ++ 0b00000#5 ++ 0b00000001#8 ++ 0b000#3], .eret 0),
    ([0b101011#6 ++ 0b00000#5 ++ 0b00000#5 ++ 0b000000000000#12 ++ 0b1#1 ++ 0b000#3], .tlbinvAll 0),
    ([0xb0000000#32], .nop 0),
    -- R310: mzero of tile 63 on queue 1; R311: mma in fp8e4 with a barrier
    ([0b110000#6 ++ 0b00101#5 ++ 0b111111#6 ++ 0b1#1 ++ 0b00000000000#11 ++ 0b000#3], .mzero 63 true 0),
    ([0b110001#6 ++ 0b00111#5 ++ 0b0000000000#10 ++ 0b1001#4 ++ 0b0#1 ++ 0b1#1 ++ 0b0#1 ++ 0b0#1 ++ 0b000#3,
      0b000010#6 ++ 0b00011#5 ++ 0b000100#6 ++ 0b000000#6 ++ 0b00#2 ++ 0b1#1 ++ 0b000101#6],
      .mma { rb := 7, fmt := 9, q := false, aq := true, rl := false, z := 2, x := 3, w := 4, n1 := 0, gang := 0, arrive := true,
             bar := 5 } 0),
    -- R313, R314, R315, R316
    ([0b111000#6 ++ 0b00110#5 ++ 0b00111#5 ++ 0b101#3 ++ 0b1#1 ++ 0b000000000#9 ++ 0b000#3], .sstrm 6 7 5 true 0),
    ([0b111100#6 ++ 0b00001#5 ++ 0b00010#5 ++ 0b00011#5 ++ 0b0000100#7 ++ 0b0#1 ++ 0b000#3], .rgenOpen 1 2 3 false 0),
    ([0b111101#6 ++ 0b00001#5 ++ 0b00010#5 ++ 0b00011#5 ++ 0b100000#6 ++ 0b00#2 ++ 0b000#3], .sop 32 1 2 3 0),
    ([0b111110#6 ++ 0b00001#5 ++ 0b00010#5 ++ 0b1101#4 ++ 0b000#3 ++ 0b01#2 ++ 0b1#1 ++ 0b0#1 ++ 0b00#2 ++ 0b000#3],
      .vcfg { rd := 1, rs1 := 2, fmt := 13, blk := 0, grp := 1, ta := true, ma := false } 0),
    -- R317, R318: a header of two slots, a load and an add under mask 1: the low half of each slot word first
    ([0b111111#6 ++ 0b01#2 ++ 0b0100#4 ++ 0b0000#4 ++ 0b0000#4 ++ 0b0000#4 ++ 0b00000#5 ++ 0b000#3,
      0b0010#4 ++ 0b0#1 ++ 0b0#1 ++ 0b00#2 ++ 0b000000000000000000000000#24,
      0b01000000#8 ++ 0b00001#5 ++ 0b00010#5 ++ 0b00000#5 ++ 0b00000#5 ++ 0b000#3 ++ 0b0#1,
      0b0000#4 ++ 0b0#1 ++ 0b0#1 ++ 0b00#2 ++ 0b000000000000000000000000#24,
      0b00000000#8 ++ 0b00011#5 ++ 0b00001#5 ++ 0b00100#5 ++ 0b00000#5 ++ 0b001#3 ++ 0b0#1],
      .convoy [⟨.vld, { vd := 1, vs1 := 2, vs2 := 0, vs3 := 0, mask := 0, neg := false, cls := 2, aq := false, rl := false, form := 0,
                        mods := 0 }⟩,
               ⟨.vadd, { vd := 3, vs1 := 1, vs2 := 4, vs3 := 0, mask := 1, neg := false, cls := 0, aq := false, rl := false, form := 0,
                         mods := 0 }⟩] 0) ]

/-- Of a core, what the registers' tables and R89, R114, R266 and R280 to R286 give for reset: SPLIT is 8, 8, 16 and 16, and TBASE 0. -/
def coreReset (k : Core) : Prop :=
  k.inst.live = false ∧ k.parked.live = false ∧ k.retired = false ∧ k.halted = false ∧ k.errinj = 0 ∧
    k.sfg = 8 ∧ k.xfg = 8 ∧ k.wfg = 16 ∧ k.zfg = 16 ∧ k.splitNew = none ∧ k.tbase = 0 ∧ (∀ n : Fin 4, k.bp[n] = 0) ∧ (∀ n : Fin 2, k.wp[n] = 0) ∧ k.ssa = 0 ∧ k.ssn = 0 ∧ k.trc = 0

end Sys2Proof.Claims

/-- R301, R303, R306, R307, R310, R311, R313 to R318: words of each family, written out from their tables, decode to the instructions
that they stand for, and these encode to them. -/
def Obligations.known_words : Prop :=
  ∀ x ∈ knownWords, decode true (wordBytes x.1) = .ok (x.2, []) ∧ encode x.2 = x.1

/-- R297, R301 to R319: decoding the words of any well-formed instruction that has words of its own gives it back, with every
operand at every value, and leaves the bytes behind it. -/
def Obligations.decode_encode : Prop :=
  ∀ (i : Instr) (rest : List Byte), i.wf = true → encode i ≠ [] →
    decode true (wordBytes (encode i) ++ rest) = .ok (i, rest)

/-- R306, R320: what decodes is a well-formed instruction, and its words are exactly the bytes read: no reserved encoding
passes, and two words never stand for one instruction. -/
def Obligations.encode_decode : Prop :=
  ∀ (hdrOk : Bool) (bs rest : List Byte) (i : Instr), decode hdrOk bs = .ok (i, rest) →
    i.wf = true ∧ encode i ≠ [] ∧ bs = wordBytes (encode i) ++ rest

/-- R161, R320: a step in which an engine issues runs the instruction that its bytes decode to, on the state that its fetch leaves,
with the status words that it reads marked as read; and a step of another agent runs that agent's row. -/
def Obligations.step_runs_the_decoded_instruction : Prop :=
  (∀ (s : State) (c : CoreId) (e : EngId) (more : List Move) (i : Instr) (bs rest : List Byte),
    let t := ({ s with agenda := more } : State).select c e
    s.agenda = .issue c e :: more → ({ s with agenda := more } : State).mayIssue c e = true → ∀ u, t.fetchInstr = .ok (bs, u) →
    let reads := instrReads u.me.v.stripd i
    decode (u.me.pc.toNat % 8 == 4) bs = .ok (i, rest) → u.breakpoint = none → u.headerFault bs = none → u.engineFault i = none →
    u.accessFault i = none → (∀ r ∈ reads ++ instrWrites u.me.v.stripd i, r < 32 → u.me.held (BitVec.ofNat 5 r) = false) →
    u.me.early u.clk (reads ++ instrPeeks i) = none → u.me.badStatus reads = none →
    step s = exec i (u.updMe (fun g => g.markRead reads))) ∧
  ∀ (s : State) (more : List Move) (i : Instr), s.agenda = .ev i :: more → step s = exec i { s with agenda := more }

/-- Every step keeps main memory and the PCIe host's memory in canonical form and the notification queue within its 1,024
records (R64). -/
def Obligations.step_keeps_invariant : Prop := ∀ s t : State, s.Inv → step s = .next t → t.Inv

/-- The state at reset meets the invariant. -/
def Obligations.reset_meets_invariant : Prop := State.reset.Inv

/-- R29, R51, R55, R60, R66, R75, R89, R266, R272, R280 to R284: what reset leaves: boot at its first step, zero measurements, the EtherTypes,
the health word, the repair register and the launch ports zero, no notification, no launch, every core idle with SPLIT 8, 8, 16, 16, TBASE 0
and its debug registers zero. (The values of log 1, log 10 and log 11 are not part of this.) -/
def Obligations.reset_values : Prop :=
  let s := State.reset
  s.hub.boot = .step 1 ∧ (∀ k : Fin 4, s.hub.meas[k] = List.replicate 32 0) ∧ (∀ h : Fin 2, s.hub.etypes[h] = 0x88b5) ∧
    s.hub.health = 0 ∧ s.hub.repOp = 0 ∧ s.hub.repBusy = false ∧ s.hub.repStatus = 0 ∧ s.hub.repTarget = 0 ∧
    s.hub.notifs = [] ∧ s.hub.dropped = 0 ∧ (∀ p : Fin 16, s.hub.lres[p] = 0 ∧ s.hub.lbusy[p] = false) ∧ s.launches = [] ∧
    ∀ c, coreReset (s.coreAt c)
end

