-- ==== Sys2Proof/Laws/Memory.lean ====
section
/-! SUPPORT. Memory in its canonical form: what a read gives after a write, and that every operation keeps the form. -/

namespace Sys2Proof.Machine

open Sys2Proof

/-! ### The form -/

/-- A list in the form from a bound is in the form from every lower one. -/
theorem Memory.wfFrom_mono {lo lo' : Nat} (h : lo' ≤ lo) : ∀ {m : Memory}, Memory.wfFrom lo m = true → Memory.wfFrom lo' m = true
  | [], _ => rfl
  | (a, v) :: rest, hm => by
    simp only [Memory.wfFrom, Bool.and_eq_true, decide_eq_true_eq] at hm ⊢
    exact ⟨⟨by omega, hm.1.2⟩, hm.2⟩

/-- Dropping the head of a memory in form leaves a memory in form. -/
theorem Memory.wf_tail {c : Nat × Byte} {m : Memory} (h : Memory.wf (c :: m) = true) : Memory.wf m = true := by
  obtain ⟨a, v⟩ := c
  simp only [Memory.wf, Memory.wfFrom, Bool.and_eq_true] at h
  exact Memory.wfFrom_mono (Nat.zero_le _) h.2

/-! ### One byte -/

/-- A memory with some entries left out is in form. -/
theorem Memory.wfFrom_filter {p : Nat × Byte → Bool} : ∀ {m : Memory} {lo : Nat}, Memory.wfFrom lo m = true →
    Memory.wfFrom lo (m.filter p) = true
  | [], _, _ => rfl
  | (a, v) :: rest, lo, h => by
    simp only [Memory.wfFrom, Bool.and_eq_true, decide_eq_true_eq] at h
    simp only [List.filter]
    split
    · simp only [Memory.wfFrom, Bool.and_eq_true, decide_eq_true_eq]
      exact ⟨h.1, Memory.wfFrom_filter h.2⟩
    · exact Memory.wfFrom_mono (by omega) (Memory.wfFrom_filter h.2)

/-- Listing a byte that is not blank keeps the form from every bound that it does not pass. -/
theorem Memory.wfFrom_insert {a : Nat} {v : Byte} (hv : v ≠ Config.blankByte) : ∀ {m : Memory} {lo : Nat},
    Memory.wfFrom lo m = true → lo ≤ a → Memory.wfFrom lo (Memory.insert m a v) = true
  | [], lo, _, h => by simp [Memory.insert, Memory.wfFrom, hv, h]
  | (b, u) :: rest, lo, hm, h => by
    simp only [Memory.wfFrom, Bool.and_eq_true, decide_eq_true_eq, bne_iff_ne] at hm
    unfold Memory.insert
    split
    · simp only [Memory.wfFrom, Bool.and_eq_true, decide_eq_true_eq, bne_iff_ne]
      exact ⟨⟨h, hv⟩, ⟨by omega, hm.1.2⟩, hm.2⟩
    · split
      · subst a
        simp only [Memory.wfFrom, Bool.and_eq_true, decide_eq_true_eq, bne_iff_ne]
        exact ⟨⟨h, hv⟩, hm.2⟩
      · simp only [Memory.wfFrom, Bool.and_eq_true, decide_eq_true_eq, bne_iff_ne]
        exact ⟨hm.1, Memory.wfFrom_insert hv hm.2 (by omega)⟩

/-- A write keeps the form. -/
@[simp] theorem Memory.wf_write {m : Memory} {a : Nat} {v : Byte} (h : m.wf = true) : (m.write a v).wf = true := by
  unfold Memory.write
  split
  · exact Memory.wfFrom_filter h
  · exact Memory.wfFrom_insert ‹_› h (Nat.zero_le _)

/-- Leaving out the entries of other addresses changes no read. -/
theorem Memory.read_filter {p : Nat × Byte → Bool} {x : Nat} (hp : ∀ v, p (x, v) = true) :
    ∀ m : Memory, Memory.read (m.filter p) x = Memory.read m x
  | [] => rfl
  | (b, u) :: rest => by
    simp only [List.filter]
    by_cases hb : b = x
    · subst b; simp [hp u, Memory.read]
    · split <;> simp [Memory.read, hb, Memory.read_filter hp rest]

/-- Where every entry of an address is left out, it reads blank. -/
theorem Memory.read_filter_out {p : Nat × Byte → Bool} {x : Nat} (hp : ∀ v, p (x, v) = false) :
    ∀ m : Memory, Memory.read (m.filter p) x = Config.blankByte
  | [] => rfl
  | (b, u) :: rest => by
    simp only [List.filter]
    by_cases hb : b = x
    · subst b; simp [hp u, Memory.read_filter_out hp rest]
    · split <;> simp [Memory.read, hb, Memory.read_filter_out hp rest]

/-- What is listed is read. -/
theorem Memory.read_insert {a x : Nat} {v : Byte} : ∀ m : Memory,
    Memory.read (Memory.insert m a v) x = if x = a then v else Memory.read m x
  | [] => by simp [Memory.insert, Memory.read, eq_comm]
  | (b, u) :: rest => by
    unfold Memory.insert
    split
    · simp [Memory.read, eq_comm]
    · split
      · subst a
        by_cases h : x = b <;> simp [Memory.read, h, Ne.symm]
      · simp only [Memory.read, Memory.read_insert rest]
        by_cases h : b = x
        · subst x; simp [show b ≠ a by omega]
        · simp [h]

/-- The byte written is read back, and every other byte is as before. -/
theorem Memory.read_write {m : Memory} {a x : Nat} {v : Byte} :
    Memory.read (Memory.write m a v) x = if x = a then v else Memory.read m x := by
  unfold Memory.write
  split
  · by_cases h : x = a
    · subst x v; simp [Memory.read_filter_out]
    · simp [h, Memory.read_filter]
  · exact Memory.read_insert m

/-- The byte written is read back. -/
theorem Memory.read_write_same {m : Memory} {a : Nat} {v : Byte} : Memory.read (Memory.write m a v) a = v := by
  simp [Memory.read_write]

/-- Every other byte is as before. -/
theorem Memory.read_write_ne {m : Memory} {a x : Nat} {v : Byte} (hx : x ≠ a) :
    Memory.read (Memory.write m a v) x = Memory.read m x := by
  simp [Memory.read_write, hx]

/-! ### Many bytes -/

/-- Writing bytes keeps the form. -/
@[simp] theorem Memory.wf_writeBytes : ∀ {bs : List Byte} {m : Memory} {a : Nat}, m.wf = true → (m.writeBytes a bs).wf = true
  | [], _, _, h => h
  | _ :: bs, _, _, h => Memory.wf_writeBytes (bs := bs) (Memory.wf_write h)

/-- A byte outside what is written is as before. -/
theorem Memory.read_writeBytes_out : ∀ {bs : List Byte} {m : Memory} {a x : Nat}, (x < a ∨ a + bs.length ≤ x) →
    Memory.read (Memory.writeBytes m a bs) x = Memory.read m x
  | [], _, _, _, _ => rfl
  | b :: bs, m, a, x, hx => by
    simp only [List.length_cons] at hx
    rw [Memory.writeBytes, Memory.read_writeBytes_out (by omega), Memory.read_write_ne (by omega)]

/-- A byte inside what is written is the byte written. -/
theorem Memory.read_writeBytes_in : ∀ {bs : List Byte} {m : Memory} {a k : Nat}, (hk : k < bs.length) →
    Memory.read (Memory.writeBytes m a bs) (a + k) = bs[k]
  | b :: bs, m, a, 0, _ => by
    rw [Memory.writeBytes, Memory.read_writeBytes_out (by omega)]
    exact Memory.read_write_same
  | b :: bs, m, a, k + 1, hk => by
    rw [Memory.writeBytes, show a + (k + 1) = a + 1 + k by omega, Memory.read_writeBytes_in (by simpa using hk)]
    rfl

/-- A cleared range reads blank, and every other byte is as before. -/
theorem Memory.read_clear {m : Memory} {lo len x : Nat} :
    Memory.read (m.clear lo len) x = if lo ≤ x ∧ x < lo + len then Config.blankByte else Memory.read m x := by
  unfold Memory.clear
  split
  · exact Memory.read_filter_out (by simp [*]) m
  · exact Memory.read_filter (by simp_all; omega) m

/-- Clearing a range keeps the form. -/
@[simp] theorem Memory.wf_clear {m : Memory} {lo len : Nat} (h : m.wf = true) : (m.clear lo len).wf = true :=
  Memory.wfFrom_filter h

/-- Two memories in form, the second from a bound above the first, are in form together. -/
theorem Memory.wfFrom_append {b : Nat} : ∀ {m n : Memory} {lo : Nat}, Memory.wfFrom lo m = true → (∀ c ∈ m, c.1 < b) →
    Memory.wfFrom b n = true → lo ≤ b → Memory.wfFrom lo (m ++ n) = true
  | [], _, _, _, _, hn, h => Memory.wfFrom_mono h hn
  | (a, v) :: rest, n, lo, hm, hb, hn, h => by
    simp only [Memory.wfFrom, Bool.and_eq_true, decide_eq_true_eq] at hm
    have ha : a < b := hb (a, v) (by simp)
    simp only [List.cons_append, Memory.wfFrom, Bool.and_eq_true, decide_eq_true_eq]
    exact ⟨hm.1, Memory.wfFrom_append hm.2 (fun c hc => hb c (by simp [hc])) hn (by omega)⟩

/-- What a splice lists of the new bytes. -/
theorem Memory.wfFrom_listed {a : Nat} : ∀ {bs : List Byte} {k : Nat},
    Memory.wfFrom (a + k) ((bs.zipIdx k).filterMap (fun x => if x.1 = Config.blankByte then none else some (a + x.2, x.1))) = true
  | [], _ => rfl
  | b :: bs, k => by
    simp only [List.zipIdx_cons, List.filterMap_cons]
    have ih := Memory.wfFrom_listed (a := a) (bs := bs) (k := k + 1)
    split
    · exact Memory.wfFrom_mono (by omega) ih
    · rename_i y hy
      split at hy
      · cases hy
      · cases hy
        simp only [Memory.wfFrom, Bool.and_eq_true, decide_eq_true_eq]
        exact ⟨⟨Nat.le_refl _, by simpa using ‹¬b = Config.blankByte›⟩, ih⟩

/-- Entries at or above a bound are in form from it. -/
theorem Memory.wfFrom_above {b : Nat} : ∀ {m : Memory} {lo : Nat}, Memory.wfFrom lo m = true →
    Memory.wfFrom b (m.filter (fun x => decide (b ≤ x.1))) = true
  | [], _, _ => rfl
  | (a, v) :: rest, lo, h => by
    simp only [Memory.wfFrom, Bool.and_eq_true, decide_eq_true_eq] at h
    simp only [List.filter]
    split
    · rename_i ha
      simp only [decide_eq_true_eq] at ha
      simp only [Memory.wfFrom, Bool.and_eq_true, decide_eq_true_eq]
      exact ⟨⟨ha, h.1.2⟩, Memory.wfFrom_filter h.2⟩
    · exact Memory.wfFrom_above h.2

/-- Replacing a range keeps the form. -/
@[simp] theorem Memory.wf_splice {m : Memory} {a : Nat} {bs : List Byte} (h : m.wf = true) : (m.splice a bs).wf = true := by
  unfold Memory.splice Memory.wf
  rw [List.append_assoc]
  refine Memory.wfFrom_append (b := a) (Memory.wfFrom_filter h) (fun c hc => ?_) ?_ (Nat.zero_le _)
  · simpa using (List.mem_filter.mp hc).2
  · refine Memory.wfFrom_append (b := a + bs.length) (Memory.wfFrom_listed (k := 0)) (fun c hc => ?_)
      (Memory.wfFrom_above h) (Nat.le_add_right _ _)
    obtain ⟨x, hx, he⟩ := List.mem_filterMap.mp hc
    split at he
    · cases he
    · cases he
      have := (List.mem_zipIdx hx).2.1
      simp only at this ⊢
      omega

end Sys2Proof.Machine
end

