-- ==== Sys2Proof/Laws/State.lean ====
section
/-! SUPPORT. What each update of the state leaves alone, field by field, and what it gives: no later proof unfolds a record
update. -/

namespace Sys2Proof.Machine

open Sys2Proof

/-! ### `State.updCore` -/

@[simp] theorem State.updCore_core (s : State) (c : CoreId) (f : Core → Core) : (s.updCore c f).core = s.core := rfl
@[simp] theorem State.updCore_eng (s : State) (c : CoreId) (f : Core → Core) : (s.updCore c f).eng = s.eng := rfl
@[simp] theorem State.updCore_agenda (s : State) (c : CoreId) (f : Core → Core) : (s.updCore c f).agenda = s.agenda := rfl
@[simp] theorem State.updCore_turn (s : State) (c : CoreId) (f : Core → Core) : (s.updCore c f).turn = s.turn := rfl
@[simp] theorem State.updCore_freeCtr (s : State) (c : CoreId) (f : Core → Core) : (s.updCore c f).freeCtr = s.freeCtr := rfl
@[simp] theorem State.updCore_clk (s : State) (c : CoreId) (f : Core → Core) : (s.updCore c f).clk = s.clk := rfl
@[simp] theorem State.updCore_mem (s : State) (c : CoreId) (f : Core → Core) : (s.updCore c f).mem = s.mem := rfl
@[simp] theorem State.updCore_poison (s : State) (c : CoreId) (f : Core → Core) : (s.updCore c f).poison = s.poison := rfl
@[simp] theorem State.updCore_chanOut (s : State) (c : CoreId) (f : Core → Core) : (s.updCore c f).chanOut = s.chanOut := rfl
@[simp] theorem State.updCore_cxl (s : State) (c : CoreId) (f : Core → Core) : (s.updCore c f).cxl = s.cxl := rfl
@[simp] theorem State.updCore_dies (s : State) (c : CoreId) (f : Core → Core) : (s.updCore c f).dies = s.dies := rfl
@[simp] theorem State.updCore_parts (s : State) (c : CoreId) (f : Core → Core) : (s.updCore c f).parts = s.parts := rfl
@[simp] theorem State.updCore_ports (s : State) (c : CoreId) (f : Core → Core) : (s.updCore c f).ports = s.ports := rfl
@[simp] theorem State.updCore_launches (s : State) (c : CoreId) (f : Core → Core) : (s.updCore c f).launches = s.launches := rfl
@[simp] theorem State.updCore_nextId (s : State) (c : CoreId) (f : Core → Core) : (s.updCore c f).nextId = s.nextId := rfl
@[simp] theorem State.updCore_preCtr (s : State) (c : CoreId) (f : Core → Core) : (s.updCore c f).preCtr = s.preCtr := rfl
@[simp] theorem State.updCore_subs (s : State) (c : CoreId) (f : Core → Core) : (s.updCore c f).subs = s.subs := rfl
@[simp] theorem State.updCore_takenAt (s : State) (c : CoreId) (f : Core → Core) : (s.updCore c f).takenAt = s.takenAt := rfl
@[simp] theorem State.updCore_round (s : State) (c : CoreId) (f : Core → Core) : (s.updCore c f).round = s.round := rfl
@[simp] theorem State.updCore_rows (s : State) (c : CoreId) (f : Core → Core) : (s.updCore c f).rows = s.rows := rfl
@[simp] theorem State.updCore_gens (s : State) (c : CoreId) (f : Core → Core) : (s.updCore c f).gens = s.gens := rfl
@[simp] theorem State.updCore_genCtr (s : State) (c : CoreId) (f : Core → Core) : (s.updCore c f).genCtr = s.genCtr := rfl
@[simp] theorem State.updCore_links (s : State) (c : CoreId) (f : Core → Core) : (s.updCore c f).links = s.links := rfl
@[simp] theorem State.updCore_edges (s : State) (c : CoreId) (f : Core → Core) : (s.updCore c f).edges = s.edges := rfl
@[simp] theorem State.updCore_mbox (s : State) (c : CoreId) (f : Core → Core) : (s.updCore c f).mbox = s.mbox := rfl
@[simp] theorem State.updCore_hostMem (s : State) (c : CoreId) (f : Core → Core) : (s.updCore c f).hostMem = s.hostMem := rfl
@[simp] theorem State.updCore_hostSeen (s : State) (c : CoreId) (f : Core → Core) : (s.updCore c f).hostSeen = s.hostSeen := rfl
@[simp] theorem State.updCore_wire (s : State) (c : CoreId) (f : Core → Core) : (s.updCore c f).wire = s.wire := rfl
@[simp] theorem State.updCore_hub (s : State) (c : CoreId) (f : Core → Core) : (s.updCore c f).hub = s.hub := rfl

/-! ### `State.updInst` -/

@[simp] theorem State.updInst_core (s : State) (c : CoreId) (f : Inst → Inst) : (s.updInst c f).core = s.core := rfl
@[simp] theorem State.updInst_eng (s : State) (c : CoreId) (f : Inst → Inst) : (s.updInst c f).eng = s.eng := rfl
@[simp] theorem State.updInst_agenda (s : State) (c : CoreId) (f : Inst → Inst) : (s.updInst c f).agenda = s.agenda := rfl
@[simp] theorem State.updInst_turn (s : State) (c : CoreId) (f : Inst → Inst) : (s.updInst c f).turn = s.turn := rfl
@[simp] theorem State.updInst_freeCtr (s : State) (c : CoreId) (f : Inst → Inst) : (s.updInst c f).freeCtr = s.freeCtr := rfl
@[simp] theorem State.updInst_clk (s : State) (c : CoreId) (f : Inst → Inst) : (s.updInst c f).clk = s.clk := rfl
@[simp] theorem State.updInst_mem (s : State) (c : CoreId) (f : Inst → Inst) : (s.updInst c f).mem = s.mem := rfl
@[simp] theorem State.updInst_poison (s : State) (c : CoreId) (f : Inst → Inst) : (s.updInst c f).poison = s.poison := rfl
@[simp] theorem State.updInst_chanOut (s : State) (c : CoreId) (f : Inst → Inst) : (s.updInst c f).chanOut = s.chanOut := rfl
@[simp] theorem State.updInst_cxl (s : State) (c : CoreId) (f : Inst → Inst) : (s.updInst c f).cxl = s.cxl := rfl
@[simp] theorem State.updInst_dies (s : State) (c : CoreId) (f : Inst → Inst) : (s.updInst c f).dies = s.dies := rfl
@[simp] theorem State.updInst_parts (s : State) (c : CoreId) (f : Inst → Inst) : (s.updInst c f).parts = s.parts := rfl
@[simp] theorem State.updInst_ports (s : State) (c : CoreId) (f : Inst → Inst) : (s.updInst c f).ports = s.ports := rfl
@[simp] theorem State.updInst_launches (s : State) (c : CoreId) (f : Inst → Inst) : (s.updInst c f).launches = s.launches := rfl
@[simp] theorem State.updInst_nextId (s : State) (c : CoreId) (f : Inst → Inst) : (s.updInst c f).nextId = s.nextId := rfl
@[simp] theorem State.updInst_preCtr (s : State) (c : CoreId) (f : Inst → Inst) : (s.updInst c f).preCtr = s.preCtr := rfl
@[simp] theorem State.updInst_subs (s : State) (c : CoreId) (f : Inst → Inst) : (s.updInst c f).subs = s.subs := rfl
@[simp] theorem State.updInst_takenAt (s : State) (c : CoreId) (f : Inst → Inst) : (s.updInst c f).takenAt = s.takenAt := rfl
@[simp] theorem State.updInst_round (s : State) (c : CoreId) (f : Inst → Inst) : (s.updInst c f).round = s.round := rfl
@[simp] theorem State.updInst_rows (s : State) (c : CoreId) (f : Inst → Inst) : (s.updInst c f).rows = s.rows := rfl
@[simp] theorem State.updInst_gens (s : State) (c : CoreId) (f : Inst → Inst) : (s.updInst c f).gens = s.gens := rfl
@[simp] theorem State.updInst_genCtr (s : State) (c : CoreId) (f : Inst → Inst) : (s.updInst c f).genCtr = s.genCtr := rfl
@[simp] theorem State.updInst_links (s : State) (c : CoreId) (f : Inst → Inst) : (s.updInst c f).links = s.links := rfl
@[simp] theorem State.updInst_edges (s : State) (c : CoreId) (f : Inst → Inst) : (s.updInst c f).edges = s.edges := rfl
@[simp] theorem State.updInst_mbox (s : State) (c : CoreId) (f : Inst → Inst) : (s.updInst c f).mbox = s.mbox := rfl
@[simp] theorem State.updInst_hostMem (s : State) (c : CoreId) (f : Inst → Inst) : (s.updInst c f).hostMem = s.hostMem := rfl
@[simp] theorem State.updInst_hostSeen (s : State) (c : CoreId) (f : Inst → Inst) : (s.updInst c f).hostSeen = s.hostSeen := rfl
@[simp] theorem State.updInst_wire (s : State) (c : CoreId) (f : Inst → Inst) : (s.updInst c f).wire = s.wire := rfl
@[simp] theorem State.updInst_hub (s : State) (c : CoreId) (f : Inst → Inst) : (s.updInst c f).hub = s.hub := rfl

/-! ### `State.updEng` -/

@[simp] theorem State.updEng_core (s : State) (c : CoreId) (e : EngId) (f : Eng → Eng) : (s.updEng c e f).core = s.core := rfl
@[simp] theorem State.updEng_eng (s : State) (c : CoreId) (e : EngId) (f : Eng → Eng) : (s.updEng c e f).eng = s.eng := rfl
@[simp] theorem State.updEng_agenda (s : State) (c : CoreId) (e : EngId) (f : Eng → Eng) : (s.updEng c e f).agenda = s.agenda := rfl
@[simp] theorem State.updEng_turn (s : State) (c : CoreId) (e : EngId) (f : Eng → Eng) : (s.updEng c e f).turn = s.turn := rfl
@[simp] theorem State.updEng_freeCtr (s : State) (c : CoreId) (e : EngId) (f : Eng → Eng) : (s.updEng c e f).freeCtr = s.freeCtr := rfl
@[simp] theorem State.updEng_clk (s : State) (c : CoreId) (e : EngId) (f : Eng → Eng) : (s.updEng c e f).clk = s.clk := rfl
@[simp] theorem State.updEng_mem (s : State) (c : CoreId) (e : EngId) (f : Eng → Eng) : (s.updEng c e f).mem = s.mem := rfl
@[simp] theorem State.updEng_poison (s : State) (c : CoreId) (e : EngId) (f : Eng → Eng) : (s.updEng c e f).poison = s.poison := rfl
@[simp] theorem State.updEng_chanOut (s : State) (c : CoreId) (e : EngId) (f : Eng → Eng) : (s.updEng c e f).chanOut = s.chanOut := rfl
@[simp] theorem State.updEng_cxl (s : State) (c : CoreId) (e : EngId) (f : Eng → Eng) : (s.updEng c e f).cxl = s.cxl := rfl
@[simp] theorem State.updEng_dies (s : State) (c : CoreId) (e : EngId) (f : Eng → Eng) : (s.updEng c e f).dies = s.dies := rfl
@[simp] theorem State.updEng_parts (s : State) (c : CoreId) (e : EngId) (f : Eng → Eng) : (s.updEng c e f).parts = s.parts := rfl
@[simp] theorem State.updEng_ports (s : State) (c : CoreId) (e : EngId) (f : Eng → Eng) : (s.updEng c e f).ports = s.ports := rfl
@[simp] theorem State.updEng_launches (s : State) (c : CoreId) (e : EngId) (f : Eng → Eng) : (s.updEng c e f).launches = s.launches := rfl
@[simp] theorem State.updEng_nextId (s : State) (c : CoreId) (e : EngId) (f : Eng → Eng) : (s.updEng c e f).nextId = s.nextId := rfl
@[simp] theorem State.updEng_preCtr (s : State) (c : CoreId) (e : EngId) (f : Eng → Eng) : (s.updEng c e f).preCtr = s.preCtr := rfl
@[simp] theorem State.updEng_subs (s : State) (c : CoreId) (e : EngId) (f : Eng → Eng) : (s.updEng c e f).subs = s.subs := rfl
@[simp] theorem State.updEng_takenAt (s : State) (c : CoreId) (e : EngId) (f : Eng → Eng) : (s.updEng c e f).takenAt = s.takenAt := rfl
@[simp] theorem State.updEng_round (s : State) (c : CoreId) (e : EngId) (f : Eng → Eng) : (s.updEng c e f).round = s.round := rfl
@[simp] theorem State.updEng_rows (s : State) (c : CoreId) (e : EngId) (f : Eng → Eng) : (s.updEng c e f).rows = s.rows := rfl
@[simp] theorem State.updEng_gens (s : State) (c : CoreId) (e : EngId) (f : Eng → Eng) : (s.updEng c e f).gens = s.gens := rfl
@[simp] theorem State.updEng_genCtr (s : State) (c : CoreId) (e : EngId) (f : Eng → Eng) : (s.updEng c e f).genCtr = s.genCtr := rfl
@[simp] theorem State.updEng_links (s : State) (c : CoreId) (e : EngId) (f : Eng → Eng) : (s.updEng c e f).links = s.links := rfl
@[simp] theorem State.updEng_edges (s : State) (c : CoreId) (e : EngId) (f : Eng → Eng) : (s.updEng c e f).edges = s.edges := rfl
@[simp] theorem State.updEng_mbox (s : State) (c : CoreId) (e : EngId) (f : Eng → Eng) : (s.updEng c e f).mbox = s.mbox := rfl
@[simp] theorem State.updEng_hostMem (s : State) (c : CoreId) (e : EngId) (f : Eng → Eng) : (s.updEng c e f).hostMem = s.hostMem := rfl
@[simp] theorem State.updEng_hostSeen (s : State) (c : CoreId) (e : EngId) (f : Eng → Eng) : (s.updEng c e f).hostSeen = s.hostSeen := rfl
@[simp] theorem State.updEng_wire (s : State) (c : CoreId) (e : EngId) (f : Eng → Eng) : (s.updEng c e f).wire = s.wire := rfl
@[simp] theorem State.updEng_hub (s : State) (c : CoreId) (e : EngId) (f : Eng → Eng) : (s.updEng c e f).hub = s.hub := rfl

/-! ### `State.updMe` -/

@[simp] theorem State.updMe_core (s : State) (f : Eng → Eng) : (s.updMe f).core = s.core := rfl
@[simp] theorem State.updMe_eng (s : State) (f : Eng → Eng) : (s.updMe f).eng = s.eng := rfl
@[simp] theorem State.updMe_agenda (s : State) (f : Eng → Eng) : (s.updMe f).agenda = s.agenda := rfl
@[simp] theorem State.updMe_turn (s : State) (f : Eng → Eng) : (s.updMe f).turn = s.turn := rfl
@[simp] theorem State.updMe_freeCtr (s : State) (f : Eng → Eng) : (s.updMe f).freeCtr = s.freeCtr := rfl
@[simp] theorem State.updMe_clk (s : State) (f : Eng → Eng) : (s.updMe f).clk = s.clk := rfl
@[simp] theorem State.updMe_mem (s : State) (f : Eng → Eng) : (s.updMe f).mem = s.mem := rfl
@[simp] theorem State.updMe_poison (s : State) (f : Eng → Eng) : (s.updMe f).poison = s.poison := rfl
@[simp] theorem State.updMe_chanOut (s : State) (f : Eng → Eng) : (s.updMe f).chanOut = s.chanOut := rfl
@[simp] theorem State.updMe_cxl (s : State) (f : Eng → Eng) : (s.updMe f).cxl = s.cxl := rfl
@[simp] theorem State.updMe_dies (s : State) (f : Eng → Eng) : (s.updMe f).dies = s.dies := rfl
@[simp] theorem State.updMe_parts (s : State) (f : Eng → Eng) : (s.updMe f).parts = s.parts := rfl
@[simp] theorem State.updMe_ports (s : State) (f : Eng → Eng) : (s.updMe f).ports = s.ports := rfl
@[simp] theorem State.updMe_launches (s : State) (f : Eng → Eng) : (s.updMe f).launches = s.launches := rfl
@[simp] theorem State.updMe_nextId (s : State) (f : Eng → Eng) : (s.updMe f).nextId = s.nextId := rfl
@[simp] theorem State.updMe_preCtr (s : State) (f : Eng → Eng) : (s.updMe f).preCtr = s.preCtr := rfl
@[simp] theorem State.updMe_subs (s : State) (f : Eng → Eng) : (s.updMe f).subs = s.subs := rfl
@[simp] theorem State.updMe_takenAt (s : State) (f : Eng → Eng) : (s.updMe f).takenAt = s.takenAt := rfl
@[simp] theorem State.updMe_round (s : State) (f : Eng → Eng) : (s.updMe f).round = s.round := rfl
@[simp] theorem State.updMe_rows (s : State) (f : Eng → Eng) : (s.updMe f).rows = s.rows := rfl
@[simp] theorem State.updMe_gens (s : State) (f : Eng → Eng) : (s.updMe f).gens = s.gens := rfl
@[simp] theorem State.updMe_genCtr (s : State) (f : Eng → Eng) : (s.updMe f).genCtr = s.genCtr := rfl
@[simp] theorem State.updMe_links (s : State) (f : Eng → Eng) : (s.updMe f).links = s.links := rfl
@[simp] theorem State.updMe_edges (s : State) (f : Eng → Eng) : (s.updMe f).edges = s.edges := rfl
@[simp] theorem State.updMe_mbox (s : State) (f : Eng → Eng) : (s.updMe f).mbox = s.mbox := rfl
@[simp] theorem State.updMe_hostMem (s : State) (f : Eng → Eng) : (s.updMe f).hostMem = s.hostMem := rfl
@[simp] theorem State.updMe_hostSeen (s : State) (f : Eng → Eng) : (s.updMe f).hostSeen = s.hostSeen := rfl
@[simp] theorem State.updMe_wire (s : State) (f : Eng → Eng) : (s.updMe f).wire = s.wire := rfl
@[simp] theorem State.updMe_hub (s : State) (f : Eng → Eng) : (s.updMe f).hub = s.hub := rfl

/-! ### `State.updV` -/

@[simp] theorem State.updV_core (s : State) (c : CoreId) (e : EngId) (f : VSt → VSt) : (s.updV c e f).core = s.core := rfl
@[simp] theorem State.updV_eng (s : State) (c : CoreId) (e : EngId) (f : VSt → VSt) : (s.updV c e f).eng = s.eng := rfl
@[simp] theorem State.updV_agenda (s : State) (c : CoreId) (e : EngId) (f : VSt → VSt) : (s.updV c e f).agenda = s.agenda := rfl
@[simp] theorem State.updV_turn (s : State) (c : CoreId) (e : EngId) (f : VSt → VSt) : (s.updV c e f).turn = s.turn := rfl
@[simp] theorem State.updV_freeCtr (s : State) (c : CoreId) (e : EngId) (f : VSt → VSt) : (s.updV c e f).freeCtr = s.freeCtr := rfl
@[simp] theorem State.updV_clk (s : State) (c : CoreId) (e : EngId) (f : VSt → VSt) : (s.updV c e f).clk = s.clk := rfl
@[simp] theorem State.updV_mem (s : State) (c : CoreId) (e : EngId) (f : VSt → VSt) : (s.updV c e f).mem = s.mem := rfl
@[simp] theorem State.updV_poison (s : State) (c : CoreId) (e : EngId) (f : VSt → VSt) : (s.updV c e f).poison = s.poison := rfl
@[simp] theorem State.updV_chanOut (s : State) (c : CoreId) (e : EngId) (f : VSt → VSt) : (s.updV c e f).chanOut = s.chanOut := rfl
@[simp] theorem State.updV_cxl (s : State) (c : CoreId) (e : EngId) (f : VSt → VSt) : (s.updV c e f).cxl = s.cxl := rfl
@[simp] theorem State.updV_dies (s : State) (c : CoreId) (e : EngId) (f : VSt → VSt) : (s.updV c e f).dies = s.dies := rfl
@[simp] theorem State.updV_parts (s : State) (c : CoreId) (e : EngId) (f : VSt → VSt) : (s.updV c e f).parts = s.parts := rfl
@[simp] theorem State.updV_ports (s : State) (c : CoreId) (e : EngId) (f : VSt → VSt) : (s.updV c e f).ports = s.ports := rfl
@[simp] theorem State.updV_launches (s : State) (c : CoreId) (e : EngId) (f : VSt → VSt) : (s.updV c e f).launches = s.launches := rfl
@[simp] theorem State.updV_nextId (s : State) (c : CoreId) (e : EngId) (f : VSt → VSt) : (s.updV c e f).nextId = s.nextId := rfl
@[simp] theorem State.updV_preCtr (s : State) (c : CoreId) (e : EngId) (f : VSt → VSt) : (s.updV c e f).preCtr = s.preCtr := rfl
@[simp] theorem State.updV_subs (s : State) (c : CoreId) (e : EngId) (f : VSt → VSt) : (s.updV c e f).subs = s.subs := rfl
@[simp] theorem State.updV_takenAt (s : State) (c : CoreId) (e : EngId) (f : VSt → VSt) : (s.updV c e f).takenAt = s.takenAt := rfl
@[simp] theorem State.updV_round (s : State) (c : CoreId) (e : EngId) (f : VSt → VSt) : (s.updV c e f).round = s.round := rfl
@[simp] theorem State.updV_rows (s : State) (c : CoreId) (e : EngId) (f : VSt → VSt) : (s.updV c e f).rows = s.rows := rfl
@[simp] theorem State.updV_gens (s : State) (c : CoreId) (e : EngId) (f : VSt → VSt) : (s.updV c e f).gens = s.gens := rfl
@[simp] theorem State.updV_genCtr (s : State) (c : CoreId) (e : EngId) (f : VSt → VSt) : (s.updV c e f).genCtr = s.genCtr := rfl
@[simp] theorem State.updV_links (s : State) (c : CoreId) (e : EngId) (f : VSt → VSt) : (s.updV c e f).links = s.links := rfl
@[simp] theorem State.updV_edges (s : State) (c : CoreId) (e : EngId) (f : VSt → VSt) : (s.updV c e f).edges = s.edges := rfl
@[simp] theorem State.updV_mbox (s : State) (c : CoreId) (e : EngId) (f : VSt → VSt) : (s.updV c e f).mbox = s.mbox := rfl
@[simp] theorem State.updV_hostMem (s : State) (c : CoreId) (e : EngId) (f : VSt → VSt) : (s.updV c e f).hostMem = s.hostMem := rfl
@[simp] theorem State.updV_hostSeen (s : State) (c : CoreId) (e : EngId) (f : VSt → VSt) : (s.updV c e f).hostSeen = s.hostSeen := rfl
@[simp] theorem State.updV_wire (s : State) (c : CoreId) (e : EngId) (f : VSt → VSt) : (s.updV c e f).wire = s.wire := rfl
@[simp] theorem State.updV_hub (s : State) (c : CoreId) (e : EngId) (f : VSt → VSt) : (s.updV c e f).hub = s.hub := rfl

/-! ### `State.updLaunch` -/

@[simp] theorem State.updLaunch_core (s : State) (id : Nat) (f : Launch → Launch) : (s.updLaunch id f).core = s.core := rfl
@[simp] theorem State.updLaunch_eng (s : State) (id : Nat) (f : Launch → Launch) : (s.updLaunch id f).eng = s.eng := rfl
@[simp] theorem State.updLaunch_agenda (s : State) (id : Nat) (f : Launch → Launch) : (s.updLaunch id f).agenda = s.agenda := rfl
@[simp] theorem State.updLaunch_turn (s : State) (id : Nat) (f : Launch → Launch) : (s.updLaunch id f).turn = s.turn := rfl
@[simp] theorem State.updLaunch_freeCtr (s : State) (id : Nat) (f : Launch → Launch) : (s.updLaunch id f).freeCtr = s.freeCtr := rfl
@[simp] theorem State.updLaunch_clk (s : State) (id : Nat) (f : Launch → Launch) : (s.updLaunch id f).clk = s.clk := rfl
@[simp] theorem State.updLaunch_mem (s : State) (id : Nat) (f : Launch → Launch) : (s.updLaunch id f).mem = s.mem := rfl
@[simp] theorem State.updLaunch_poison (s : State) (id : Nat) (f : Launch → Launch) : (s.updLaunch id f).poison = s.poison := rfl
@[simp] theorem State.updLaunch_chanOut (s : State) (id : Nat) (f : Launch → Launch) : (s.updLaunch id f).chanOut = s.chanOut := rfl
@[simp] theorem State.updLaunch_cxl (s : State) (id : Nat) (f : Launch → Launch) : (s.updLaunch id f).cxl = s.cxl := rfl
@[simp] theorem State.updLaunch_cores (s : State) (id : Nat) (f : Launch → Launch) : (s.updLaunch id f).cores = s.cores := rfl
@[simp] theorem State.updLaunch_dies (s : State) (id : Nat) (f : Launch → Launch) : (s.updLaunch id f).dies = s.dies := rfl
@[simp] theorem State.updLaunch_parts (s : State) (id : Nat) (f : Launch → Launch) : (s.updLaunch id f).parts = s.parts := rfl
@[simp] theorem State.updLaunch_ports (s : State) (id : Nat) (f : Launch → Launch) : (s.updLaunch id f).ports = s.ports := rfl
@[simp] theorem State.updLaunch_nextId (s : State) (id : Nat) (f : Launch → Launch) : (s.updLaunch id f).nextId = s.nextId := rfl
@[simp] theorem State.updLaunch_preCtr (s : State) (id : Nat) (f : Launch → Launch) : (s.updLaunch id f).preCtr = s.preCtr := rfl
@[simp] theorem State.updLaunch_subs (s : State) (id : Nat) (f : Launch → Launch) : (s.updLaunch id f).subs = s.subs := rfl
@[simp] theorem State.updLaunch_takenAt (s : State) (id : Nat) (f : Launch → Launch) : (s.updLaunch id f).takenAt = s.takenAt := rfl
@[simp] theorem State.updLaunch_round (s : State) (id : Nat) (f : Launch → Launch) : (s.updLaunch id f).round = s.round := rfl
@[simp] theorem State.updLaunch_rows (s : State) (id : Nat) (f : Launch → Launch) : (s.updLaunch id f).rows = s.rows := rfl
@[simp] theorem State.updLaunch_gens (s : State) (id : Nat) (f : Launch → Launch) : (s.updLaunch id f).gens = s.gens := rfl
@[simp] theorem State.updLaunch_genCtr (s : State) (id : Nat) (f : Launch → Launch) : (s.updLaunch id f).genCtr = s.genCtr := rfl
@[simp] theorem State.updLaunch_links (s : State) (id : Nat) (f : Launch → Launch) : (s.updLaunch id f).links = s.links := rfl
@[simp] theorem State.updLaunch_edges (s : State) (id : Nat) (f : Launch → Launch) : (s.updLaunch id f).edges = s.edges := rfl
@[simp] theorem State.updLaunch_mbox (s : State) (id : Nat) (f : Launch → Launch) : (s.updLaunch id f).mbox = s.mbox := rfl
@[simp] theorem State.updLaunch_hostMem (s : State) (id : Nat) (f : Launch → Launch) : (s.updLaunch id f).hostMem = s.hostMem := rfl
@[simp] theorem State.updLaunch_hostSeen (s : State) (id : Nat) (f : Launch → Launch) : (s.updLaunch id f).hostSeen = s.hostSeen := rfl
@[simp] theorem State.updLaunch_wire (s : State) (id : Nat) (f : Launch → Launch) : (s.updLaunch id f).wire = s.wire := rfl
@[simp] theorem State.updLaunch_hub (s : State) (id : Nat) (f : Launch → Launch) : (s.updLaunch id f).hub = s.hub := rfl

/-! ### `State.fatal` -/

@[simp] theorem State.fatal_core (s : State) (id st cd co en : Nat) : (s.fatal id st cd co en).core = s.core := rfl
@[simp] theorem State.fatal_eng (s : State) (id st cd co en : Nat) : (s.fatal id st cd co en).eng = s.eng := rfl
@[simp] theorem State.fatal_agenda (s : State) (id st cd co en : Nat) : (s.fatal id st cd co en).agenda = s.agenda := rfl
@[simp] theorem State.fatal_turn (s : State) (id st cd co en : Nat) : (s.fatal id st cd co en).turn = s.turn := rfl
@[simp] theorem State.fatal_freeCtr (s : State) (id st cd co en : Nat) : (s.fatal id st cd co en).freeCtr = s.freeCtr := rfl
@[simp] theorem State.fatal_clk (s : State) (id st cd co en : Nat) : (s.fatal id st cd co en).clk = s.clk := rfl
@[simp] theorem State.fatal_mem (s : State) (id st cd co en : Nat) : (s.fatal id st cd co en).mem = s.mem := rfl
@[simp] theorem State.fatal_poison (s : State) (id st cd co en : Nat) : (s.fatal id st cd co en).poison = s.poison := rfl
@[simp] theorem State.fatal_chanOut (s : State) (id st cd co en : Nat) : (s.fatal id st cd co en).chanOut = s.chanOut := rfl
@[simp] theorem State.fatal_cxl (s : State) (id st cd co en : Nat) : (s.fatal id st cd co en).cxl = s.cxl := rfl
@[simp] theorem State.fatal_cores (s : State) (id st cd co en : Nat) : (s.fatal id st cd co en).cores = s.cores := rfl
@[simp] theorem State.fatal_dies (s : State) (id st cd co en : Nat) : (s.fatal id st cd co en).dies = s.dies := rfl
@[simp] theorem State.fatal_parts (s : State) (id st cd co en : Nat) : (s.fatal id st cd co en).parts = s.parts := rfl
@[simp] theorem State.fatal_ports (s : State) (id st cd co en : Nat) : (s.fatal id st cd co en).ports = s.ports := rfl
@[simp] theorem State.fatal_nextId (s : State) (id st cd co en : Nat) : (s.fatal id st cd co en).nextId = s.nextId := rfl
@[simp] theorem State.fatal_preCtr (s : State) (id st cd co en : Nat) : (s.fatal id st cd co en).preCtr = s.preCtr := rfl
@[simp] theorem State.fatal_subs (s : State) (id st cd co en : Nat) : (s.fatal id st cd co en).subs = s.subs := rfl
@[simp] theorem State.fatal_takenAt (s : State) (id st cd co en : Nat) : (s.fatal id st cd co en).takenAt = s.takenAt := rfl
@[simp] theorem State.fatal_round (s : State) (id st cd co en : Nat) : (s.fatal id st cd co en).round = s.round := rfl
@[simp] theorem State.fatal_rows (s : State) (id st cd co en : Nat) : (s.fatal id st cd co en).rows = s.rows := rfl
@[simp] theorem State.fatal_gens (s : State) (id st cd co en : Nat) : (s.fatal id st cd co en).gens = s.gens := rfl
@[simp] theorem State.fatal_genCtr (s : State) (id st cd co en : Nat) : (s.fatal id st cd co en).genCtr = s.genCtr := rfl
@[simp] theorem State.fatal_links (s : State) (id st cd co en : Nat) : (s.fatal id st cd co en).links = s.links := rfl
@[simp] theorem State.fatal_edges (s : State) (id st cd co en : Nat) : (s.fatal id st cd co en).edges = s.edges := rfl
@[simp] theorem State.fatal_mbox (s : State) (id st cd co en : Nat) : (s.fatal id st cd co en).mbox = s.mbox := rfl
@[simp] theorem State.fatal_hostMem (s : State) (id st cd co en : Nat) : (s.fatal id st cd co en).hostMem = s.hostMem := rfl
@[simp] theorem State.fatal_hostSeen (s : State) (id st cd co en : Nat) : (s.fatal id st cd co en).hostSeen = s.hostSeen := rfl
@[simp] theorem State.fatal_wire (s : State) (id st cd co en : Nat) : (s.fatal id st cd co en).wire = s.wire := rfl
@[simp] theorem State.fatal_hub (s : State) (id st cd co en : Nat) : (s.fatal id st cd co en).hub = s.hub := rfl

/-! ### `State.select` -/

@[simp] theorem State.select_agenda (s : State) (c : CoreId) (e : EngId) : (s.select c e).agenda = s.agenda := rfl
@[simp] theorem State.select_turn (s : State) (c : CoreId) (e : EngId) : (s.select c e).turn = s.turn := rfl
@[simp] theorem State.select_freeCtr (s : State) (c : CoreId) (e : EngId) : (s.select c e).freeCtr = s.freeCtr := rfl
@[simp] theorem State.select_clk (s : State) (c : CoreId) (e : EngId) : (s.select c e).clk = s.clk := rfl
@[simp] theorem State.select_mem (s : State) (c : CoreId) (e : EngId) : (s.select c e).mem = s.mem := rfl
@[simp] theorem State.select_poison (s : State) (c : CoreId) (e : EngId) : (s.select c e).poison = s.poison := rfl
@[simp] theorem State.select_chanOut (s : State) (c : CoreId) (e : EngId) : (s.select c e).chanOut = s.chanOut := rfl
@[simp] theorem State.select_cxl (s : State) (c : CoreId) (e : EngId) : (s.select c e).cxl = s.cxl := rfl
@[simp] theorem State.select_cores (s : State) (c : CoreId) (e : EngId) : (s.select c e).cores = s.cores := rfl
@[simp] theorem State.select_dies (s : State) (c : CoreId) (e : EngId) : (s.select c e).dies = s.dies := rfl
@[simp] theorem State.select_parts (s : State) (c : CoreId) (e : EngId) : (s.select c e).parts = s.parts := rfl
@[simp] theorem State.select_ports (s : State) (c : CoreId) (e : EngId) : (s.select c e).ports = s.ports := rfl
@[simp] theorem State.select_launches (s : State) (c : CoreId) (e : EngId) : (s.select c e).launches = s.launches := rfl
@[simp] theorem State.select_nextId (s : State) (c : CoreId) (e : EngId) : (s.select c e).nextId = s.nextId := rfl
@[simp] theorem State.select_preCtr (s : State) (c : CoreId) (e : EngId) : (s.select c e).preCtr = s.preCtr := rfl
@[simp] theorem State.select_subs (s : State) (c : CoreId) (e : EngId) : (s.select c e).subs = s.subs := rfl
@[simp] theorem State.select_takenAt (s : State) (c : CoreId) (e : EngId) : (s.select c e).takenAt = s.takenAt := rfl
@[simp] theorem State.select_round (s : State) (c : CoreId) (e : EngId) : (s.select c e).round = s.round := rfl
@[simp] theorem State.select_rows (s : State) (c : CoreId) (e : EngId) : (s.select c e).rows = s.rows := rfl
@[simp] theorem State.select_gens (s : State) (c : CoreId) (e : EngId) : (s.select c e).gens = s.gens := rfl
@[simp] theorem State.select_genCtr (s : State) (c : CoreId) (e : EngId) : (s.select c e).genCtr = s.genCtr := rfl
@[simp] theorem State.select_links (s : State) (c : CoreId) (e : EngId) : (s.select c e).links = s.links := rfl
@[simp] theorem State.select_edges (s : State) (c : CoreId) (e : EngId) : (s.select c e).edges = s.edges := rfl
@[simp] theorem State.select_mbox (s : State) (c : CoreId) (e : EngId) : (s.select c e).mbox = s.mbox := rfl
@[simp] theorem State.select_hostMem (s : State) (c : CoreId) (e : EngId) : (s.select c e).hostMem = s.hostMem := rfl
@[simp] theorem State.select_hostSeen (s : State) (c : CoreId) (e : EngId) : (s.select c e).hostSeen = s.hostSeen := rfl
@[simp] theorem State.select_wire (s : State) (c : CoreId) (e : EngId) : (s.select c e).wire = s.wire := rfl
@[simp] theorem State.select_hub (s : State) (c : CoreId) (e : EngId) : (s.select c e).hub = s.hub := rfl

/-! ### `State.finish` -/

@[simp] theorem State.finish_core (s : State) (n : Nat) (k : Stl) (o : List (Nat × Nat)) : (s.finish n k o).core = s.core := rfl
@[simp] theorem State.finish_eng (s : State) (n : Nat) (k : Stl) (o : List (Nat × Nat)) : (s.finish n k o).eng = s.eng := rfl
@[simp] theorem State.finish_agenda (s : State) (n : Nat) (k : Stl) (o : List (Nat × Nat)) : (s.finish n k o).agenda = s.agenda := rfl
@[simp] theorem State.finish_turn (s : State) (n : Nat) (k : Stl) (o : List (Nat × Nat)) : (s.finish n k o).turn = s.turn := rfl
@[simp] theorem State.finish_freeCtr (s : State) (n : Nat) (k : Stl) (o : List (Nat × Nat)) : (s.finish n k o).freeCtr = s.freeCtr := rfl
@[simp] theorem State.finish_clk (s : State) (n : Nat) (k : Stl) (o : List (Nat × Nat)) : (s.finish n k o).clk = s.clk := rfl
@[simp] theorem State.finish_mem (s : State) (n : Nat) (k : Stl) (o : List (Nat × Nat)) : (s.finish n k o).mem = s.mem := rfl
@[simp] theorem State.finish_poison (s : State) (n : Nat) (k : Stl) (o : List (Nat × Nat)) : (s.finish n k o).poison = s.poison := rfl
@[simp] theorem State.finish_chanOut (s : State) (n : Nat) (k : Stl) (o : List (Nat × Nat)) : (s.finish n k o).chanOut = s.chanOut := rfl
@[simp] theorem State.finish_cxl (s : State) (n : Nat) (k : Stl) (o : List (Nat × Nat)) : (s.finish n k o).cxl = s.cxl := rfl
@[simp] theorem State.finish_dies (s : State) (n : Nat) (k : Stl) (o : List (Nat × Nat)) : (s.finish n k o).dies = s.dies := rfl
@[simp] theorem State.finish_parts (s : State) (n : Nat) (k : Stl) (o : List (Nat × Nat)) : (s.finish n k o).parts = s.parts := rfl
@[simp] theorem State.finish_ports (s : State) (n : Nat) (k : Stl) (o : List (Nat × Nat)) : (s.finish n k o).ports = s.ports := rfl
@[simp] theorem State.finish_launches (s : State) (n : Nat) (k : Stl) (o : List (Nat × Nat)) : (s.finish n k o).launches = s.launches := rfl
@[simp] theorem State.finish_nextId (s : State) (n : Nat) (k : Stl) (o : List (Nat × Nat)) : (s.finish n k o).nextId = s.nextId := rfl
@[simp] theorem State.finish_preCtr (s : State) (n : Nat) (k : Stl) (o : List (Nat × Nat)) : (s.finish n k o).preCtr = s.preCtr := rfl
@[simp] theorem State.finish_subs (s : State) (n : Nat) (k : Stl) (o : List (Nat × Nat)) : (s.finish n k o).subs = s.subs := rfl
@[simp] theorem State.finish_takenAt (s : State) (n : Nat) (k : Stl) (o : List (Nat × Nat)) : (s.finish n k o).takenAt = s.takenAt := rfl
@[simp] theorem State.finish_round (s : State) (n : Nat) (k : Stl) (o : List (Nat × Nat)) : (s.finish n k o).round = s.round := rfl
@[simp] theorem State.finish_rows (s : State) (n : Nat) (k : Stl) (o : List (Nat × Nat)) : (s.finish n k o).rows = s.rows := rfl
@[simp] theorem State.finish_gens (s : State) (n : Nat) (k : Stl) (o : List (Nat × Nat)) : (s.finish n k o).gens = s.gens := rfl
@[simp] theorem State.finish_genCtr (s : State) (n : Nat) (k : Stl) (o : List (Nat × Nat)) : (s.finish n k o).genCtr = s.genCtr := rfl
@[simp] theorem State.finish_links (s : State) (n : Nat) (k : Stl) (o : List (Nat × Nat)) : (s.finish n k o).links = s.links := rfl
@[simp] theorem State.finish_edges (s : State) (n : Nat) (k : Stl) (o : List (Nat × Nat)) : (s.finish n k o).edges = s.edges := rfl
@[simp] theorem State.finish_mbox (s : State) (n : Nat) (k : Stl) (o : List (Nat × Nat)) : (s.finish n k o).mbox = s.mbox := rfl
@[simp] theorem State.finish_hostMem (s : State) (n : Nat) (k : Stl) (o : List (Nat × Nat)) : (s.finish n k o).hostMem = s.hostMem := rfl
@[simp] theorem State.finish_hostSeen (s : State) (n : Nat) (k : Stl) (o : List (Nat × Nat)) : (s.finish n k o).hostSeen = s.hostSeen := rfl
@[simp] theorem State.finish_wire (s : State) (n : Nat) (k : Stl) (o : List (Nat × Nat)) : (s.finish n k o).wire = s.wire := rfl
@[simp] theorem State.finish_hub (s : State) (n : Nat) (k : Stl) (o : List (Nat × Nat)) : (s.finish n k o).hub = s.hub := rfl

/-! ### `State.finishAt` -/

@[simp] theorem State.finishAt_core (s : State) (t : Word) (k : Stl) : (s.finishAt t k).core = s.core := rfl
@[simp] theorem State.finishAt_eng (s : State) (t : Word) (k : Stl) : (s.finishAt t k).eng = s.eng := rfl
@[simp] theorem State.finishAt_agenda (s : State) (t : Word) (k : Stl) : (s.finishAt t k).agenda = s.agenda := rfl
@[simp] theorem State.finishAt_turn (s : State) (t : Word) (k : Stl) : (s.finishAt t k).turn = s.turn := rfl
@[simp] theorem State.finishAt_freeCtr (s : State) (t : Word) (k : Stl) : (s.finishAt t k).freeCtr = s.freeCtr := rfl
@[simp] theorem State.finishAt_clk (s : State) (t : Word) (k : Stl) : (s.finishAt t k).clk = s.clk := rfl
@[simp] theorem State.finishAt_mem (s : State) (t : Word) (k : Stl) : (s.finishAt t k).mem = s.mem := rfl
@[simp] theorem State.finishAt_poison (s : State) (t : Word) (k : Stl) : (s.finishAt t k).poison = s.poison := rfl
@[simp] theorem State.finishAt_chanOut (s : State) (t : Word) (k : Stl) : (s.finishAt t k).chanOut = s.chanOut := rfl
@[simp] theorem State.finishAt_cxl (s : State) (t : Word) (k : Stl) : (s.finishAt t k).cxl = s.cxl := rfl
@[simp] theorem State.finishAt_dies (s : State) (t : Word) (k : Stl) : (s.finishAt t k).dies = s.dies := rfl
@[simp] theorem State.finishAt_parts (s : State) (t : Word) (k : Stl) : (s.finishAt t k).parts = s.parts := rfl
@[simp] theorem State.finishAt_ports (s : State) (t : Word) (k : Stl) : (s.finishAt t k).ports = s.ports := rfl
@[simp] theorem State.finishAt_launches (s : State) (t : Word) (k : Stl) : (s.finishAt t k).launches = s.launches := rfl
@[simp] theorem State.finishAt_nextId (s : State) (t : Word) (k : Stl) : (s.finishAt t k).nextId = s.nextId := rfl
@[simp] theorem State.finishAt_preCtr (s : State) (t : Word) (k : Stl) : (s.finishAt t k).preCtr = s.preCtr := rfl
@[simp] theorem State.finishAt_subs (s : State) (t : Word) (k : Stl) : (s.finishAt t k).subs = s.subs := rfl
@[simp] theorem State.finishAt_takenAt (s : State) (t : Word) (k : Stl) : (s.finishAt t k).takenAt = s.takenAt := rfl
@[simp] theorem State.finishAt_round (s : State) (t : Word) (k : Stl) : (s.finishAt t k).round = s.round := rfl
@[simp] theorem State.finishAt_rows (s : State) (t : Word) (k : Stl) : (s.finishAt t k).rows = s.rows := rfl
@[simp] theorem State.finishAt_gens (s : State) (t : Word) (k : Stl) : (s.finishAt t k).gens = s.gens := rfl
@[simp] theorem State.finishAt_genCtr (s : State) (t : Word) (k : Stl) : (s.finishAt t k).genCtr = s.genCtr := rfl
@[simp] theorem State.finishAt_links (s : State) (t : Word) (k : Stl) : (s.finishAt t k).links = s.links := rfl
@[simp] theorem State.finishAt_edges (s : State) (t : Word) (k : Stl) : (s.finishAt t k).edges = s.edges := rfl
@[simp] theorem State.finishAt_mbox (s : State) (t : Word) (k : Stl) : (s.finishAt t k).mbox = s.mbox := rfl
@[simp] theorem State.finishAt_hostMem (s : State) (t : Word) (k : Stl) : (s.finishAt t k).hostMem = s.hostMem := rfl
@[simp] theorem State.finishAt_hostSeen (s : State) (t : Word) (k : Stl) : (s.finishAt t k).hostSeen = s.hostSeen := rfl
@[simp] theorem State.finishAt_wire (s : State) (t : Word) (k : Stl) : (s.finishAt t k).wire = s.wire := rfl
@[simp] theorem State.finishAt_hub (s : State) (t : Word) (k : Stl) : (s.finishAt t k).hub = s.hub := rfl

/-! ### `State.pendAcc` -/

@[simp] theorem State.pendAcc_core (s : State) (a : Acc) : (s.pendAcc a).core = s.core := rfl
@[simp] theorem State.pendAcc_eng (s : State) (a : Acc) : (s.pendAcc a).eng = s.eng := rfl
@[simp] theorem State.pendAcc_agenda (s : State) (a : Acc) : (s.pendAcc a).agenda = s.agenda := rfl
@[simp] theorem State.pendAcc_turn (s : State) (a : Acc) : (s.pendAcc a).turn = s.turn := rfl
@[simp] theorem State.pendAcc_freeCtr (s : State) (a : Acc) : (s.pendAcc a).freeCtr = s.freeCtr := rfl
@[simp] theorem State.pendAcc_clk (s : State) (a : Acc) : (s.pendAcc a).clk = s.clk := rfl
@[simp] theorem State.pendAcc_mem (s : State) (a : Acc) : (s.pendAcc a).mem = s.mem := rfl
@[simp] theorem State.pendAcc_poison (s : State) (a : Acc) : (s.pendAcc a).poison = s.poison := rfl
@[simp] theorem State.pendAcc_chanOut (s : State) (a : Acc) : (s.pendAcc a).chanOut = s.chanOut := rfl
@[simp] theorem State.pendAcc_cxl (s : State) (a : Acc) : (s.pendAcc a).cxl = s.cxl := rfl
@[simp] theorem State.pendAcc_dies (s : State) (a : Acc) : (s.pendAcc a).dies = s.dies := rfl
@[simp] theorem State.pendAcc_parts (s : State) (a : Acc) : (s.pendAcc a).parts = s.parts := rfl
@[simp] theorem State.pendAcc_ports (s : State) (a : Acc) : (s.pendAcc a).ports = s.ports := rfl
@[simp] theorem State.pendAcc_launches (s : State) (a : Acc) : (s.pendAcc a).launches = s.launches := rfl
@[simp] theorem State.pendAcc_nextId (s : State) (a : Acc) : (s.pendAcc a).nextId = s.nextId := rfl
@[simp] theorem State.pendAcc_preCtr (s : State) (a : Acc) : (s.pendAcc a).preCtr = s.preCtr := rfl
@[simp] theorem State.pendAcc_subs (s : State) (a : Acc) : (s.pendAcc a).subs = s.subs := rfl
@[simp] theorem State.pendAcc_takenAt (s : State) (a : Acc) : (s.pendAcc a).takenAt = s.takenAt := rfl
@[simp] theorem State.pendAcc_round (s : State) (a : Acc) : (s.pendAcc a).round = s.round := rfl
@[simp] theorem State.pendAcc_rows (s : State) (a : Acc) : (s.pendAcc a).rows = s.rows := rfl
@[simp] theorem State.pendAcc_gens (s : State) (a : Acc) : (s.pendAcc a).gens = s.gens := rfl
@[simp] theorem State.pendAcc_genCtr (s : State) (a : Acc) : (s.pendAcc a).genCtr = s.genCtr := rfl
@[simp] theorem State.pendAcc_links (s : State) (a : Acc) : (s.pendAcc a).links = s.links := rfl
@[simp] theorem State.pendAcc_edges (s : State) (a : Acc) : (s.pendAcc a).edges = s.edges := rfl
@[simp] theorem State.pendAcc_mbox (s : State) (a : Acc) : (s.pendAcc a).mbox = s.mbox := rfl
@[simp] theorem State.pendAcc_hostMem (s : State) (a : Acc) : (s.pendAcc a).hostMem = s.hostMem := rfl
@[simp] theorem State.pendAcc_hostSeen (s : State) (a : Acc) : (s.pendAcc a).hostSeen = s.hostSeen := rfl
@[simp] theorem State.pendAcc_wire (s : State) (a : Acc) : (s.pendAcc a).wire = s.wire := rfl
@[simp] theorem State.pendAcc_hub (s : State) (a : Acc) : (s.pendAcc a).hub = s.hub := rfl

/-! ### `State.breakLinks` -/

@[simp] theorem State.breakLinks_core (s : State) (l : Loc) : (s.breakLinks l).core = s.core := rfl
@[simp] theorem State.breakLinks_eng (s : State) (l : Loc) : (s.breakLinks l).eng = s.eng := rfl
@[simp] theorem State.breakLinks_agenda (s : State) (l : Loc) : (s.breakLinks l).agenda = s.agenda := rfl
@[simp] theorem State.breakLinks_turn (s : State) (l : Loc) : (s.breakLinks l).turn = s.turn := rfl
@[simp] theorem State.breakLinks_freeCtr (s : State) (l : Loc) : (s.breakLinks l).freeCtr = s.freeCtr := rfl
@[simp] theorem State.breakLinks_clk (s : State) (l : Loc) : (s.breakLinks l).clk = s.clk := rfl
@[simp] theorem State.breakLinks_mem (s : State) (l : Loc) : (s.breakLinks l).mem = s.mem := rfl
@[simp] theorem State.breakLinks_poison (s : State) (l : Loc) : (s.breakLinks l).poison = s.poison := rfl
@[simp] theorem State.breakLinks_chanOut (s : State) (l : Loc) : (s.breakLinks l).chanOut = s.chanOut := rfl
@[simp] theorem State.breakLinks_cxl (s : State) (l : Loc) : (s.breakLinks l).cxl = s.cxl := rfl
@[simp] theorem State.breakLinks_cores (s : State) (l : Loc) : (s.breakLinks l).cores = s.cores := rfl
@[simp] theorem State.breakLinks_dies (s : State) (l : Loc) : (s.breakLinks l).dies = s.dies := rfl
@[simp] theorem State.breakLinks_parts (s : State) (l : Loc) : (s.breakLinks l).parts = s.parts := rfl
@[simp] theorem State.breakLinks_ports (s : State) (l : Loc) : (s.breakLinks l).ports = s.ports := rfl
@[simp] theorem State.breakLinks_launches (s : State) (l : Loc) : (s.breakLinks l).launches = s.launches := rfl
@[simp] theorem State.breakLinks_nextId (s : State) (l : Loc) : (s.breakLinks l).nextId = s.nextId := rfl
@[simp] theorem State.breakLinks_preCtr (s : State) (l : Loc) : (s.breakLinks l).preCtr = s.preCtr := rfl
@[simp] theorem State.breakLinks_subs (s : State) (l : Loc) : (s.breakLinks l).subs = s.subs := rfl
@[simp] theorem State.breakLinks_takenAt (s : State) (l : Loc) : (s.breakLinks l).takenAt = s.takenAt := rfl
@[simp] theorem State.breakLinks_round (s : State) (l : Loc) : (s.breakLinks l).round = s.round := rfl
@[simp] theorem State.breakLinks_rows (s : State) (l : Loc) : (s.breakLinks l).rows = s.rows := rfl
@[simp] theorem State.breakLinks_gens (s : State) (l : Loc) : (s.breakLinks l).gens = s.gens := rfl
@[simp] theorem State.breakLinks_genCtr (s : State) (l : Loc) : (s.breakLinks l).genCtr = s.genCtr := rfl
@[simp] theorem State.breakLinks_edges (s : State) (l : Loc) : (s.breakLinks l).edges = s.edges := rfl
@[simp] theorem State.breakLinks_mbox (s : State) (l : Loc) : (s.breakLinks l).mbox = s.mbox := rfl
@[simp] theorem State.breakLinks_hostMem (s : State) (l : Loc) : (s.breakLinks l).hostMem = s.hostMem := rfl
@[simp] theorem State.breakLinks_hostSeen (s : State) (l : Loc) : (s.breakLinks l).hostSeen = s.hostSeen := rfl
@[simp] theorem State.breakLinks_wire (s : State) (l : Loc) : (s.breakLinks l).wire = s.wire := rfl
@[simp] theorem State.breakLinks_hub (s : State) (l : Loc) : (s.breakLinks l).hub = s.hub := rfl

/-! ### `State.writePhys` -/

@[simp] theorem State.writePhys_core (s : State) (pa : Nat) (bs : List Byte) : (s.writePhys pa bs).core = s.core := rfl
@[simp] theorem State.writePhys_eng (s : State) (pa : Nat) (bs : List Byte) : (s.writePhys pa bs).eng = s.eng := rfl
@[simp] theorem State.writePhys_agenda (s : State) (pa : Nat) (bs : List Byte) : (s.writePhys pa bs).agenda = s.agenda := rfl
@[simp] theorem State.writePhys_turn (s : State) (pa : Nat) (bs : List Byte) : (s.writePhys pa bs).turn = s.turn := rfl
@[simp] theorem State.writePhys_freeCtr (s : State) (pa : Nat) (bs : List Byte) : (s.writePhys pa bs).freeCtr = s.freeCtr := rfl
@[simp] theorem State.writePhys_clk (s : State) (pa : Nat) (bs : List Byte) : (s.writePhys pa bs).clk = s.clk := rfl
@[simp] theorem State.writePhys_chanOut (s : State) (pa : Nat) (bs : List Byte) : (s.writePhys pa bs).chanOut = s.chanOut := rfl
@[simp] theorem State.writePhys_cxl (s : State) (pa : Nat) (bs : List Byte) : (s.writePhys pa bs).cxl = s.cxl := rfl
@[simp] theorem State.writePhys_cores (s : State) (pa : Nat) (bs : List Byte) : (s.writePhys pa bs).cores = s.cores := rfl
@[simp] theorem State.writePhys_dies (s : State) (pa : Nat) (bs : List Byte) : (s.writePhys pa bs).dies = s.dies := rfl
@[simp] theorem State.writePhys_parts (s : State) (pa : Nat) (bs : List Byte) : (s.writePhys pa bs).parts = s.parts := rfl
@[simp] theorem State.writePhys_ports (s : State) (pa : Nat) (bs : List Byte) : (s.writePhys pa bs).ports = s.ports := rfl
@[simp] theorem State.writePhys_launches (s : State) (pa : Nat) (bs : List Byte) : (s.writePhys pa bs).launches = s.launches := rfl
@[simp] theorem State.writePhys_nextId (s : State) (pa : Nat) (bs : List Byte) : (s.writePhys pa bs).nextId = s.nextId := rfl
@[simp] theorem State.writePhys_preCtr (s : State) (pa : Nat) (bs : List Byte) : (s.writePhys pa bs).preCtr = s.preCtr := rfl
@[simp] theorem State.writePhys_subs (s : State) (pa : Nat) (bs : List Byte) : (s.writePhys pa bs).subs = s.subs := rfl
@[simp] theorem State.writePhys_takenAt (s : State) (pa : Nat) (bs : List Byte) : (s.writePhys pa bs).takenAt = s.takenAt := rfl
@[simp] theorem State.writePhys_round (s : State) (pa : Nat) (bs : List Byte) : (s.writePhys pa bs).round = s.round := rfl
@[simp] theorem State.writePhys_rows (s : State) (pa : Nat) (bs : List Byte) : (s.writePhys pa bs).rows = s.rows := rfl
@[simp] theorem State.writePhys_gens (s : State) (pa : Nat) (bs : List Byte) : (s.writePhys pa bs).gens = s.gens := rfl
@[simp] theorem State.writePhys_genCtr (s : State) (pa : Nat) (bs : List Byte) : (s.writePhys pa bs).genCtr = s.genCtr := rfl
@[simp] theorem State.writePhys_edges (s : State) (pa : Nat) (bs : List Byte) : (s.writePhys pa bs).edges = s.edges := rfl
@[simp] theorem State.writePhys_mbox (s : State) (pa : Nat) (bs : List Byte) : (s.writePhys pa bs).mbox = s.mbox := rfl
@[simp] theorem State.writePhys_hostMem (s : State) (pa : Nat) (bs : List Byte) : (s.writePhys pa bs).hostMem = s.hostMem := rfl
@[simp] theorem State.writePhys_hostSeen (s : State) (pa : Nat) (bs : List Byte) : (s.writePhys pa bs).hostSeen = s.hostSeen := rfl
@[simp] theorem State.writePhys_wire (s : State) (pa : Nat) (bs : List Byte) : (s.writePhys pa bs).wire = s.wire := rfl
@[simp] theorem State.writePhys_hub (s : State) (pa : Nat) (bs : List Byte) : (s.writePhys pa bs).hub = s.hub := rfl

/-! ### `State.swapInst` -/

@[simp] theorem State.swapInst_core (s : State) (c : CoreId) : (s.swapInst c).core = s.core := rfl
@[simp] theorem State.swapInst_eng (s : State) (c : CoreId) : (s.swapInst c).eng = s.eng := rfl
@[simp] theorem State.swapInst_agenda (s : State) (c : CoreId) : (s.swapInst c).agenda = s.agenda := rfl
@[simp] theorem State.swapInst_turn (s : State) (c : CoreId) : (s.swapInst c).turn = s.turn := rfl
@[simp] theorem State.swapInst_freeCtr (s : State) (c : CoreId) : (s.swapInst c).freeCtr = s.freeCtr := rfl
@[simp] theorem State.swapInst_clk (s : State) (c : CoreId) : (s.swapInst c).clk = s.clk := rfl
@[simp] theorem State.swapInst_mem (s : State) (c : CoreId) : (s.swapInst c).mem = s.mem := rfl
@[simp] theorem State.swapInst_poison (s : State) (c : CoreId) : (s.swapInst c).poison = s.poison := rfl
@[simp] theorem State.swapInst_chanOut (s : State) (c : CoreId) : (s.swapInst c).chanOut = s.chanOut := rfl
@[simp] theorem State.swapInst_cxl (s : State) (c : CoreId) : (s.swapInst c).cxl = s.cxl := rfl
@[simp] theorem State.swapInst_dies (s : State) (c : CoreId) : (s.swapInst c).dies = s.dies := rfl
@[simp] theorem State.swapInst_parts (s : State) (c : CoreId) : (s.swapInst c).parts = s.parts := rfl
@[simp] theorem State.swapInst_ports (s : State) (c : CoreId) : (s.swapInst c).ports = s.ports := rfl
@[simp] theorem State.swapInst_launches (s : State) (c : CoreId) : (s.swapInst c).launches = s.launches := rfl
@[simp] theorem State.swapInst_nextId (s : State) (c : CoreId) : (s.swapInst c).nextId = s.nextId := rfl
@[simp] theorem State.swapInst_preCtr (s : State) (c : CoreId) : (s.swapInst c).preCtr = s.preCtr := rfl
@[simp] theorem State.swapInst_subs (s : State) (c : CoreId) : (s.swapInst c).subs = s.subs := rfl
@[simp] theorem State.swapInst_takenAt (s : State) (c : CoreId) : (s.swapInst c).takenAt = s.takenAt := rfl
@[simp] theorem State.swapInst_round (s : State) (c : CoreId) : (s.swapInst c).round = s.round := rfl
@[simp] theorem State.swapInst_rows (s : State) (c : CoreId) : (s.swapInst c).rows = s.rows := rfl
@[simp] theorem State.swapInst_gens (s : State) (c : CoreId) : (s.swapInst c).gens = s.gens := rfl
@[simp] theorem State.swapInst_genCtr (s : State) (c : CoreId) : (s.swapInst c).genCtr = s.genCtr := rfl
@[simp] theorem State.swapInst_edges (s : State) (c : CoreId) : (s.swapInst c).edges = s.edges := rfl
@[simp] theorem State.swapInst_mbox (s : State) (c : CoreId) : (s.swapInst c).mbox = s.mbox := rfl
@[simp] theorem State.swapInst_hostMem (s : State) (c : CoreId) : (s.swapInst c).hostMem = s.hostMem := rfl
@[simp] theorem State.swapInst_hostSeen (s : State) (c : CoreId) : (s.swapInst c).hostSeen = s.hostSeen := rfl
@[simp] theorem State.swapInst_wire (s : State) (c : CoreId) : (s.swapInst c).wire = s.wire := rfl
@[simp] theorem State.swapInst_hub (s : State) (c : CoreId) : (s.swapInst c).hub = s.hub := rfl

/-! ### `State.writeS` -/

@[simp] theorem State.writeS_core (s : State) (c : CoreId) (o : Nat) (bs : List Byte) : (s.writeS c o bs).core = s.core := rfl
@[simp] theorem State.writeS_eng (s : State) (c : CoreId) (o : Nat) (bs : List Byte) : (s.writeS c o bs).eng = s.eng := rfl
@[simp] theorem State.writeS_agenda (s : State) (c : CoreId) (o : Nat) (bs : List Byte) : (s.writeS c o bs).agenda = s.agenda := rfl
@[simp] theorem State.writeS_turn (s : State) (c : CoreId) (o : Nat) (bs : List Byte) : (s.writeS c o bs).turn = s.turn := rfl
@[simp] theorem State.writeS_freeCtr (s : State) (c : CoreId) (o : Nat) (bs : List Byte) : (s.writeS c o bs).freeCtr = s.freeCtr := rfl
@[simp] theorem State.writeS_clk (s : State) (c : CoreId) (o : Nat) (bs : List Byte) : (s.writeS c o bs).clk = s.clk := rfl
@[simp] theorem State.writeS_mem (s : State) (c : CoreId) (o : Nat) (bs : List Byte) : (s.writeS c o bs).mem = s.mem := rfl
@[simp] theorem State.writeS_poison (s : State) (c : CoreId) (o : Nat) (bs : List Byte) : (s.writeS c o bs).poison = s.poison := rfl
@[simp] theorem State.writeS_chanOut (s : State) (c : CoreId) (o : Nat) (bs : List Byte) : (s.writeS c o bs).chanOut = s.chanOut := rfl
@[simp] theorem State.writeS_cxl (s : State) (c : CoreId) (o : Nat) (bs : List Byte) : (s.writeS c o bs).cxl = s.cxl := rfl
@[simp] theorem State.writeS_dies (s : State) (c : CoreId) (o : Nat) (bs : List Byte) : (s.writeS c o bs).dies = s.dies := rfl
@[simp] theorem State.writeS_parts (s : State) (c : CoreId) (o : Nat) (bs : List Byte) : (s.writeS c o bs).parts = s.parts := rfl
@[simp] theorem State.writeS_ports (s : State) (c : CoreId) (o : Nat) (bs : List Byte) : (s.writeS c o bs).ports = s.ports := rfl
@[simp] theorem State.writeS_launches (s : State) (c : CoreId) (o : Nat) (bs : List Byte) : (s.writeS c o bs).launches = s.launches := rfl
@[simp] theorem State.writeS_nextId (s : State) (c : CoreId) (o : Nat) (bs : List Byte) : (s.writeS c o bs).nextId = s.nextId := rfl
@[simp] theorem State.writeS_preCtr (s : State) (c : CoreId) (o : Nat) (bs : List Byte) : (s.writeS c o bs).preCtr = s.preCtr := rfl
@[simp] theorem State.writeS_subs (s : State) (c : CoreId) (o : Nat) (bs : List Byte) : (s.writeS c o bs).subs = s.subs := rfl
@[simp] theorem State.writeS_takenAt (s : State) (c : CoreId) (o : Nat) (bs : List Byte) : (s.writeS c o bs).takenAt = s.takenAt := rfl
@[simp] theorem State.writeS_round (s : State) (c : CoreId) (o : Nat) (bs : List Byte) : (s.writeS c o bs).round = s.round := rfl
@[simp] theorem State.writeS_rows (s : State) (c : CoreId) (o : Nat) (bs : List Byte) : (s.writeS c o bs).rows = s.rows := rfl
@[simp] theorem State.writeS_gens (s : State) (c : CoreId) (o : Nat) (bs : List Byte) : (s.writeS c o bs).gens = s.gens := rfl
@[simp] theorem State.writeS_genCtr (s : State) (c : CoreId) (o : Nat) (bs : List Byte) : (s.writeS c o bs).genCtr = s.genCtr := rfl
@[simp] theorem State.writeS_edges (s : State) (c : CoreId) (o : Nat) (bs : List Byte) : (s.writeS c o bs).edges = s.edges := rfl
@[simp] theorem State.writeS_mbox (s : State) (c : CoreId) (o : Nat) (bs : List Byte) : (s.writeS c o bs).mbox = s.mbox := rfl
@[simp] theorem State.writeS_hostMem (s : State) (c : CoreId) (o : Nat) (bs : List Byte) : (s.writeS c o bs).hostMem = s.hostMem := rfl
@[simp] theorem State.writeS_hostSeen (s : State) (c : CoreId) (o : Nat) (bs : List Byte) : (s.writeS c o bs).hostSeen = s.hostSeen := rfl
@[simp] theorem State.writeS_wire (s : State) (c : CoreId) (o : Nat) (bs : List Byte) : (s.writeS c o bs).wire = s.wire := rfl
@[simp] theorem State.writeS_hub (s : State) (c : CoreId) (o : Nat) (bs : List Byte) : (s.writeS c o bs).hub = s.hub := rfl

/-! ### `State.notify` -/

@[simp] theorem State.notify_core (s : State) (n : Notif) : (s.notify n).core = s.core := by unfold State.notify; split <;> rfl
@[simp] theorem State.notify_eng (s : State) (n : Notif) : (s.notify n).eng = s.eng := by unfold State.notify; split <;> rfl
@[simp] theorem State.notify_agenda (s : State) (n : Notif) : (s.notify n).agenda = s.agenda := by unfold State.notify; split <;> rfl
@[simp] theorem State.notify_turn (s : State) (n : Notif) : (s.notify n).turn = s.turn := by unfold State.notify; split <;> rfl
@[simp] theorem State.notify_freeCtr (s : State) (n : Notif) : (s.notify n).freeCtr = s.freeCtr := by unfold State.notify; split <;> rfl
@[simp] theorem State.notify_clk (s : State) (n : Notif) : (s.notify n).clk = s.clk := by unfold State.notify; split <;> rfl
@[simp] theorem State.notify_mem (s : State) (n : Notif) : (s.notify n).mem = s.mem := by unfold State.notify; split <;> rfl
@[simp] theorem State.notify_poison (s : State) (n : Notif) : (s.notify n).poison = s.poison := by unfold State.notify; split <;> rfl
@[simp] theorem State.notify_chanOut (s : State) (n : Notif) : (s.notify n).chanOut = s.chanOut := by unfold State.notify; split <;> rfl
@[simp] theorem State.notify_cxl (s : State) (n : Notif) : (s.notify n).cxl = s.cxl := by unfold State.notify; split <;> rfl
@[simp] theorem State.notify_cores (s : State) (n : Notif) : (s.notify n).cores = s.cores := by unfold State.notify; split <;> rfl
@[simp] theorem State.notify_dies (s : State) (n : Notif) : (s.notify n).dies = s.dies := by unfold State.notify; split <;> rfl
@[simp] theorem State.notify_parts (s : State) (n : Notif) : (s.notify n).parts = s.parts := by unfold State.notify; split <;> rfl
@[simp] theorem State.notify_ports (s : State) (n : Notif) : (s.notify n).ports = s.ports := by unfold State.notify; split <;> rfl
@[simp] theorem State.notify_launches (s : State) (n : Notif) : (s.notify n).launches = s.launches := by unfold State.notify; split <;> rfl
@[simp] theorem State.notify_nextId (s : State) (n : Notif) : (s.notify n).nextId = s.nextId := by unfold State.notify; split <;> rfl
@[simp] theorem State.notify_preCtr (s : State) (n : Notif) : (s.notify n).preCtr = s.preCtr := by unfold State.notify; split <;> rfl
@[simp] theorem State.notify_subs (s : State) (n : Notif) : (s.notify n).subs = s.subs := by unfold State.notify; split <;> rfl
@[simp] theorem State.notify_takenAt (s : State) (n : Notif) : (s.notify n).takenAt = s.takenAt := by unfold State.notify; split <;> rfl
@[simp] theorem State.notify_round (s : State) (n : Notif) : (s.notify n).round = s.round := by unfold State.notify; split <;> rfl
@[simp] theorem State.notify_rows (s : State) (n : Notif) : (s.notify n).rows = s.rows := by unfold State.notify; split <;> rfl
@[simp] theorem State.notify_gens (s : State) (n : Notif) : (s.notify n).gens = s.gens := by unfold State.notify; split <;> rfl
@[simp] theorem State.notify_genCtr (s : State) (n : Notif) : (s.notify n).genCtr = s.genCtr := by unfold State.notify; split <;> rfl
@[simp] theorem State.notify_links (s : State) (n : Notif) : (s.notify n).links = s.links := by unfold State.notify; split <;> rfl
@[simp] theorem State.notify_edges (s : State) (n : Notif) : (s.notify n).edges = s.edges := by unfold State.notify; split <;> rfl
@[simp] theorem State.notify_mbox (s : State) (n : Notif) : (s.notify n).mbox = s.mbox := by unfold State.notify; split <;> rfl
@[simp] theorem State.notify_hostMem (s : State) (n : Notif) : (s.notify n).hostMem = s.hostMem := by unfold State.notify; split <;> rfl
@[simp] theorem State.notify_hostSeen (s : State) (n : Notif) : (s.notify n).hostSeen = s.hostSeen := by unfold State.notify; split <;> rfl
@[simp] theorem State.notify_wire (s : State) (n : Notif) : (s.notify n).wire = s.wire := by unfold State.notify; split <;> rfl

/-! ### `State.freezeEng` -/

@[simp] theorem State.freezeEng_core (s : State) (c : CoreId) (e : EngId) (k a : Nat) : (s.freezeEng c e k a).core = s.core := by
  simp [State.freezeEng, State.notifyFreeze]
@[simp] theorem State.freezeEng_eng (s : State) (c : CoreId) (e : EngId) (k a : Nat) : (s.freezeEng c e k a).eng = s.eng := by
  simp [State.freezeEng, State.notifyFreeze]
@[simp] theorem State.freezeEng_agenda (s : State) (c : CoreId) (e : EngId) (k a : Nat) : (s.freezeEng c e k a).agenda = s.agenda := by
  simp [State.freezeEng, State.notifyFreeze]
@[simp] theorem State.freezeEng_turn (s : State) (c : CoreId) (e : EngId) (k a : Nat) : (s.freezeEng c e k a).turn = s.turn := by
  simp [State.freezeEng, State.notifyFreeze]
@[simp] theorem State.freezeEng_freeCtr (s : State) (c : CoreId) (e : EngId) (k a : Nat) : (s.freezeEng c e k a).freeCtr = s.freeCtr := by
  simp [State.freezeEng, State.notifyFreeze]
@[simp] theorem State.freezeEng_clk (s : State) (c : CoreId) (e : EngId) (k a : Nat) : (s.freezeEng c e k a).clk = s.clk := by
  simp [State.freezeEng, State.notifyFreeze]
@[simp] theorem State.freezeEng_mem (s : State) (c : CoreId) (e : EngId) (k a : Nat) : (s.freezeEng c e k a).mem = s.mem := by
  simp [State.freezeEng, State.notifyFreeze]
@[simp] theorem State.freezeEng_poison (s : State) (c : CoreId) (e : EngId) (k a : Nat) : (s.freezeEng c e k a).poison = s.poison := by
  simp [State.freezeEng, State.notifyFreeze]
@[simp] theorem State.freezeEng_chanOut (s : State) (c : CoreId) (e : EngId) (k a : Nat) : (s.freezeEng c e k a).chanOut = s.chanOut := by
  simp [State.freezeEng, State.notifyFreeze]
@[simp] theorem State.freezeEng_cxl (s : State) (c : CoreId) (e : EngId) (k a : Nat) : (s.freezeEng c e k a).cxl = s.cxl := by
  simp [State.freezeEng, State.notifyFreeze]
@[simp] theorem State.freezeEng_dies (s : State) (c : CoreId) (e : EngId) (k a : Nat) : (s.freezeEng c e k a).dies = s.dies := by
  simp [State.freezeEng, State.notifyFreeze]
@[simp] theorem State.freezeEng_parts (s : State) (c : CoreId) (e : EngId) (k a : Nat) : (s.freezeEng c e k a).parts = s.parts := by
  simp [State.freezeEng, State.notifyFreeze]
@[simp] theorem State.freezeEng_ports (s : State) (c : CoreId) (e : EngId) (k a : Nat) : (s.freezeEng c e k a).ports = s.ports := by
  simp [State.freezeEng, State.notifyFreeze]
@[simp] theorem State.freezeEng_launches (s : State) (c : CoreId) (e : EngId) (k a : Nat) : (s.freezeEng c e k a).launches = s.launches := by
  simp [State.freezeEng, State.notifyFreeze]
@[simp] theorem State.freezeEng_nextId (s : State) (c : CoreId) (e : EngId) (k a : Nat) : (s.freezeEng c e k a).nextId = s.nextId := by
  simp [State.freezeEng, State.notifyFreeze]
@[simp] theorem State.freezeEng_preCtr (s : State) (c : CoreId) (e : EngId) (k a : Nat) : (s.freezeEng c e k a).preCtr = s.preCtr := by
  simp [State.freezeEng, State.notifyFreeze]
@[simp] theorem State.freezeEng_subs (s : State) (c : CoreId) (e : EngId) (k a : Nat) : (s.freezeEng c e k a).subs = s.subs := by
  simp [State.freezeEng, State.notifyFreeze]
@[simp] theorem State.freezeEng_takenAt (s : State) (c : CoreId) (e : EngId) (k a : Nat) : (s.freezeEng c e k a).takenAt = s.takenAt := by
  simp [State.freezeEng, State.notifyFreeze]
@[simp] theorem State.freezeEng_round (s : State) (c : CoreId) (e : EngId) (k a : Nat) : (s.freezeEng c e k a).round = s.round := by
  simp [State.freezeEng, State.notifyFreeze]
@[simp] theorem State.freezeEng_rows (s : State) (c : CoreId) (e : EngId) (k a : Nat) : (s.freezeEng c e k a).rows = s.rows := by
  simp [State.freezeEng, State.notifyFreeze]
@[simp] theorem State.freezeEng_gens (s : State) (c : CoreId) (e : EngId) (k a : Nat) : (s.freezeEng c e k a).gens = s.gens := by
  simp [State.freezeEng, State.notifyFreeze]
@[simp] theorem State.freezeEng_genCtr (s : State) (c : CoreId) (e : EngId) (k a : Nat) : (s.freezeEng c e k a).genCtr = s.genCtr := by
  simp [State.freezeEng, State.notifyFreeze]
@[simp] theorem State.freezeEng_links (s : State) (c : CoreId) (e : EngId) (k a : Nat) : (s.freezeEng c e k a).links = s.links := by
  simp [State.freezeEng, State.notifyFreeze]
@[simp] theorem State.freezeEng_edges (s : State) (c : CoreId) (e : EngId) (k a : Nat) : (s.freezeEng c e k a).edges = s.edges := by
  simp [State.freezeEng, State.notifyFreeze]
@[simp] theorem State.freezeEng_mbox (s : State) (c : CoreId) (e : EngId) (k a : Nat) : (s.freezeEng c e k a).mbox = s.mbox := by
  simp [State.freezeEng, State.notifyFreeze]
@[simp] theorem State.freezeEng_hostMem (s : State) (c : CoreId) (e : EngId) (k a : Nat) : (s.freezeEng c e k a).hostMem = s.hostMem := by
  simp [State.freezeEng, State.notifyFreeze]
@[simp] theorem State.freezeEng_hostSeen (s : State) (c : CoreId) (e : EngId) (k a : Nat) : (s.freezeEng c e k a).hostSeen = s.hostSeen := by
  simp [State.freezeEng, State.notifyFreeze]
@[simp] theorem State.freezeEng_wire (s : State) (c : CoreId) (e : EngId) (k a : Nat) : (s.freezeEng c e k a).wire = s.wire := by
  simp [State.freezeEng, State.notifyFreeze]

/-! ### Taking an exception -/

@[simp] theorem State.enterTrap_core (s : State) (c : CoreId) (e : EngId) (x : Trap) : (s.enterTrap c e x).core = s.core := rfl
@[simp] theorem State.enterTrap_eng (s : State) (c : CoreId) (e : EngId) (x : Trap) : (s.enterTrap c e x).eng = s.eng := rfl
@[simp] theorem State.enterTrap_agenda (s : State) (c : CoreId) (e : EngId) (x : Trap) : (s.enterTrap c e x).agenda = s.agenda := rfl
@[simp] theorem State.enterTrap_turn (s : State) (c : CoreId) (e : EngId) (x : Trap) : (s.enterTrap c e x).turn = s.turn := rfl
@[simp] theorem State.enterTrap_freeCtr (s : State) (c : CoreId) (e : EngId) (x : Trap) : (s.enterTrap c e x).freeCtr = s.freeCtr := rfl
@[simp] theorem State.enterTrap_clk (s : State) (c : CoreId) (e : EngId) (x : Trap) : (s.enterTrap c e x).clk = s.clk := rfl
@[simp] theorem State.enterTrap_mem (s : State) (c : CoreId) (e : EngId) (x : Trap) : (s.enterTrap c e x).mem = s.mem := rfl
@[simp] theorem State.enterTrap_poison (s : State) (c : CoreId) (e : EngId) (x : Trap) : (s.enterTrap c e x).poison = s.poison := rfl
@[simp] theorem State.enterTrap_chanOut (s : State) (c : CoreId) (e : EngId) (x : Trap) : (s.enterTrap c e x).chanOut = s.chanOut := rfl
@[simp] theorem State.enterTrap_cxl (s : State) (c : CoreId) (e : EngId) (x : Trap) : (s.enterTrap c e x).cxl = s.cxl := rfl
@[simp] theorem State.enterTrap_dies (s : State) (c : CoreId) (e : EngId) (x : Trap) : (s.enterTrap c e x).dies = s.dies := rfl
@[simp] theorem State.enterTrap_parts (s : State) (c : CoreId) (e : EngId) (x : Trap) : (s.enterTrap c e x).parts = s.parts := rfl
@[simp] theorem State.enterTrap_ports (s : State) (c : CoreId) (e : EngId) (x : Trap) : (s.enterTrap c e x).ports = s.ports := rfl
@[simp] theorem State.enterTrap_launches (s : State) (c : CoreId) (e : EngId) (x : Trap) : (s.enterTrap c e x).launches = s.launches := rfl
@[simp] theorem State.enterTrap_nextId (s : State) (c : CoreId) (e : EngId) (x : Trap) : (s.enterTrap c e x).nextId = s.nextId := rfl
@[simp] theorem State.enterTrap_preCtr (s : State) (c : CoreId) (e : EngId) (x : Trap) : (s.enterTrap c e x).preCtr = s.preCtr := rfl
@[simp] theorem State.enterTrap_subs (s : State) (c : CoreId) (e : EngId) (x : Trap) : (s.enterTrap c e x).subs = s.subs := rfl
@[simp] theorem State.enterTrap_takenAt (s : State) (c : CoreId) (e : EngId) (x : Trap) : (s.enterTrap c e x).takenAt = s.takenAt := rfl
@[simp] theorem State.enterTrap_round (s : State) (c : CoreId) (e : EngId) (x : Trap) : (s.enterTrap c e x).round = s.round := rfl
@[simp] theorem State.enterTrap_rows (s : State) (c : CoreId) (e : EngId) (x : Trap) : (s.enterTrap c e x).rows = s.rows := rfl
@[simp] theorem State.enterTrap_gens (s : State) (c : CoreId) (e : EngId) (x : Trap) : (s.enterTrap c e x).gens = s.gens := rfl
@[simp] theorem State.enterTrap_genCtr (s : State) (c : CoreId) (e : EngId) (x : Trap) : (s.enterTrap c e x).genCtr = s.genCtr := rfl
@[simp] theorem State.enterTrap_links (s : State) (c : CoreId) (e : EngId) (x : Trap) : (s.enterTrap c e x).links = s.links := rfl
@[simp] theorem State.enterTrap_edges (s : State) (c : CoreId) (e : EngId) (x : Trap) : (s.enterTrap c e x).edges = s.edges := rfl
@[simp] theorem State.enterTrap_mbox (s : State) (c : CoreId) (e : EngId) (x : Trap) : (s.enterTrap c e x).mbox = s.mbox := rfl
@[simp] theorem State.enterTrap_hostMem (s : State) (c : CoreId) (e : EngId) (x : Trap) : (s.enterTrap c e x).hostMem = s.hostMem := rfl
@[simp] theorem State.enterTrap_hostSeen (s : State) (c : CoreId) (e : EngId) (x : Trap) : (s.enterTrap c e x).hostSeen = s.hostSeen := rfl
@[simp] theorem State.enterTrap_wire (s : State) (c : CoreId) (e : EngId) (x : Trap) : (s.enterTrap c e x).wire = s.wire := rfl
@[simp] theorem State.enterTrap_hub (s : State) (c : CoreId) (e : EngId) (x : Trap) : (s.enterTrap c e x).hub = s.hub := rfl
@[simp] theorem State.raiseTrap_core (s : State) (c : CoreId) (e : EngId) (x : Trap) : (s.raiseTrap c e x).core = s.core := by
  unfold State.raiseTrap; dsimp only; split; · simp
  · split <;> simp
@[simp] theorem State.raiseTrap_eng (s : State) (c : CoreId) (e : EngId) (x : Trap) : (s.raiseTrap c e x).eng = s.eng := by
  unfold State.raiseTrap; dsimp only; split; · simp
  · split <;> simp
@[simp] theorem State.raiseTrap_agenda (s : State) (c : CoreId) (e : EngId) (x : Trap) : (s.raiseTrap c e x).agenda = s.agenda := by
  unfold State.raiseTrap; dsimp only; split; · simp
  · split <;> simp
@[simp] theorem State.raiseTrap_turn (s : State) (c : CoreId) (e : EngId) (x : Trap) : (s.raiseTrap c e x).turn = s.turn := by
  unfold State.raiseTrap; dsimp only; split; · simp
  · split <;> simp
@[simp] theorem State.raiseTrap_freeCtr (s : State) (c : CoreId) (e : EngId) (x : Trap) : (s.raiseTrap c e x).freeCtr = s.freeCtr := by
  unfold State.raiseTrap; dsimp only; split; · simp
  · split <;> simp
@[simp] theorem State.raiseTrap_clk (s : State) (c : CoreId) (e : EngId) (x : Trap) : (s.raiseTrap c e x).clk = s.clk := by
  unfold State.raiseTrap; dsimp only; split; · simp
  · split <;> simp
@[simp] theorem State.raiseTrap_mem (s : State) (c : CoreId) (e : EngId) (x : Trap) : (s.raiseTrap c e x).mem = s.mem := by
  unfold State.raiseTrap; dsimp only; split; · simp
  · split <;> simp
@[simp] theorem State.raiseTrap_poison (s : State) (c : CoreId) (e : EngId) (x : Trap) : (s.raiseTrap c e x).poison = s.poison := by
  unfold State.raiseTrap; dsimp only; split; · simp
  · split <;> simp
@[simp] theorem State.raiseTrap_chanOut (s : State) (c : CoreId) (e : EngId) (x : Trap) : (s.raiseTrap c e x).chanOut = s.chanOut := by
  unfold State.raiseTrap; dsimp only; split; · simp
  · split <;> simp
@[simp] theorem State.raiseTrap_cxl (s : State) (c : CoreId) (e : EngId) (x : Trap) : (s.raiseTrap c e x).cxl = s.cxl := by
  unfold State.raiseTrap; dsimp only; split; · simp
  · split <;> simp
@[simp] theorem State.raiseTrap_dies (s : State) (c : CoreId) (e : EngId) (x : Trap) : (s.raiseTrap c e x).dies = s.dies := by
  unfold State.raiseTrap; dsimp only; split; · simp
  · split <;> simp
@[simp] theorem State.raiseTrap_parts (s : State) (c : CoreId) (e : EngId) (x : Trap) : (s.raiseTrap c e x).parts = s.parts := by
  unfold State.raiseTrap; dsimp only; split; · simp
  · split <;> simp
@[simp] theorem State.raiseTrap_ports (s : State) (c : CoreId) (e : EngId) (x : Trap) : (s.raiseTrap c e x).ports = s.ports := by
  unfold State.raiseTrap; dsimp only; split; · simp
  · split <;> simp
@[simp] theorem State.raiseTrap_launches (s : State) (c : CoreId) (e : EngId) (x : Trap) : (s.raiseTrap c e x).launches = s.launches := by
  unfold State.raiseTrap; dsimp only; split; · simp
  · split <;> simp
@[simp] theorem State.raiseTrap_nextId (s : State) (c : CoreId) (e : EngId) (x : Trap) : (s.raiseTrap c e x).nextId = s.nextId := by
  unfold State.raiseTrap; dsimp only; split; · simp
  · split <;> simp
@[simp] theorem State.raiseTrap_preCtr (s : State) (c : CoreId) (e : EngId) (x : Trap) : (s.raiseTrap c e x).preCtr = s.preCtr := by
  unfold State.raiseTrap; dsimp only; split; · simp
  · split <;> simp
@[simp] theorem State.raiseTrap_subs (s : State) (c : CoreId) (e : EngId) (x : Trap) : (s.raiseTrap c e x).subs = s.subs := by
  unfold State.raiseTrap; dsimp only; split; · simp
  · split <;> simp
@[simp] theorem State.raiseTrap_takenAt (s : State) (c : CoreId) (e : EngId) (x : Trap) : (s.raiseTrap c e x).takenAt = s.takenAt := by
  unfold State.raiseTrap; dsimp only; split; · simp
  · split <;> simp
@[simp] theorem State.raiseTrap_round (s : State) (c : CoreId) (e : EngId) (x : Trap) : (s.raiseTrap c e x).round = s.round := by
  unfold State.raiseTrap; dsimp only; split; · simp
  · split <;> simp
@[simp] theorem State.raiseTrap_rows (s : State) (c : CoreId) (e : EngId) (x : Trap) : (s.raiseTrap c e x).rows = s.rows := by
  unfold State.raiseTrap; dsimp only; split; · simp
  · split <;> simp
@[simp] theorem State.raiseTrap_gens (s : State) (c : CoreId) (e : EngId) (x : Trap) : (s.raiseTrap c e x).gens = s.gens := by
  unfold State.raiseTrap; dsimp only; split; · simp
  · split <;> simp
@[simp] theorem State.raiseTrap_genCtr (s : State) (c : CoreId) (e : EngId) (x : Trap) : (s.raiseTrap c e x).genCtr = s.genCtr := by
  unfold State.raiseTrap; dsimp only; split; · simp
  · split <;> simp
@[simp] theorem State.raiseTrap_links (s : State) (c : CoreId) (e : EngId) (x : Trap) : (s.raiseTrap c e x).links = s.links := by
  unfold State.raiseTrap; dsimp only; split; · simp
  · split <;> simp
@[simp] theorem State.raiseTrap_edges (s : State) (c : CoreId) (e : EngId) (x : Trap) : (s.raiseTrap c e x).edges = s.edges := by
  unfold State.raiseTrap; dsimp only; split; · simp
  · split <;> simp
@[simp] theorem State.raiseTrap_mbox (s : State) (c : CoreId) (e : EngId) (x : Trap) : (s.raiseTrap c e x).mbox = s.mbox := by
  unfold State.raiseTrap; dsimp only; split; · simp
  · split <;> simp
@[simp] theorem State.raiseTrap_hostMem (s : State) (c : CoreId) (e : EngId) (x : Trap) : (s.raiseTrap c e x).hostMem = s.hostMem := by
  unfold State.raiseTrap; dsimp only; split; · simp
  · split <;> simp
@[simp] theorem State.raiseTrap_hostSeen (s : State) (c : CoreId) (e : EngId) (x : Trap) : (s.raiseTrap c e x).hostSeen = s.hostSeen := by
  unfold State.raiseTrap; dsimp only; split; · simp
  · split <;> simp
@[simp] theorem State.raiseTrap_wire (s : State) (c : CoreId) (e : EngId) (x : Trap) : (s.raiseTrap c e x).wire = s.wire := by
  unfold State.raiseTrap; dsimp only; split; · simp
  · split <;> simp
@[simp] theorem State.trapMe_core (s : State) (k : Nat) (i : Word) : (s.trapMe k i).core = s.core := by simp [State.trapMe]
@[simp] theorem State.trapMe_eng (s : State) (k : Nat) (i : Word) : (s.trapMe k i).eng = s.eng := by simp [State.trapMe]
@[simp] theorem State.trapMe_agenda (s : State) (k : Nat) (i : Word) : (s.trapMe k i).agenda = s.agenda := by simp [State.trapMe]
@[simp] theorem State.trapMe_turn (s : State) (k : Nat) (i : Word) : (s.trapMe k i).turn = s.turn := by simp [State.trapMe]
@[simp] theorem State.trapMe_freeCtr (s : State) (k : Nat) (i : Word) : (s.trapMe k i).freeCtr = s.freeCtr := by simp [State.trapMe]
@[simp] theorem State.trapMe_clk (s : State) (k : Nat) (i : Word) : (s.trapMe k i).clk = s.clk := by simp [State.trapMe]
@[simp] theorem State.trapMe_mem (s : State) (k : Nat) (i : Word) : (s.trapMe k i).mem = s.mem := by simp [State.trapMe]
@[simp] theorem State.trapMe_poison (s : State) (k : Nat) (i : Word) : (s.trapMe k i).poison = s.poison := by simp [State.trapMe]
@[simp] theorem State.trapMe_chanOut (s : State) (k : Nat) (i : Word) : (s.trapMe k i).chanOut = s.chanOut := by simp [State.trapMe]
@[simp] theorem State.trapMe_cxl (s : State) (k : Nat) (i : Word) : (s.trapMe k i).cxl = s.cxl := by simp [State.trapMe]
@[simp] theorem State.trapMe_dies (s : State) (k : Nat) (i : Word) : (s.trapMe k i).dies = s.dies := by simp [State.trapMe]
@[simp] theorem State.trapMe_parts (s : State) (k : Nat) (i : Word) : (s.trapMe k i).parts = s.parts := by simp [State.trapMe]
@[simp] theorem State.trapMe_ports (s : State) (k : Nat) (i : Word) : (s.trapMe k i).ports = s.ports := by simp [State.trapMe]
@[simp] theorem State.trapMe_launches (s : State) (k : Nat) (i : Word) : (s.trapMe k i).launches = s.launches := by simp [State.trapMe]
@[simp] theorem State.trapMe_nextId (s : State) (k : Nat) (i : Word) : (s.trapMe k i).nextId = s.nextId := by simp [State.trapMe]
@[simp] theorem State.trapMe_preCtr (s : State) (k : Nat) (i : Word) : (s.trapMe k i).preCtr = s.preCtr := by simp [State.trapMe]
@[simp] theorem State.trapMe_subs (s : State) (k : Nat) (i : Word) : (s.trapMe k i).subs = s.subs := by simp [State.trapMe]
@[simp] theorem State.trapMe_takenAt (s : State) (k : Nat) (i : Word) : (s.trapMe k i).takenAt = s.takenAt := by simp [State.trapMe]
@[simp] theorem State.trapMe_round (s : State) (k : Nat) (i : Word) : (s.trapMe k i).round = s.round := by simp [State.trapMe]
@[simp] theorem State.trapMe_rows (s : State) (k : Nat) (i : Word) : (s.trapMe k i).rows = s.rows := by simp [State.trapMe]
@[simp] theorem State.trapMe_gens (s : State) (k : Nat) (i : Word) : (s.trapMe k i).gens = s.gens := by simp [State.trapMe]
@[simp] theorem State.trapMe_genCtr (s : State) (k : Nat) (i : Word) : (s.trapMe k i).genCtr = s.genCtr := by simp [State.trapMe]
@[simp] theorem State.trapMe_links (s : State) (k : Nat) (i : Word) : (s.trapMe k i).links = s.links := by simp [State.trapMe]
@[simp] theorem State.trapMe_edges (s : State) (k : Nat) (i : Word) : (s.trapMe k i).edges = s.edges := by simp [State.trapMe]
@[simp] theorem State.trapMe_mbox (s : State) (k : Nat) (i : Word) : (s.trapMe k i).mbox = s.mbox := by simp [State.trapMe]
@[simp] theorem State.trapMe_hostMem (s : State) (k : Nat) (i : Word) : (s.trapMe k i).hostMem = s.hostMem := by simp [State.trapMe]
@[simp] theorem State.trapMe_hostSeen (s : State) (k : Nat) (i : Word) : (s.trapMe k i).hostSeen = s.hostSeen := by simp [State.trapMe]
@[simp] theorem State.trapMe_wire (s : State) (k : Nat) (i : Word) : (s.trapMe k i).wire = s.wire := by simp [State.trapMe]

/-! ### `State.writeLoc` -/

@[simp] theorem State.writeLoc_core (s : State) (l : Loc) (bs : List Byte) : (s.writeLoc l bs).core = s.core := by cases l <;> rfl
@[simp] theorem State.writeLoc_eng (s : State) (l : Loc) (bs : List Byte) : (s.writeLoc l bs).eng = s.eng := by cases l <;> rfl
@[simp] theorem State.writeLoc_agenda (s : State) (l : Loc) (bs : List Byte) : (s.writeLoc l bs).agenda = s.agenda := by cases l <;> rfl
@[simp] theorem State.writeLoc_turn (s : State) (l : Loc) (bs : List Byte) : (s.writeLoc l bs).turn = s.turn := by cases l <;> rfl
@[simp] theorem State.writeLoc_freeCtr (s : State) (l : Loc) (bs : List Byte) : (s.writeLoc l bs).freeCtr = s.freeCtr := by cases l <;> rfl
@[simp] theorem State.writeLoc_clk (s : State) (l : Loc) (bs : List Byte) : (s.writeLoc l bs).clk = s.clk := by cases l <;> rfl
@[simp] theorem State.writeLoc_chanOut (s : State) (l : Loc) (bs : List Byte) : (s.writeLoc l bs).chanOut = s.chanOut := by cases l <;> rfl
@[simp] theorem State.writeLoc_cxl (s : State) (l : Loc) (bs : List Byte) : (s.writeLoc l bs).cxl = s.cxl := by cases l <;> rfl
@[simp] theorem State.writeLoc_dies (s : State) (l : Loc) (bs : List Byte) : (s.writeLoc l bs).dies = s.dies := by cases l <;> rfl
@[simp] theorem State.writeLoc_parts (s : State) (l : Loc) (bs : List Byte) : (s.writeLoc l bs).parts = s.parts := by cases l <;> rfl
@[simp] theorem State.writeLoc_ports (s : State) (l : Loc) (bs : List Byte) : (s.writeLoc l bs).ports = s.ports := by cases l <;> rfl
@[simp] theorem State.writeLoc_launches (s : State) (l : Loc) (bs : List Byte) : (s.writeLoc l bs).launches = s.launches := by cases l <;> rfl
@[simp] theorem State.writeLoc_nextId (s : State) (l : Loc) (bs : List Byte) : (s.writeLoc l bs).nextId = s.nextId := by cases l <;> rfl
@[simp] theorem State.writeLoc_preCtr (s : State) (l : Loc) (bs : List Byte) : (s.writeLoc l bs).preCtr = s.preCtr := by cases l <;> rfl
@[simp] theorem State.writeLoc_subs (s : State) (l : Loc) (bs : List Byte) : (s.writeLoc l bs).subs = s.subs := by cases l <;> rfl
@[simp] theorem State.writeLoc_takenAt (s : State) (l : Loc) (bs : List Byte) : (s.writeLoc l bs).takenAt = s.takenAt := by cases l <;> rfl
@[simp] theorem State.writeLoc_round (s : State) (l : Loc) (bs : List Byte) : (s.writeLoc l bs).round = s.round := by cases l <;> rfl
@[simp] theorem State.writeLoc_rows (s : State) (l : Loc) (bs : List Byte) : (s.writeLoc l bs).rows = s.rows := by cases l <;> rfl
@[simp] theorem State.writeLoc_gens (s : State) (l : Loc) (bs : List Byte) : (s.writeLoc l bs).gens = s.gens := by cases l <;> rfl
@[simp] theorem State.writeLoc_genCtr (s : State) (l : Loc) (bs : List Byte) : (s.writeLoc l bs).genCtr = s.genCtr := by cases l <;> rfl
@[simp] theorem State.writeLoc_edges (s : State) (l : Loc) (bs : List Byte) : (s.writeLoc l bs).edges = s.edges := by cases l <;> rfl
@[simp] theorem State.writeLoc_mbox (s : State) (l : Loc) (bs : List Byte) : (s.writeLoc l bs).mbox = s.mbox := by cases l <;> rfl
@[simp] theorem State.writeLoc_hostMem (s : State) (l : Loc) (bs : List Byte) : (s.writeLoc l bs).hostMem = s.hostMem := by cases l <;> rfl
@[simp] theorem State.writeLoc_hostSeen (s : State) (l : Loc) (bs : List Byte) : (s.writeLoc l bs).hostSeen = s.hostSeen := by cases l <;> rfl
@[simp] theorem State.writeLoc_wire (s : State) (l : Loc) (bs : List Byte) : (s.writeLoc l bs).wire = s.wire := by cases l <;> rfl
@[simp] theorem State.writeLoc_hub (s : State) (l : Loc) (bs : List Byte) : (s.writeLoc l bs).hub = s.hub := by cases l <;> rfl

/-! ### What an update gives -/

@[simp] theorem State.coreAt_updCore (s : State) (c : CoreId) (f : Core → Core) : (s.updCore c f).coreAt c = f (s.coreAt c) := by
  simp [State.coreAt, State.updCore]

theorem State.coreAt_updCore_ne (s : State) (c d : CoreId) (f : Core → Core) (h : d ≠ c) : (s.updCore c f).coreAt d = s.coreAt d := by
  have h' : c.val ≠ d.val := fun e => h (Fin.ext e.symm)
  simp [State.coreAt, State.updCore, h']

@[simp] theorem State.instAt_updInst (s : State) (c : CoreId) (f : Inst → Inst) : (s.updInst c f).instAt c = f (s.instAt c) := by
  simp [State.instAt, State.updInst]

theorem State.instAt_updInst_ne (s : State) (c d : CoreId) (f : Inst → Inst) (h : d ≠ c) : (s.updInst c f).instAt d = s.instAt d := by
  simp [State.instAt, State.updInst, State.coreAt_updCore_ne _ _ _ _ h]

@[simp] theorem Inst.engs_updEng (n : Inst) (e : EngId) (f : Eng → Eng) : (n.updEng e f).engs[e] = f n.engs[e] := by
  simp [Inst.updEng]

theorem Inst.engs_updEng_ne (n : Inst) (e d : EngId) (f : Eng → Eng) (h : d ≠ e) : (n.updEng e f).engs[d] = n.engs[d] := by
  have h' : e.val ≠ d.val := fun x => h (Fin.ext x.symm)
  simp [Inst.updEng, h']

@[simp] theorem State.engAt_updEng (s : State) (c : CoreId) (e : EngId) (f : Eng → Eng) : (s.updEng c e f).engAt c e = f (s.engAt c e) := by
  simp only [State.engAt, State.updEng, State.instAt_updInst]; exact Inst.engs_updEng _ _ _

theorem State.engAt_updEng_ne (s : State) (c d : CoreId) (e b : EngId) (f : Eng → Eng) (h : d ≠ c ∨ b ≠ e) :
    (s.updEng c e f).engAt d b = s.engAt d b := by
  by_cases hc : d = c
  · subst hc
    simp only [State.engAt, State.updEng, State.instAt_updInst]; exact Inst.engs_updEng_ne _ _ _ _ (h.resolve_left (by simp))
  · simp [State.engAt, State.updEng, State.instAt_updInst_ne _ _ _ _ hc]

@[simp] theorem State.me_updMe (s : State) (f : Eng → Eng) : (s.updMe f).me = f s.me := by
  simp [State.me, State.updMe]

theorem State.engAt_updMe_ne (s : State) (c : CoreId) (e : EngId) (f : Eng → Eng) (h : c ≠ s.core ∨ e ≠ s.eng) :
    (s.updMe f).engAt c e = s.engAt c e := State.engAt_updEng_ne _ _ _ _ _ _ h

@[simp] theorem State.updCore_updCore (s : State) (c : CoreId) (f g : Core → Core) :
    (s.updCore c f).updCore c g = s.updCore c (fun k => g (f k)) := by
  simp [State.updCore]

@[simp] theorem State.updInst_updInst (s : State) (c : CoreId) (f g : Inst → Inst) :
    (s.updInst c f).updInst c g = s.updInst c (fun n => g (f n)) := by
  simp [State.updInst]

@[simp] theorem State.updEng_updEng (s : State) (c : CoreId) (e : EngId) (f g : Eng → Eng) :
    (s.updEng c e f).updEng c e g = s.updEng c e (fun x => g (f x)) := by
  simp [State.updEng, Inst.updEng]

@[simp] theorem State.updMe_updMe (s : State) (f g : Eng → Eng) : (s.updMe f).updMe g = s.updMe (fun x => g (f x)) := by
  simp [State.updMe]


end Sys2Proof.Machine
end

