-- ==== Sys2Proof/Laws/Invariant.lean ====
section
/-! SUPPORT. What the invariant of Safety.lean says of a state, and that taking an exception, writing a place and finishing an instruction keep it. -/

namespace Sys2Proof.Machine

open Sys2Proof

/-- Main memory is in form. -/
@[simp] theorem State.Inv.mem {s : State} (h : s.Inv) : s.mem.wf = true := h.1
@[simp] theorem State.Inv.hostMem {s : State} (h : s.Inv) : s.hostMem.wf = true := h.2.1
@[simp] theorem State.Inv.notifs {s : State} (h : s.Inv) : s.hub.notifs.length ≤ notifCap := h.2.2

theorem State.Inv.of {s t : State} (h : s.Inv) (hm : t.mem = s.mem) (hh : t.hostMem = s.hostMem)
    (hn : t.hub.notifs = s.hub.notifs) : t.Inv := by
  unfold State.Inv; rw [hm, hh, hn]; exact h

theorem State.Inv.ofMem {s t : State} (h : s.Inv) (hm : t.mem.wf = true) (hh : t.hostMem = s.hostMem)
    (hn : t.hub.notifs = s.hub.notifs) : t.Inv := by
  unfold State.Inv; rw [hh, hn]; exact ⟨hm, h.2⟩

def resInv (r : Res) : Prop := match r with | .next t => t.Inv | _ => True
def SlotRes.Inv (r : SlotRes) : Prop := match r with | .ok t => t.Inv | _ => True
def GroupRes.Inv (r : GroupRes) : Prop := match r with | .done t _ _ => t.Inv | _ => True
def KvStep.Inv (r : KvStep) : Prop := match r with | .more t _ => t.Inv | .fin t _ => t.Inv | _ => True
def optInv {α : Type} (P : α → Prop) (r : Option α) : Prop := match r with | some a => P a | _ => True
def okInv {ε α : Type} (P : α → Prop) (r : Except ε α) : Prop := match r with | .ok a => P a | _ => True

@[simp] theorem State.inv_mk {a0 a1 a2 a3 a4 a5 a6 a7 a8 a9 a10 a11 a12 a13 a14 a15 a16 a17 a18 a19 a20 a21 a22 a23 a24 a25 a26 a27 a28 a29} :
    (State.mk a0 a1 a2 a3 a4 a5 a6 a7 a8 a9 a10 a11 a12 a13 a14 a15 a16 a17 a18 a19 a20 a21 a22 a23 a24 a25 a26 a27 a28 a29).Inv ↔
      Memory.wf a6 = true ∧ Memory.wf a26 = true ∧ a29.notifs.length ≤ notifCap := Iff.rfl
@[simp] theorem inv_next (t : State) : resInv (.next t) ↔ t.Inv := Iff.rfl
@[simp] theorem inv_fault (f : Fault) : resInv (.fault f) ↔ True := Iff.rfl
@[simp] theorem inv_refused (f : Refusal) : resInv (.refused f) ↔ True := Iff.rfl
@[simp] theorem SlotRes.inv_ok (t : State) : (SlotRes.ok t).Inv ↔ t.Inv := Iff.rfl
@[simp] theorem SlotRes.inv_bad (i : Nat) (f : AFault) : (SlotRes.bad i f).Inv ↔ True := Iff.rfl
@[simp] theorem SlotRes.inv_wait (r : List Acc) : (SlotRes.wait r).Inv ↔ True := Iff.rfl
@[simp] theorem GroupRes.inv_done (t : State) (n : Nat) (f : Option AFault) : (GroupRes.done t n f).Inv ↔ t.Inv := Iff.rfl
@[simp] theorem KvStep.inv_more (t : State) (k : KvCmd) : (KvStep.more t k).Inv ↔ t.Inv := Iff.rfl
@[simp] theorem KvStep.inv_fin (t : State) (k : Word) : (KvStep.fin t k).Inv ↔ t.Inv := Iff.rfl
@[simp] theorem KvStep.inv_fault (w : Word) : (KvStep.fault w).Inv ↔ True := Iff.rfl
@[simp] theorem KvStep.inv_freeze (a b c : Nat) : (KvStep.freeze a b c).Inv ↔ True := Iff.rfl
@[simp] theorem KvStep.inv_idle : KvStep.idle.Inv ↔ True := Iff.rfl
@[simp] theorem optInv_some {α : Type} (P : α → Prop) (a : α) : optInv P (some a) ↔ P a := Iff.rfl
@[simp] theorem optInv_none {α : Type} (P : α → Prop) : optInv P (none : Option α) ↔ True := Iff.rfl
@[simp] theorem GroupRes.inv_wait (r : List Acc) : (GroupRes.wait r).Inv ↔ True := Iff.rfl
@[simp] theorem okInv_ok {ε α : Type} (P : α → Prop) (a : α) : okInv (ε := ε) P (.ok a) ↔ P a := Iff.rfl
@[simp] theorem okInv_error {ε α : Type} (P : α → Prop) (a : ε) : okInv P (.error a) ↔ True := Iff.rfl

theorem foldl_inv {α : Type} {f : State → α → State} (hf : ∀ s a, s.Inv → (f s a).Inv) {l : List α} :
    ∀ {s : State}, s.Inv → (l.foldl f s).Inv := by
  induction l with
  | nil => exact fun h => h
  | cons a l ih => exact fun h => ih (hf _ a h)

def fronted (r : Except State (Instr × State)) : Prop := match r with | .ok p => p.2.Inv | .error t => t.Inv

/-- What is thrown is a state in form. -/
def errInv {α : Type} (r : Except State α) : Prop := match r with | .ok _ => True | .error t => t.Inv
@[simp] theorem errInv_ok {α : Type} (a : α) : errInv (.ok a) ↔ True := Iff.rfl
@[simp] theorem errInv_error {α : Type} (t : State) : errInv (α := α) (.error t) ↔ t.Inv := Iff.rfl

theorem okInv.of {ε α : Type} {P : α → Prop} {r : Except ε α} {a : α} (h : okInv P r) (e : r = .ok a) : P a := by
  subst e; exact h
theorem optInv.of {α : Type} {P : α → Prop} {r : Option α} {a : α} (h : optInv P r) (e : r = some a) : P a := by
  subst e; exact h
theorem GroupRes.Inv.of {r : GroupRes} {t : State} {n : Nat} {f : Option AFault} (h : r.Inv) (e : r = .done t n f) : t.Inv := by
  subst e; exact h
theorem okInv_bind {ε α β : Type} {Q : α → Prop} {P : β → Prop} {x : Except ε α} {f : α → Except ε β} (hx : okInv Q x)
    (h : ∀ a, Q a → okInv P (f a)) : okInv P (x >>= f) := by
  cases x with
  | error e => trivial
  | ok a => exact h a hx

theorem okInv_map {ε α β : Type} {P : β → Prop} {x : Except ε α} {f : α → Except ε β}
    (h : ∀ a, okInv P (f a)) : okInv P (x >>= f) := by
  cases x with
  | error e => trivial
  | ok a => exact h a

@[simp] theorem okInv_pure {ε α : Type} (P : α → Prop) (a : α) : okInv (ε := ε) P (pure a) ↔ P a := Iff.rfl
@[simp] theorem okInv_throw {ε α : Type} (P : α → Prop) (a : ε) : okInv P (throw a : Except ε α) ↔ True := Iff.rfl

@[simp] theorem State.inv_foldl {α : Type} {f : State → α → State} {l : List α} {s : State}
    (hf : ∀ s a, s.Inv → (f s a).Inv) (h : s.Inv) : (l.foldl f s).Inv := foldl_inv hf h

@[simp] theorem State.inv_ite {c : Prop} [Decidable c] {a b : State} : (if c then a else b).Inv ↔ (c → a.Inv) ∧ (¬c → b.Inv) := by
  split <;> simp [*]

/-! ### State -/

theorem State.reset_inv : State.reset.Inv := ⟨rfl, rfl, Nat.zero_le _⟩

/-! ### Ops -/

@[simp] theorem State.updCore_inv (s : State) (c : CoreId) (f : Core → Core) (h : s.Inv) : (State.updCore s c f).Inv := by
  unfold State.updCore
  simp [*]

@[simp] theorem State.tlbFill_inv (s : State) (c : CoreId) (sup : Bool) (va : Nat) (h : s.Inv) : (State.tlbFill s c sup va).Inv := by
  unfold State.tlbFill
  (repeat' split) <;> simp (maxDischargeDepth := 30) [*]

@[simp] theorem State.updInst_inv (s : State) (c : CoreId) (f : Inst → Inst) (h : s.Inv) : (State.updInst s c f).Inv := by
  unfold State.updInst
  simp [*]

@[simp] theorem State.notify_inv (s : State) (n : Notif) (h : s.Inv) : (State.notify s n).Inv := by
  unfold State.notify
  split
  · simp [h]; omega
  · simp [h]

@[simp] theorem State.notifyFreeze_inv (s : State) (code : Nat) (part : Nat) (m : BitVec 32) (addr : Nat) (h : s.Inv) : (State.notifyFreeze s code part m addr).Inv := by
  unfold State.notifyFreeze
  simp [*]

@[simp] theorem State.updEng_inv (s : State) (c : CoreId) (e : EngId) (f : Eng → Eng) (h : s.Inv) : (State.updEng s c e f).Inv := by
  unfold State.updEng
  simp [*]

@[simp] theorem State.freezeEng_inv (s : State) (c : CoreId) (e : EngId) (code : Nat) (addr : Nat) (h : s.Inv) : (State.freezeEng s c e code addr).Inv := by
  unfold State.freezeEng
  simp [*]

@[simp] theorem State.enterTrap_inv (s : State) (c : CoreId) (e : EngId) (x : Trap) (h : s.Inv) : (State.enterTrap s c e x).Inv := by
  unfold State.enterTrap
  simp [*]

@[simp] theorem State.raiseTrap_inv (s : State) (c : CoreId) (e : EngId) (x : Trap) (h : s.Inv) : (State.raiseTrap s c e x).Inv := by
  unfold State.raiseTrap
  simp [*]

@[simp] theorem State.deliver_inv (s : State) (c : CoreId) (e : EngId) (f : AFault) (h : s.Inv) : (State.deliver s c e f).Inv := by
  unfold State.deliver
  (repeat' split) <;> simp (maxDischargeDepth := 30) [*]

@[simp] theorem State.trapMe_inv (s : State) (code : Nat) (info : Word) (h : s.Inv) : (State.trapMe s code info).Inv := by
  unfold State.trapMe
  simp [*]

@[simp] theorem State.updMe_inv (s : State) (f : Eng → Eng) (h : s.Inv) : (State.updMe s f).Inv := by
  unfold State.updMe
  simp [*]

@[simp] theorem State.finish_inv (s : State) (bytes : Nat) (stl : Stl) (outs : List (Nat × Nat)) (h : s.Inv) : (State.finish s bytes stl outs).Inv := by
  unfold State.finish
  simp [*]

@[simp] theorem State.writeReg_inv (s : State) (rd : SReg) (v : Word) (lam : Nat) (stl : Stl) (h : s.Inv) : resInv (State.writeReg s rd v lam stl) := by
  unfold State.writeReg
  simp [*]

@[simp] theorem State.writePred_inv (s : State) (pd : PReg) (v : Bool) (stl : Stl) (h : s.Inv) : resInv (State.writePred s pd v stl) := by
  unfold State.writePred
  simp [*]

@[simp] theorem State.finishAt_inv (s : State) (target : Word) (stl : Stl) (h : s.Inv) : (State.finishAt s target stl).Inv := by
  unfold State.finishAt
  simp [*]

@[simp] theorem State.illegal_inv (s : State) (i : Instr) (h : s.Inv) : resInv (State.illegal s i) := by
  unfold State.illegal
  simp [*]

@[simp] theorem State.stall_inv (s : State) (h : s.Inv) : resInv (State.stall s) := by
  unfold State.stall
  simp [*]

@[simp] theorem State.writePhys_inv (s : State) (pa : Nat) (bs : List Byte) (h : s.Inv) : (State.writePhys s pa bs).Inv := by
  unfold State.writePhys
  simp [*]

@[simp] theorem State.count_inv (s : State) (stl : Stl) (h : s.Inv) : (State.count s stl).Inv := by
  unfold State.count
  simp [*]

@[simp] theorem State.privileged_inv (s : State) (i : Instr) (h : s.Inv) : resInv (State.privileged s i) := by
  unfold State.privileged
  simp [*]

@[simp] theorem State.updV_inv (s : State) (c : CoreId) (e : EngId) (f : VSt → VSt) (h : s.Inv) : (State.updV s c e f).Inv := by
  unfold State.updV
  simp [*]

@[simp] theorem State.updLaunch_inv (s : State) (id : Nat) (f : Launch → Launch) (h : s.Inv) : (State.updLaunch s id f).Inv := by
  unfold State.updLaunch
  simp [*]

@[simp] theorem State.fatal_inv (s : State) (id : Nat) (status : Nat) (code : Nat) (core : Nat) (eng : Nat) (h : s.Inv) : (State.fatal s id status code core eng).Inv := by
  unfold State.fatal
  simp [*]

@[simp] theorem State.free_inv (s : State) (h : s.Inv) : (State.free s).2.Inv := by
  unfold State.free
  simp [*]

@[simp] theorem State.swapInst_inv (s : State) (c : CoreId) (h : s.Inv) : (State.swapInst s c).Inv := by
  unfold State.swapInst
  simp [*]

@[simp] theorem State.asParked_inv (s : State) (c : CoreId) (f : State → State) (h : s.Inv) (hf : ∀ t, t.Inv → (f t).Inv) :
    (State.asParked s c f).Inv := by
  unfold State.asParked
  split
  · exact State.swapInst_inv _ _ (hf _ (State.swapInst_inv _ _ h))
  · exact h

@[simp] theorem State.breakLinks_inv (s : State) (l : Loc) (h : s.Inv) : (State.breakLinks s l).Inv := by
  unfold State.breakLinks
  simp [*]

@[simp] theorem State.writeLoc_inv (s : State) (l : Loc) (bs : List Byte) (h : s.Inv) : (State.writeLoc s l bs).Inv := by
  unfold State.writeLoc
  dsimp only
  (repeat' split) <;> simp (maxDischargeDepth := 30) [*]

@[simp] theorem State.anyOf_inv {α : Type} (s : State) (l : List α) (h : s.Inv) : (State.anyOf s l).2.Inv := by
  unfold State.anyOf
  split <;> simp [h]

@[simp] theorem State.freezePort_inv (s : State) (c : CoreId) (p : Fin 8) (code : Nat) (addr : Nat) (h : s.Inv) : (State.freezePort s c p code addr).Inv := by
  unfold State.freezePort
  simp [*]

@[simp] theorem State.writeS_inv (s : State) (c : CoreId) (off : Nat) (bs : List Byte) (h : s.Inv) : (State.writeS s c off bs).Inv := by
  unfold State.writeS
  simp [*]

end Sys2Proof.Machine
end

