-- ==== Sys2Proof/Laws/InvScalar.lean ====
section
/-! SUPPORT. The scalar instructions, accesses as they perform, the registers of the hub and the pages of a pool keep the invariant. -/

namespace Sys2Proof.Machine

open Sys2Proof

/-! ### Scalar -/

@[simp] theorem State.alu_inv (s : State) (f : Word → Word → Word) (rd : SReg) (rs1 : SReg) (rs2 : SReg) (stl : Stl) (h : s.Inv) : resInv (State.alu s f rd rs1 rs2 stl) := by
  unfold State.alu
  simp [*]

@[simp] theorem execAdd_inv (rd : SReg) (rs1 : SReg) (rs2 : SReg) (stl : Stl) (s : State) (h : s.Inv) : resInv (execAdd rd rs1 rs2 stl s) := by
  unfold execAdd
  simp [*]

@[simp] theorem execSub_inv (rd : SReg) (rs1 : SReg) (rs2 : SReg) (stl : Stl) (s : State) (h : s.Inv) : resInv (execSub rd rs1 rs2 stl s) := by
  unfold execSub
  simp [*]

@[simp] theorem execMul_inv (rd : SReg) (rs1 : SReg) (rs2 : SReg) (stl : Stl) (s : State) (h : s.Inv) : resInv (execMul rd rs1 rs2 stl s) := by
  unfold execMul
  simp [*]

@[simp] theorem execMulh_inv (rd : SReg) (rs1 : SReg) (rs2 : SReg) (stl : Stl) (s : State) (h : s.Inv) : resInv (execMulh rd rs1 rs2 stl s) := by
  unfold execMulh
  simp [*]

@[simp] theorem execMulhn_inv (rd : SReg) (rs1 : SReg) (rs2 : SReg) (stl : Stl) (s : State) (h : s.Inv) : resInv (execMulhn rd rs1 rs2 stl s) := by
  unfold execMulhn
  simp [*]

@[simp] theorem execDiv_inv (rd : SReg) (rs1 : SReg) (rs2 : SReg) (stl : Stl) (s : State) (h : s.Inv) : resInv (execDiv rd rs1 rs2 stl s) := by
  unfold execDiv
  simp [*]

@[simp] theorem execDivn_inv (rd : SReg) (rs1 : SReg) (rs2 : SReg) (stl : Stl) (s : State) (h : s.Inv) : resInv (execDivn rd rs1 rs2 stl s) := by
  unfold execDivn
  simp [*]

@[simp] theorem execRem_inv (rd : SReg) (rs1 : SReg) (rs2 : SReg) (stl : Stl) (s : State) (h : s.Inv) : resInv (execRem rd rs1 rs2 stl s) := by
  unfold execRem
  simp [*]

@[simp] theorem execRemn_inv (rd : SReg) (rs1 : SReg) (rs2 : SReg) (stl : Stl) (s : State) (h : s.Inv) : resInv (execRemn rd rs1 rs2 stl s) := by
  unfold execRemn
  simp [*]

@[simp] theorem execAnd_inv (rd : SReg) (rs1 : SReg) (rs2 : SReg) (stl : Stl) (s : State) (h : s.Inv) : resInv (execAnd rd rs1 rs2 stl s) := by
  unfold execAnd
  simp [*]

@[simp] theorem execOr_inv (rd : SReg) (rs1 : SReg) (rs2 : SReg) (stl : Stl) (s : State) (h : s.Inv) : resInv (execOr rd rs1 rs2 stl s) := by
  unfold execOr
  simp [*]

@[simp] theorem execXor_inv (rd : SReg) (rs1 : SReg) (rs2 : SReg) (stl : Stl) (s : State) (h : s.Inv) : resInv (execXor rd rs1 rs2 stl s) := by
  unfold execXor
  simp [*]

@[simp] theorem execShl_inv (rd : SReg) (rs1 : SReg) (rs2 : SReg) (stl : Stl) (s : State) (h : s.Inv) : resInv (execShl rd rs1 rs2 stl s) := by
  unfold execShl
  simp [*]

@[simp] theorem execShr_inv (rd : SReg) (rs1 : SReg) (rs2 : SReg) (stl : Stl) (s : State) (h : s.Inv) : resInv (execShr rd rs1 rs2 stl s) := by
  unfold execShr
  simp [*]

@[simp] theorem execSra_inv (rd : SReg) (rs1 : SReg) (rs2 : SReg) (stl : Stl) (s : State) (h : s.Inv) : resInv (execSra rd rs1 rs2 stl s) := by
  unfold execSra
  simp [*]

@[simp] theorem execMin_inv (rd : SReg) (rs1 : SReg) (rs2 : SReg) (stl : Stl) (s : State) (h : s.Inv) : resInv (execMin rd rs1 rs2 stl s) := by
  unfold execMin
  simp [*]

@[simp] theorem execMax_inv (rd : SReg) (rs1 : SReg) (rs2 : SReg) (stl : Stl) (s : State) (h : s.Inv) : resInv (execMax rd rs1 rs2 stl s) := by
  unfold execMax
  simp [*]

@[simp] theorem execMinn_inv (rd : SReg) (rs1 : SReg) (rs2 : SReg) (stl : Stl) (s : State) (h : s.Inv) : resInv (execMinn rd rs1 rs2 stl s) := by
  unfold execMinn
  simp [*]

@[simp] theorem execMaxn_inv (rd : SReg) (rs1 : SReg) (rs2 : SReg) (stl : Stl) (s : State) (h : s.Inv) : resInv (execMaxn rd rs1 rs2 stl s) := by
  unfold execMaxn
  simp [*]

@[simp] theorem execClz_inv (rd : SReg) (rs1 : SReg) (stl : Stl) (s : State) (h : s.Inv) : resInv (execClz rd rs1 stl s) := by
  unfold execClz
  simp [*]

@[simp] theorem execCtz_inv (rd : SReg) (rs1 : SReg) (stl : Stl) (s : State) (h : s.Inv) : resInv (execCtz rd rs1 stl s) := by
  unfold execCtz
  simp [*]

@[simp] theorem execPopc_inv (rd : SReg) (rs1 : SReg) (stl : Stl) (s : State) (h : s.Inv) : resInv (execPopc rd rs1 stl s) := by
  unfold execPopc
  simp [*]

@[simp] theorem execMov_inv (rd : SReg) (rs1 : SReg) (stl : Stl) (s : State) (h : s.Inv) : resInv (execMov rd rs1 stl s) := by
  unfold execMov
  simp [*]

@[simp] theorem execSel_inv (rd : SReg) (p : PReg) (rs1 : SReg) (rs2 : SReg) (stl : Stl) (s : State) (h : s.Inv) : resInv (execSel rd p rs1 rs2 stl s) := by
  unfold execSel
  simp [*]

@[simp] theorem State.cmp_inv (s : State) (c : Cond) (pd : PReg) (rs1 : SReg) (rs2 : SReg) (stl : Stl) (h : s.Inv) : resInv (State.cmp s c pd rs1 rs2 stl) := by
  unfold State.cmp
  simp [*]

@[simp] theorem execCmpEq_inv (pd : PReg) (rs1 : SReg) (rs2 : SReg) (stl : Stl) (s : State) (h : s.Inv) : resInv (execCmpEq pd rs1 rs2 stl s) := by
  unfold execCmpEq
  simp [*]

@[simp] theorem execCmpNe_inv (pd : PReg) (rs1 : SReg) (rs2 : SReg) (stl : Stl) (s : State) (h : s.Inv) : resInv (execCmpNe pd rs1 rs2 stl s) := by
  unfold execCmpNe
  simp [*]

@[simp] theorem execCmpLt_inv (pd : PReg) (rs1 : SReg) (rs2 : SReg) (stl : Stl) (s : State) (h : s.Inv) : resInv (execCmpLt pd rs1 rs2 stl s) := by
  unfold execCmpLt
  simp [*]

@[simp] theorem execCmpGe_inv (pd : PReg) (rs1 : SReg) (rs2 : SReg) (stl : Stl) (s : State) (h : s.Inv) : resInv (execCmpGe pd rs1 rs2 stl s) := by
  unfold execCmpGe
  simp [*]

@[simp] theorem execCmpLtn_inv (pd : PReg) (rs1 : SReg) (rs2 : SReg) (stl : Stl) (s : State) (h : s.Inv) : resInv (execCmpLtn pd rs1 rs2 stl s) := by
  unfold execCmpLtn
  simp [*]

@[simp] theorem execCmpGen_inv (pd : PReg) (rs1 : SReg) (rs2 : SReg) (stl : Stl) (s : State) (h : s.Inv) : resInv (execCmpGen pd rs1 rs2 stl s) := by
  unfold execCmpGen
  simp [*]

@[simp] theorem execPand_inv (pd : PReg) (pa : PReg) (pb : PReg) (stl : Stl) (s : State) (h : s.Inv) : resInv (execPand pd pa pb stl s) := by
  unfold execPand
  simp [*]

@[simp] theorem execPor_inv (pd : PReg) (pa : PReg) (pb : PReg) (stl : Stl) (s : State) (h : s.Inv) : resInv (execPor pd pa pb stl s) := by
  unfold execPor
  simp [*]

@[simp] theorem execPnot_inv (pd : PReg) (pa : PReg) (stl : Stl) (s : State) (h : s.Inv) : resInv (execPnot pd pa stl s) := by
  unfold execPnot
  simp [*]

@[simp] theorem execAddi_inv (rd : SReg) (rs1 : SReg) (imm : BitVec 13) (stl : Stl) (s : State) (h : s.Inv) : resInv (execAddi rd rs1 imm stl s) := by
  unfold execAddi
  simp [*]

@[simp] theorem execAndi_inv (rd : SReg) (rs1 : SReg) (imm : BitVec 13) (stl : Stl) (s : State) (h : s.Inv) : resInv (execAndi rd rs1 imm stl s) := by
  unfold execAndi
  simp [*]

@[simp] theorem execOri_inv (rd : SReg) (rs1 : SReg) (imm : BitVec 13) (stl : Stl) (s : State) (h : s.Inv) : resInv (execOri rd rs1 imm stl s) := by
  unfold execOri
  simp [*]

@[simp] theorem execXori_inv (rd : SReg) (rs1 : SReg) (imm : BitVec 13) (stl : Stl) (s : State) (h : s.Inv) : resInv (execXori rd rs1 imm stl s) := by
  unfold execXori
  simp [*]

@[simp] theorem execShli_inv (rd : SReg) (rs1 : SReg) (imm : BitVec 13) (stl : Stl) (s : State) (h : s.Inv) : resInv (execShli rd rs1 imm stl s) := by
  unfold execShli
  simp [*]

@[simp] theorem execShri_inv (rd : SReg) (rs1 : SReg) (imm : BitVec 13) (stl : Stl) (s : State) (h : s.Inv) : resInv (execShri rd rs1 imm stl s) := by
  unfold execShri
  simp [*]

@[simp] theorem execSrai_inv (rd : SReg) (rs1 : SReg) (imm : BitVec 13) (stl : Stl) (s : State) (h : s.Inv) : resInv (execSrai rd rs1 imm stl s) := by
  unfold execSrai
  simp [*]

@[simp] theorem execLi_inv (rd : SReg) (imm : BitVec 18) (stl : Stl) (s : State) (h : s.Inv) : resInv (execLi rd imm stl s) := by
  unfold execLi
  simp [*]

@[simp] theorem execLih_inv (rd : SReg) (q : BitVec 2) (imm : BitVec 16) (stl : Stl) (s : State) (h : s.Inv) : resInv (execLih rd q imm stl s) := by
  unfold execLih
  simp [*]

@[simp] theorem State.cmpImm_inv (s : State) (c : Cond) (pd : PReg) (rs1 : SReg) (imm : BitVec 13) (stl : Stl) (h : s.Inv) : resInv (State.cmpImm s c pd rs1 imm stl) := by
  unfold State.cmpImm
  simp [*]

@[simp] theorem execCmpiEq_inv (pd : PReg) (rs1 : SReg) (imm : BitVec 13) (stl : Stl) (s : State) (h : s.Inv) : resInv (execCmpiEq pd rs1 imm stl s) := by
  unfold execCmpiEq
  simp [*]

@[simp] theorem execCmpiNe_inv (pd : PReg) (rs1 : SReg) (imm : BitVec 13) (stl : Stl) (s : State) (h : s.Inv) : resInv (execCmpiNe pd rs1 imm stl s) := by
  unfold execCmpiNe
  simp [*]

@[simp] theorem execCmpiLt_inv (pd : PReg) (rs1 : SReg) (imm : BitVec 13) (stl : Stl) (s : State) (h : s.Inv) : resInv (execCmpiLt pd rs1 imm stl s) := by
  unfold execCmpiLt
  simp [*]

@[simp] theorem execCmpiGe_inv (pd : PReg) (rs1 : SReg) (imm : BitVec 13) (stl : Stl) (s : State) (h : s.Inv) : resInv (execCmpiGe pd rs1 imm stl s) := by
  unfold execCmpiGe
  simp [*]

@[simp] theorem execCmpiLtn_inv (pd : PReg) (rs1 : SReg) (imm : BitVec 13) (stl : Stl) (s : State) (h : s.Inv) : resInv (execCmpiLtn pd rs1 imm stl s) := by
  unfold execCmpiLtn
  simp [*]

@[simp] theorem execCmpiGen_inv (pd : PReg) (rs1 : SReg) (imm : BitVec 13) (stl : Stl) (s : State) (h : s.Inv) : resInv (execCmpiGen pd rs1 imm stl s) := by
  unfold execCmpiGen
  simp [*]

@[simp] theorem execBr_inv (off : BitVec 23) (stl : Stl) (s : State) (h : s.Inv) : resInv (execBr off stl s) := by
  unfold execBr
  simp [*]

@[simp] theorem execCall_inv (off : BitVec 23) (stl : Stl) (s : State) (h : s.Inv) : resInv (execCall off stl s) := by
  unfold execCall
  simp [*]

@[simp] theorem execBp_inv (p : PReg) (off : BitVec 18) (stl : Stl) (s : State) (h : s.Inv) : resInv (execBp p off stl s) := by
  unfold execBp
  (repeat' split) <;> simp (maxDischargeDepth := 30) [*]

@[simp] theorem State.jumpReg_inv (s : State) (t : Word) (stl : Stl) (h : s.Inv) : resInv (State.jumpReg s t stl) := by
  unfold State.jumpReg
  (repeat' split) <;> simp (maxDischargeDepth := 30) [*]

@[simp] theorem execJr_inv (rs1 : SReg) (stl : Stl) (s : State) (h : s.Inv) : resInv (execJr rs1 stl s) := by
  unfold execJr
  simp [*]

@[simp] theorem execRet_inv (stl : Stl) (s : State) (h : s.Inv) : resInv (execRet stl s) := by
  unfold execRet
  simp [*]

@[simp] theorem execNop_inv (stl : Stl) (s : State) (h : s.Inv) : resInv (execNop stl s) := by
  unfold execNop
  simp [*]

/-! ### ScalarMem -/

@[simp] theorem State.pendAcc_inv (s : State) (a : Machine.Acc) (h : s.Inv) : (State.pendAcc s a).Inv := by
  unfold State.pendAcc
  simp [*]

@[simp] theorem State.issueAcc_inv (s : State) (a : Machine.Acc) (rd : SReg) (holds : Bool) (stl : Stl) (h : s.Inv) : resInv (State.issueAcc s a rd holds stl) := by
  unfold State.issueAcc
  (repeat' split) <;> simp (maxDischargeDepth := 30) [*]

@[simp] theorem execLd_inv (f : MemF) (stl : Stl) (s : State) (h : s.Inv) : resInv (execLd f stl s) := by
  unfold execLd
  simp [*]

@[simp] theorem execLdn_inv (f : MemF) (stl : Stl) (s : State) (h : s.Inv) : resInv (execLdn f stl s) := by
  unfold execLdn
  simp [*]

@[simp] theorem execSt_inv (f : MemF) (stl : Stl) (s : State) (h : s.Inv) : resInv (execSt f stl s) := by
  unfold execSt
  simp [*]

@[simp] theorem State.amo_inv (s : State) (op : Nat) (f : AmoF) (stl : Stl) (h : s.Inv) : resInv (State.amo s op f stl) := by
  unfold State.amo
  simp [*]

@[simp] theorem execAmoAdd_inv (f : AmoF) (stl : Stl) (s : State) (h : s.Inv) : resInv (execAmoAdd f stl s) := by
  unfold execAmoAdd
  simp [*]

@[simp] theorem execAmoMin_inv (f : AmoF) (stl : Stl) (s : State) (h : s.Inv) : resInv (execAmoMin f stl s) := by
  unfold execAmoMin
  simp [*]

@[simp] theorem execAmoMax_inv (f : AmoF) (stl : Stl) (s : State) (h : s.Inv) : resInv (execAmoMax f stl s) := by
  unfold execAmoMax
  simp [*]

@[simp] theorem execAmoSwap_inv (f : AmoF) (stl : Stl) (s : State) (h : s.Inv) : resInv (execAmoSwap f stl s) := by
  unfold execAmoSwap
  simp [*]

@[simp] theorem execAmoCas_inv (f : AmoF) (stl : Stl) (s : State) (h : s.Inv) : resInv (execAmoCas f stl s) := by
  unfold execAmoCas
  simp [*]

@[simp] theorem execAmoAnd_inv (f : AmoF) (stl : Stl) (s : State) (h : s.Inv) : resInv (execAmoAnd f stl s) := by
  unfold execAmoAnd
  simp [*]

@[simp] theorem execAmoOr_inv (f : AmoF) (stl : Stl) (s : State) (h : s.Inv) : resInv (execAmoOr f stl s) := by
  unfold execAmoOr
  simp [*]

/-! ### Sync -/

@[simp] theorem execBarInit_inv (b : BitVec 6) (rs1 : SReg) (scope : BitVec 2) (stl : Stl) (s : State) (h : s.Inv) : resInv (execBarInit b rs1 scope stl s) := by
  unfold execBarInit
  dsimp only
  (repeat' split) <;> simp (maxDischargeDepth := 30) [*]

@[simp] theorem State.arriveAt_inv (s : State) (launch : Nat) (c : CoreId) (b : BitVec 6) (h : s.Inv) : (State.arriveAt s launch c b).Inv := by
  unfold State.arriveAt
  simp [*]

@[simp] theorem execBarArrive_inv (b : BitVec 6) (rs1 : SReg) (mode : BitVec 2) (stl : Stl) (s : State) (h : s.Inv) : resInv (execBarArrive b rs1 mode stl s) := by
  unfold execBarArrive
  dsimp only
  (repeat' split) <;> simp (maxDischargeDepth := 30) [*]

@[simp] theorem execBarWait_inv (b : BitVec 6) (stl : Stl) (s : State) (h : s.Inv) : resInv (execBarWait b stl s) := by
  unfold execBarWait
  (repeat' split) <;> simp (maxDischargeDepth := 30) [*]

@[simp] theorem execBarTwait_inv (rd : SReg) (b : BitVec 6) (rs1 : SReg) (stl : Stl) (s : State) (h : s.Inv) : resInv (execBarTwait rd b rs1 stl s) := by
  unfold execBarTwait
  (repeat' split) <;> simp (maxDischargeDepth := 30) [*]

@[simp] theorem execBarTest_inv (rd : SReg) (b : BitVec 6) (stl : Stl) (s : State) (h : s.Inv) : resInv (execBarTest rd b stl s) := by
  unfold execBarTest
  simp [*]

@[simp] theorem execFence_inv (scope : BitVec 3) (mask : BitVec 16) (stl : Stl) (s : State) (h : s.Inv) : resInv (execFence scope mask stl s) := by
  unfold execFence
  simp [*]

@[simp] theorem execFork_inv (t : BitVec 2) (rs : SReg) (off : BitVec 16) (stl : Stl) (s : State) (h : s.Inv) : resInv (execFork t rs off stl s) := by
  unfold execFork
  dsimp only
  (repeat' split) <;> simp (maxDischargeDepth := 30) [*]

@[simp] theorem execRendez_inv (mask : BitVec 4) (stl : Stl) (s : State) (h : s.Inv) : resInv (execRendez mask stl s) := by
  unfold execRendez
  (repeat' split) <;> simp (maxDischargeDepth := 30) [*]

@[simp] theorem execIdent_inv (rd : SReg) (sel : BitVec 13) (stl : Stl) (s : State) (h : s.Inv) : resInv (execIdent rd sel stl s) := by
  unfold execIdent
  (repeat' split) <;> simp (maxDischargeDepth := 30) [*]

@[simp] theorem execClk_inv (rd : SReg) (stl : Stl) (s : State) (h : s.Inv) : resInv (execClk rd stl s) := by
  unfold execClk
  simp [*]

@[simp] theorem execHalt_inv (stl : Stl) (s : State) (h : s.Inv) : resInv (execHalt stl s) := by
  unfold execHalt
  dsimp only
  (repeat' split) <;> simp (maxDischargeDepth := 30) [*]

/-! ### VOperands -/

@[simp] theorem State.unhold_inv (s : State) (c : CoreId) (e : EngId) (h : s.Inv) : (State.unhold s c e).Inv := by
  unfold State.unhold
  simp [*]

@[simp] theorem State.invalidate_inv (s : State) (c : CoreId) (e : EngId) (h : s.Inv) : (State.invalidate s c e).Inv := by
  unfold State.invalidate
  dsimp only
  (repeat' split) <;> simp (maxDischargeDepth := 30) [*]

@[simp] theorem State.reLen_inv (s : State) (c : CoreId) (e : EngId) (h : s.Inv) : (State.reLen s c e).Inv := by
  unfold State.reLen
  simp [*]

@[simp] theorem State.moveHomes_inv (s : State) (c : CoreId) (e : EngId) (homes : List Nat) (len : Nat) (h : s.Inv) : (State.moveHomes s c e homes len).Inv := by
  unfold State.moveHomes
  (repeat' split) <;> simp (maxDischargeDepth := 30) [*]

/-! ### Launch -/

@[simp] theorem State.updPart_inv (s : State) (p : Nat) (f : Part → Part) (h : s.Inv) : (State.updPart s p f).Inv := by
  unfold State.updPart
  simp [*]

@[simp] theorem State.startInst_inv (s : State) (c : CoreId) (l : Launch) (h : s.Inv) : (State.startInst s c l).Inv := by
  unfold State.startInst
  simp [*]

@[simp] theorem State.dropLaunch_inv (s : State) (id : Nat) (h : s.Inv) : (State.dropLaunch s id).Inv := by
  unfold State.dropLaunch
  simp [*]

@[simp] theorem State.writeCmpl_inv (s : State) (l : Launch) (h : s.Inv) : (State.writeCmpl s l).Inv := by
  unfold State.writeCmpl
  (repeat' split) <;> simp (maxDischargeDepth := 30) [*]

@[simp] theorem State.pushRsp_inv (s : State) (bs : List Byte) (h : s.Inv) : (State.pushRsp s bs).Inv := by
  unfold State.pushRsp
  simp [*]

@[simp] theorem State.queueFrame_inv (s : State) (p : Fin 32) (cls : Fin 8) (dpkg : BitVec 16) (payload : List Byte) (die : Nat) (h : s.Inv) : (State.queueFrame s p cls dpkg payload die).Inv := by
  unfold State.queueFrame
  simp [*]

@[simp] theorem State.respond_inv (s : State) (who : Submitter) (op : Nat) (status : Nat) (tag : BitVec 32) (word : Word) (h : s.Inv) : (State.respond s who op status tag word).Inv := by
  unfold State.respond
  dsimp only
  (repeat' split) <;> simp (maxDischargeDepth := 30) [*]

@[simp] theorem State.endLaunch_inv (s : State) (l : Launch) (h : s.Inv) : (State.endLaunch s l).Inv := by
  unfold State.endLaunch
  dsimp only
  (repeat' split) <;> simp (maxDischargeDepth := 30) [*]

@[simp] theorem State.place!_inv (s : State) (l : Launch) (o : Nat × Nat) (h : s.Inv) : (State.place! s l o).Inv := by
  unfold State.place!
  exact foldl_inv (fun s c h => State.updCore_inv _ _ _ h) (State.updLaunch_inv _ _ _ h)

@[simp] theorem State.placeHead_inv (s : State) (q : Nat) (free : Core → Bool) (h : s.Inv) : (State.placeHead s q free).Inv := by
  unfold State.placeHead
  (repeat' split) <;> simp (maxDischargeDepth := 30) [*]

@[simp] theorem State.preempt_inv (s : State) (id : Nat) (h : s.Inv) : (State.preempt s id).Inv := by
  unfold State.preempt
  dsimp only
  (repeat' first | assumption | (intro _ _ _; dsimp only) | split | apply foldl_inv) <;> simp (maxDischargeDepth := 30) +contextual [*]

@[simp] theorem State.placeOver_inv (s : State) (q : Nat) (head : Option Nat) (h : s.Inv) : (State.placeOver s q head).Inv := by
  unfold State.placeOver
  split
  · exact h
  · split
    · exact h
    · split
      · exact h
      · dsimp only
        split
        · exact h
        · refine State.place!_inv _ _ _ (foldl_inv (fun s c h => ?_) h)
          split <;> simp [h]

@[simp] theorem State.resumeAll_inv (s : State) (h : s.Inv) : (State.resumeAll s).Inv := by
  unfold State.resumeAll
  dsimp only
  (repeat' first | assumption | (intro _ _ _; dsimp only) | split | apply foldl_inv) <;> simp (maxDischargeDepth := 30) +contextual [*]

@[simp] theorem State.placementRound_inv (s : State) (h : s.Inv) : (State.placementRound s).Inv := by
  unfold State.placementRound
  have key : ∀ (u : State) (n : Nat), u.Inv → State.Inv { u with round := n } := fun u n hu => hu.of rfl rfl rfl
  exact key _ _ (foldl_inv (fun s q h => State.placeHead_inv _ _ _ h) (State.resumeAll_inv _
    (foldl_inv (fun s q h => State.placeOver_inv _ _ _ h) (foldl_inv (fun s q h => State.placeHead_inv _ _ _ h) h))))

/-! ### Frame -/

@[simp] theorem State.emit_inv (s : State) (p : Fin 32) (bs : List Byte) (h : s.Inv) : (State.emit s p bs).Inv := by
  unfold State.emit
  simp [*]

@[simp] theorem State.updPort_inv (s : State) (p : Fin 32) (f : BPort → BPort) (h : s.Inv) : (State.updPort s p f).Inv := by
  unfold State.updPort
  simp [*]

@[simp] theorem State.updCls_inv (s : State) (p : Fin 32) (c : Fin 8) (f : TClass → TClass) (h : s.Inv) : (State.updCls s p c f).Inv := by
  unfold State.updCls
  simp [*]

@[simp] theorem State.sendGrant_inv (s : State) (p : Fin 32) (c : Fin 8) (h : s.Inv) : (State.sendGrant s p c).Inv := by
  unfold State.sendGrant
  simp [*]

@[simp] theorem State.sendGrants_inv (s : State) (p : Fin 32) (h : s.Inv) : (State.sendGrants s p).Inv := by
  unfold State.sendGrants
  split
  · exact foldl_inv (fun s c h => State.sendGrant_inv _ _ _ h) h
  · exact h

@[simp] theorem State.freeBeats_inv (s : State) (p : Fin 32) (c : Fin 8) (n : Nat) (h : s.Inv) : (State.freeBeats s p c n).Inv := by
  unfold State.freeBeats
  simp [*]

@[simp] theorem State.heard_inv (s : State) (p : Fin 32) (h : s.Inv) : (State.heard s p).Inv := by
  unfold State.heard
  simp [*]

/-! ### Hub -/

@[simp] theorem State.popNotif_inv (s : State) (h : s.Inv) : (State.popNotif s).2.Inv := by
  have hn := h.notifs
  unfold State.popNotif
  split
  · simp [h]
  · rename_i n rest heq
    rw [heq] at hn
    simp only [List.length_cons] at hn
    dsimp only
    simp only [State.inv_mk, h.mem, h.hostMem, true_and]
    split
    · exact Nat.le_of_succ_le hn
    · simpa using hn

@[simp] theorem State.devReg_inv (s : State) (a : Nat) (h : s.Inv) : (State.devReg s a).2.Inv := by
  unfold State.devReg
  dsimp only
  (repeat' split) <;> simp (maxDischargeDepth := 30) [*]

@[simp] theorem State.devRead_inv (s : State) (a : Nat) (len : Nat) (h : s.Inv) : (State.devRead s a len).2.Inv := by
  unfold State.devRead
  simp [*]

@[simp] theorem State.thawEng_inv (s : State) (c : CoreId) (e : EngId) (h : s.Inv) : (State.thawEng s c e).2.Inv := by
  unfold State.thawEng
  dsimp only
  (repeat' split) <;> simp (maxDischargeDepth := 30) [*]

@[simp] theorem State.thawPort_inv (s : State) (c : CoreId) (p : Fin 8) (h : s.Inv) : (State.thawPort s c p).2.Inv := by
  unfold State.thawPort
  dsimp only
  (repeat' split) <;> simp (maxDischargeDepth := 30) [*]

@[simp] theorem State.updDie_inv (s : State) (d : Fin 8) (f : Die → Die) (h : s.Inv) : (State.updDie s d f).Inv := by
  unfold State.updDie
  simp [*]

@[simp] theorem State.unfreeze_inv (s : State) (m : BitVec 32) (part : Option Nat) (h : s.Inv) : (State.unfreeze s m part).2.Inv := by
  unfold State.unfreeze
  dsimp only
  (repeat' split) <;> simp (maxDischargeDepth := 30) [*]

@[simp] theorem State.repResult_inv (s : State) (op : BitVec 4) (target : BitVec 11) (busy : Bool) (status : Nat) (h : s.Inv) : (State.repResult s op target busy status).Inv := by
  unfold State.repResult
  simp [*]

@[simp] theorem State.endParkedOn_inv (s : State) (c : CoreId) (h : s.Inv) : (State.endParkedOn s c).Inv := by
  unfold State.endParkedOn
  simp [*]

@[simp] theorem State.endNextOn_inv (s : State) (c : CoreId) (h : s.Inv) : (State.endNextOn s c).Inv := by
  unfold State.endNextOn
  split
  · exact h
  · exact State.fatal_inv _ _ _ _ _ _ h

@[simp] theorem State.retireNow_inv (s : State) (c : CoreId) (h : s.Inv) : (State.retireNow s c).Inv := by
  unfold State.retireNow
  exact State.endNextOn_inv _ _ (State.endParkedOn_inv _ _ (State.updCore_inv _ _ _ h))

@[simp] theorem State.retireCore_inv (s : State) (c : CoreId) (h : s.Inv) : (State.retireCore s c).2.Inv := by
  unfold State.retireCore
  dsimp only
  (repeat' split) <;> simp (maxDischargeDepth := 30) [*]

@[simp] theorem State.rehome_inv (s : State) (c : CoreId) (h : s.Inv) : (State.rehome s c).Inv := by
  unfold State.rehome
  dsimp only
  (repeat' first | assumption | (intro _ _ _; dsimp only) | split | apply foldl_inv) <;> simp (maxDischargeDepth := 30) +contextual [*]

@[simp] theorem State.retireLane_inv (s : State) (c : CoreId) (g : Nat) (h : s.Inv) : (State.retireLane s c g).2.Inv := by
  unfold State.retireLane
  dsimp only
  (repeat' split) <;> simp (maxDischargeDepth := 30) [*]

@[simp] theorem State.keepPlaces_inv (s : State) (c : CoreId) (ch : Nat) (h : s.Inv) : (State.keepPlaces s c ch).Inv := by
  unfold State.keepPlaces
  simp [*]

@[simp] theorem State.retireChannel_inv (s : State) (ch : Nat) (h : s.Inv) : (State.retireChannel s ch).Inv := by
  unfold State.retireChannel
  have key : ∀ u : State, u.Inv → State.Inv { u with chanOut := u.chanOut ||| BitVec.ofNat 384 (2 ^ ch) } :=
    fun u hu => hu.of rfl rfl rfl
  refine key _ (foldl_inv (fun s c h => ?_) h)
  refine State.asParked_inv _ _ _ ?_ (fun t ht => State.keepPlaces_inv _ _ _ ht)
  split <;> simp [h]

@[simp] theorem State.loseRows_inv (s : State) (p : Fin 32) (h : s.Inv) : (State.loseRows s p).Inv := by
  unfold State.loseRows
  exact h.of rfl rfl rfl

@[simp] theorem State.beginReset_inv (s : State) (p : Nat) (d : PartDef) (reimage : Bool) (h : s.Inv) :
    (State.beginReset s p d reimage).Inv := by
  unfold State.beginReset
  have key : ∀ (u : State) (ds : Vector Die 8), u.Inv → State.Inv { u with dies := ds } := fun u ds hu => hu.of rfl rfl rfl
  exact State.updPart_inv _ _ _ (key _ _ (foldl_inv (fun s l h => State.fatal_inv _ _ _ _ _ _ h) (State.updPart_inv _ _ _ h)))

@[simp] theorem State.dropPorts_inv (s : State) (d : PartDef) (h : s.Inv) : (State.dropPorts s d).Inv := by
  unfold State.dropPorts
  refine foldl_inv (fun s q h => ?_) h
  split <;> simp [h]

@[simp] theorem State.repair_inv (s : State) (op : BitVec 4) (target : BitVec 11) (h : s.Inv) : (State.repair s op target).Inv := by
  unfold State.repair
  dsimp only
  (repeat' split) <;> simp (maxDischargeDepth := 30) [*]

@[simp] theorem State.portSubmit_inv (s : State) (p : Fin 16) (v : Word) (h : s.Inv) : (State.portSubmit s p v).Inv := by
  unfold State.portSubmit
  simp [*]

@[simp] theorem State.poolEnable_inv (s : State) (p : Nat) (v : Word) (h : s.Inv) : (State.poolEnable s p v).Inv := by
  unfold State.poolEnable
  simp [*]

@[simp] theorem State.poolDisable_inv (s : State) (p : Nat) (addr : Option Word) (h : s.Inv) : (State.poolDisable s p addr).Inv := by
  unfold State.poolDisable
  simp [*]

@[simp] theorem State.devWrite_inv (s : State) (a : Nat) (len : Nat) (v : Word) (h : s.Inv) : (State.devWrite s a len v).Inv := by
  unfold State.devWrite
  dsimp only
  (repeat' split) <;> simp (maxDischargeDepth := 30) [*]

@[simp] theorem State.finishReset_inv (s : State) (p : Nat) (d : PartDef) (reimage : Bool) (h : s.Inv) :
    (State.finishReset s p d reimage).Inv := by
  unfold State.finishReset
  extract_lets w t u v
  have ht : t.Inv := (State.dropPorts_inv s d h).of rfl rfl rfl
  have hu : u.Inv := by
    show State.Inv (if reimage = true then _ else t)
    split
    · refine foldl_inv (fun s ch h => ?_) ht
      split
      · exact h.ofMem (Memory.wf_clear h.mem) rfl rfl
      · exact h
    · exact ht
  have hv : v.Inv := State.updPart_inv _ _ _ hu
  exact hv.of rfl rfl rfl

/-! ### Pages -/

@[simp] theorem State.updPool_inv (s : State) (part : Nat) (f : Pool → Pool) (h : s.Inv) : (State.updPool s part f).Inv := by
  unfold State.updPool
  simp [*]

@[simp] theorem State.widen_inv (s : State) (p : Pool) (minAt : Nat) (maxAt : Nat) (key : Nat) (h : s.Inv) : (State.widen s p minAt maxAt key).Inv := by
  unfold State.widen
  simp [*]

@[simp] theorem State.followBlock_inv (s : State) (p : Pool) (fpa : Nat) (wrote : Nat) (off : Nat) (len : Nat) (b : Bool × Nat) (h : s.Inv) : (State.followBlock s p fpa wrote off len b).Inv := by
  unfold State.followBlock
  dsimp only
  (repeat' first | assumption | (intro _ _ _; dsimp only) | split | apply foldl_inv) <;> simp (maxDischargeDepth := 30) +contextual [*]

@[simp] theorem State.follow_inv (s : State) (part : Nat) (sup : Bool) (va : Nat) (pa : Nat) (len : Nat) (h : s.Inv) : (State.follow s part sup va pa len).Inv := by
  unfold State.follow
  dsimp only
  (repeat' first | assumption | (intro _ _ _; dsimp only) | split | apply foldl_inv) <;> simp (maxDischargeDepth := 30) +contextual [*]

@[simp] theorem State.writeG_inv (s : State) (part : Nat) (sup : Bool) (va : Nat) (pa : Nat) (bs : List Byte) (h : s.Inv) : (State.writeG s part sup va pa bs).Inv := by
  unfold State.writeG
  simp [*]

/-! ### Order -/

@[simp] theorem State.traceOut_inv (s : State) (c : CoreId) (e : EngId) (bs : List Byte) (h : s.Inv) : (State.traceOut s c e bs).Inv := by
  unfold State.traceOut
  simp [*]

@[simp] theorem State.traceStrip_inv (s : State) (c : CoreId) (e : EngId) (h : s.Inv) : (State.traceStrip s c e).Inv := by
  unfold State.traceStrip
  simp [*]

@[simp] theorem State.readAt_inv (s : State) (l : Loc) (len : Nat) (h : s.Inv) : (State.readAt s l len).2.Inv := by
  unfold State.readAt
  (repeat' split) <;> simp (maxDischargeDepth := 30) [*]

@[simp] theorem State.updInstP_inv (s : State) (c : CoreId) (parked : Bool) (f : Inst → Inst) (h : s.Inv) : (State.updInstP s c parked f).Inv := by
  unfold State.updInstP
  simp [*]

@[simp] theorem State.writeX_inv (s : State) (c : CoreId) (parked : Bool) (fg : Bool) (off : Nat) (bs : List Byte) (h : s.Inv) : (State.writeX s c parked fg off bs).Inv := by
  unfold State.writeX
  simp [*]

@[simp] theorem State.writeAt_inv (s : State) (c : CoreId) (sup : Bool) (l : Loc) (addr : Nat) (len : Nat) (n : Nat) (h : s.Inv) : (State.writeAt s c sup l addr len n).Inv := by
  unfold State.writeAt
  (repeat' split) <;> simp (maxDischargeDepth := 30) [*]

@[simp] theorem State.setLink_inv (s : State) (c : CoreId) (e : EngId) (epoch : Nat) (l : Loc) (h : s.Inv) : (State.setLink s c e epoch l).Inv := by
  unfold State.setLink
  simp [*]

@[simp] theorem State.traceRuns_inv (s : State) (c : CoreId) (e : EngId) (pc base : Word) (cls : Nat) (store : Bool) (n : Nat)
    (rs : List Run) (cont : Bool) (h : s.Inv) : (State.traceRuns s c e pc base cls store n rs cont).Inv := by
  induction n generalizing s rs cont with
  | zero => exact h
  | succ n ih =>
    unfold State.traceRuns
    dsimp only
    split
    · exact State.traceOut_inv _ _ _ _ h
    · exact ih _ _ _ (State.traceOut_inv _ _ _ _ h)

@[simp] theorem State.traceMem_inv (s : State) (c : CoreId) (e : EngId) (pc : Word) (base : Word) (cls : Nat) (store : Bool) (es : List (Nat × Int)) (h : s.Inv) : (State.traceMem s c e pc base cls store es).Inv := by
  unfold State.traceMem
  simp [*]

@[simp] theorem State.traceAcc_inv (s : State) (c : CoreId) (e : EngId) (a : Machine.Acc) (done : Bool) (h : s.Inv) : (State.traceAcc s c e a done).Inv := by
  unfold State.traceAcc
  simp [*]

@[simp] theorem State.accFault_inv (s : State) (c : CoreId) (e : EngId) (n : Nat) (a : Machine.Acc) (f : AFault) (h : s.Inv) : (State.accFault s c e n a f).Inv := by
  unfold State.accFault
  dsimp only
  (repeat' split) <;> simp (maxDischargeDepth := 30) [*]

@[simp] theorem State.foundBad_inv (s : State) (l : Loc) (f : AFault) (h : s.Inv) : (State.foundBad s l f).Inv := by
  unfold State.foundBad
  (repeat' split) <;> simp (maxDischargeDepth := 30) [*]

@[simp] theorem State.performAt_inv (s : State) (c : CoreId) (e : EngId) (a : Machine.Acc) (l : Loc) (h : s.Inv) : (State.performAt s c e a l).Inv := by
  unfold State.performAt
  dsimp only
  (repeat' split) <;> simp (maxDischargeDepth := 30) [*]

@[simp] theorem State.performMem_inv (s : State) (c : CoreId) (e : EngId) (n : Nat) (a : Machine.Acc) (h : s.Inv) : (State.performMem s c e n a).Inv := by
  unfold State.performMem
  dsimp only
  (repeat' split) <;> simp (maxDischargeDepth := 30) [*]

@[simp] theorem State.performAcc_inv (s : State) (c : CoreId) (e : EngId) (n : Nat) (h : s.Inv) : (State.performAcc s c e n).Inv := by
  unfold State.performAcc
  split
  · exact h
  · rename_i a _
    cases a.kind <;> dsimp only
    all_goals first | exact State.performMem_inv _ _ _ _ _ h | skip
    · simp [h]
    · split <;> simp [h]

/-! ### System -/

@[simp] theorem State.devBytes_inv (s : State) (a n : Nat) (h : s.Inv) : (State.devBytes s a n).2.Inv := by
  induction n generalizing s a with
  | zero => exact h
  | succ n ih => exact ih _ _ (State.devRead_inv s a 8 h)

@[simp] theorem State.readAny_inv (s : State) (c : CoreId) (pa : Nat) (len : Nat) (va : Nat) (h : s.Inv) : okInv (fun p => p.2.Inv) (State.readAny s c pa len va) := by
  unfold State.readAny
  split
  · split
    · exact State.devRead_inv s pa len h
    · exact State.devBytes_inv _ _ _ h
  · split <;> simp [h]

@[simp] theorem execLaunch_inv (rd : SReg) (rs1 : SReg) (stl : Stl) (s : State) (h : s.Inv) : resInv (execLaunch rd rs1 stl s) := by
  unfold execLaunch
  dsimp only
  split
  · simp [h]
  · split
    · simp [h]
    · split
      · simp [h]
      · split
        · simp [h]
        · split
          · simp [h]
          · rename_i t heq
            have ht : t.Inv := by
              have h9 := okInv.of (State.readAny_inv s _ _ _ _ h) heq
              exact h9
            exact State.finish_inv _ _ _ _ (State.updMe_inv _ _ (ht.of rfl rfl rfl))

@[simp] theorem execCrRd_inv (r : SReg) (num : BitVec 12) (stl : Stl) (s : State) (h : s.Inv) : resInv (execCrRd r num stl s) := by
  unfold execCrRd
  (repeat' split) <;> simp (maxDischargeDepth := 30) [*]

@[simp] theorem State.crStore_inv (s : State) (num : Nat) (v : Word) (h : s.Inv) : (State.crStore s num v).Inv := by
  unfold State.crStore
  dsimp only
  (repeat' split) <;> simp (maxDischargeDepth := 30) [*]

@[simp] theorem State.crWrite_inv (s : State) (i : Instr) (num : BitVec 12) (f : Word → Word) (stl : Stl) (h : s.Inv) : resInv (State.crWrite s i num f stl) := by
  unfold State.crWrite
  (repeat' split) <;> simp (maxDischargeDepth := 30) [*]

@[simp] theorem execCrWr_inv (r : SReg) (num : BitVec 12) (stl : Stl) (s : State) (h : s.Inv) : resInv (execCrWr r num stl s) := by
  unfold execCrWr
  simp [*]

@[simp] theorem execCrSet_inv (r : SReg) (num : BitVec 12) (stl : Stl) (s : State) (h : s.Inv) : resInv (execCrSet r num stl s) := by
  unfold execCrSet
  simp [*]

@[simp] theorem execCrClr_inv (r : SReg) (num : BitVec 12) (stl : Stl) (s : State) (h : s.Inv) : resInv (execCrClr r num stl s) := by
  unfold execCrClr
  simp [*]

@[simp] theorem execTrap_inv (imm : BitVec 16) (stl : Stl) (s : State) (h : s.Inv) : resInv (execTrap imm stl s) := by
  unfold execTrap
  simp [*]

@[simp] theorem State.takeOwnership_inv (s : State) (c : CoreId) (h : s.Inv) : (State.takeOwnership s c).Inv := by
  unfold State.takeOwnership
  dsimp only
  (repeat' first | assumption | (intro _ _ _; dsimp only) | split | apply foldl_inv) <;> simp (maxDischargeDepth := 30) +contextual [*]

@[simp] theorem State.tqDiscard_inv (s : State) (c : CoreId) (q : Fin 2) (h : s.Inv) : (State.tqDiscard s c q).Inv := by
  unfold State.tqDiscard
  split
  · exact h
  · dsimp only
    split <;> simp [h]

@[simp] theorem execEret_inv (stl : Stl) (s : State) (h : s.Inv) : resInv (execEret stl s) := by
  unfold execEret
  dsimp only
  (repeat' split) <;> simp (maxDischargeDepth := 30) [*]

@[simp] theorem execUeret_inv (stl : Stl) (s : State) (h : s.Inv) : resInv (execUeret stl s) := by
  unfold execUeret
  dsimp only
  (repeat' split) <;> simp (maxDischargeDepth := 30) [*]

@[simp] theorem execTlbinv_inv (rs1 : SReg) (stl : Stl) (s : State) (h : s.Inv) : resInv (execTlbinv rs1 stl s) := by
  unfold execTlbinv
  simp [*]

@[simp] theorem execTlbinvAll_inv (stl : Stl) (s : State) (h : s.Inv) : resInv (execTlbinvAll stl s) := by
  unfold execTlbinvAll
  simp [*]

@[simp] theorem execUnfreeze_inv (rd : SReg) (rs1 : SReg) (stl : Stl) (s : State) (h : s.Inv) : resInv (execUnfreeze rd rs1 stl s) := by
  unfold execUnfreeze
  dsimp only
  (repeat' split) <;> simp (maxDischargeDepth := 30) [*]

@[simp] theorem execPsample_inv (rs1 : SReg) (stl : Stl) (s : State) (h : s.Inv) : resInv (execPsample rs1 stl s) := by
  unfold execPsample
  dsimp only
  split
  · simp [h]
  · simp only [inv_next]
    exact State.finish_inv _ _ _ _ (foldl_inv (fun s a h => State.pendAcc_inv s a h) (State.free_inv s h))

/-! ### VConf -/

@[simp] theorem State.regrant_inv (s : State) (vl : Nat) (vtype : Word) (h : s.Inv) : (State.regrant s vl vtype).Inv := by
  unfold State.regrant
  simp [*]

@[simp] theorem execVstrip_inv (rs : SReg) (off : BitVec 18) (stl : Stl) (s : State) (h : s.Inv) : resInv (execVstrip rs off stl s) := by
  unfold execVstrip
  dsimp only
  (repeat' split) <;> simp (maxDischargeDepth := 30) [*]

@[simp] theorem execVcfg_inv (f : VcfgF) (stl : Stl) (s : State) (h : s.Inv) : resInv (execVcfg f stl s) := by
  unfold execVcfg
  dsimp only
  (repeat' split) <;> simp (maxDischargeDepth := 30) [*]

@[simp] theorem State.unshape_inv (s : State) (c : CoreId) (e : EngId) (h : s.Inv) : (State.unshape s c e).Inv := by
  unfold State.unshape
  simp [*]

@[simp] theorem execVreshape_inv (n : BitVec 2) (stl : Stl) (s : State) (h : s.Inv) : resInv (execVreshape n stl s) := by
  unfold execVreshape
  dsimp only
  (repeat' split) <;> simp (maxDischargeDepth := 30) [*]

@[simp] theorem State.setHomes_inv (s : State) (c : CoreId) (e : EngId) (homes : List Nat) (h : s.Inv) : (State.setHomes s c e homes).Inv := by
  unfold State.setHomes
  dsimp only
  (repeat' split) <;> simp (maxDischargeDepth := 30) [*]

@[simp] theorem execVquad_inv (p : BitVec 2) (stl : Stl) (s : State) (h : s.Inv) : resInv (execVquad p stl s) := by
  unfold execVquad
  dsimp only
  (repeat' first | assumption | (intro _ _ _; dsimp only) | split | apply foldl_inv) <;> simp (maxDischargeDepth := 30) +contextual [*]

end Sys2Proof.Machine
end

