-- ==== Sys2Proof/Laws/InvVector.lean ====
section
/-! SUPPORT. The vector instructions, by themselves and in the groups of a convoy, keep the invariant. -/

namespace Sys2Proof.Machine

open Sys2Proof

/-! ### VMem -/

@[simp] theorem State.freed_inv (s : State) (h : s.Inv) : (State.freed s).Inv := by
  unfold State.freed
  simp [*]

@[simp] theorem SlotX.putMasks_inv (x : SlotX) (s : State) (m : Nat) (bs : List (Nat × Bool)) (h : s.Inv) : (SlotX.putMasks x s m bs).Inv := by
  unfold SlotX.putMasks
  simp [*]

@[simp] theorem SlotX.flags_inv (x : SlotX) (s : State) (fl : Nat) (h : s.Inv) : (SlotX.flags x s fl).Inv := by
  unfold SlotX.flags
  simp [*]

@[simp] theorem SlotX.put_inv (x : SlotX) (s : State) (r : Nat) (w : Nat) (outs : List (Nat × Nat)) (h : s.Inv) : (SlotX.put x s r w outs).Inv := by
  unfold SlotX.put
  simp [*]

@[simp] theorem SlotX.scattered_inv (x : SlotX) (s : State) (f : Fly) (lo : Nat) (hi : Nat) (h : s.Inv) : (SlotX.scattered x s f lo hi).Inv := by
  unfold SlotX.scattered
  dsimp only
  (repeat' split) <;> simp (maxDischargeDepth := 30) [*]

@[simp] theorem SlotX.runScatter_inv (x : SlotX) (s : State) (f : Fly) (lo : Nat) (hi : Nat) (h : s.Inv) : (SlotX.runScatter x s f lo hi).Inv := by
  unfold SlotX.runScatter
  (repeat' split) <;> simp (maxDischargeDepth := 30) [*]

@[simp] theorem SlotX.afterReads_inv (x : SlotX) (s : State) (have_ : Nat → Bool) (ns : List Need) (go : SlotRes) (h : go.Inv) :
    (SlotX.afterReads x s have_ ns go).Inv := by
  unfold SlotX.afterReads
  split <;> simp [h]

@[simp] theorem SlotX.landed_inv (x : SlotX) (s : State) (f : Fly) (lo : Nat) (hi : Nat) (h : s.Inv) : (SlotX.landed x s f lo hi).Inv := by
  unfold SlotX.landed
  simp [*]

@[simp] theorem SlotX.runLoad_inv (x : SlotX) (s : State) (f : Fly) (lo : Nat) (hi : Nat) (h : s.Inv) : (SlotX.runLoad x s f lo hi).Inv := by
  unfold SlotX.runLoad
  simp [*]

@[simp] theorem SlotX.runFeed_inv (x : SlotX) (s : State) (lo : Nat) (hi : Nat) (h : s.Inv) : (SlotX.runFeed x s lo hi).Inv := by
  unfold SlotX.runFeed
  dsimp only
  (repeat' split) <;> simp (maxDischargeDepth := 30) [*]

@[simp] theorem SlotX.runPaged_inv (x : SlotX) (s : State) (f : Fly) (lo : Nat) (hi : Nat) (h : s.Inv) : (SlotX.runPaged x s f lo hi).Inv := by
  unfold SlotX.runPaged
  simp [*]

@[simp] theorem SlotX.runIpb_inv (x : SlotX) (s : State) (f : Fly) (lo : Nat) (hi : Nat) (h : s.Inv) : (SlotX.runIpb x s f lo hi).Inv := by
  unfold SlotX.runIpb
  (repeat' split) <;> simp (maxDischargeDepth := 30) [*]

@[simp] theorem SlotX.runLdZ_inv (x : SlotX) (s : State) (lo : Nat) (hi : Nat) (h : s.Inv) : (SlotX.runLdZ x s lo hi).Inv := by
  unfold SlotX.runLdZ
  dsimp only
  (repeat' split) <;> simp (maxDischargeDepth := 30) [*]

@[simp] theorem SlotX.keepLocs_inv (x : SlotX) (s : State) (ls : List (Nat × Loc)) (h : s.Inv) : (SlotX.keepLocs x s ls).Inv := by
  unfold SlotX.keepLocs
  simp [*]

@[simp] theorem SlotX.handOver_inv (x : SlotX) (s : State) (es : List Nat) (as : List Acc) (h : s.Inv) :
    (SlotX.handOver x s es as).Inv := by
  unfold SlotX.handOver
  split
  · exact SlotX.keepLocs_inv _ _ _ h
  · split
    · split
      · trivial
      · simp only [SlotRes.inv_ok]
        refine foldl_inv (fun s a h => ?_) h
        split <;> simp [h]
    · simp [h]

@[simp] theorem SlotX.runStore_inv (x : SlotX) (s : State) (lo : Nat) (hi : Nat) (h : s.Inv) : (SlotX.runStore x s lo hi).Inv := by
  unfold SlotX.runStore
  dsimp only
  (repeat' split) <;> simp (maxDischargeDepth := 30) [*]

@[simp] theorem SlotX.runStX_inv (x : SlotX) (s : State) (lo : Nat) (hi : Nat) (h : s.Inv) : (SlotX.runStX x s lo hi).Inv := by
  unfold SlotX.runStX
  dsimp only
  (repeat' split) <;> simp (maxDischargeDepth := 30) [*]

@[simp] theorem SlotX.scatter_inv (x : SlotX) (s : State) (p : Nat × Nat × Loc) (h : s.Inv) : (SlotX.scatter x s p).Inv := by
  unfold SlotX.scatter
  dsimp only
  (repeat' split) <;> simp (maxDischargeDepth := 30) [*]

@[simp] theorem SlotX.runSc_inv (x : SlotX) (s : State) (lo : Nat) (hi : Nat) (h : s.Inv) : (SlotX.runSc x s lo hi).Inv := by
  unfold SlotX.runSc
  dsimp only
  (repeat' first | assumption | (intro _ _ _; dsimp only) | split | apply foldl_inv) <;> simp (maxDischargeDepth := 30) +contextual [*]

@[simp] theorem SlotX.atomic_inv (x : SlotX) (s : State) (p : Nat × Nat × Loc) (h : s.Inv) : (SlotX.atomic x s p).Inv := by
  unfold SlotX.atomic
  dsimp only
  (repeat' split) <;> simp (maxDischargeDepth := 30) [*]

@[simp] theorem SlotX.runAmo_inv (x : SlotX) (s : State) (lo : Nat) (hi : Nat) (h : s.Inv) : (SlotX.runAmo x s lo hi).Inv := by
  unfold SlotX.runAmo
  dsimp only
  (repeat' first | assumption | (intro _ _ _; dsimp only) | split | apply foldl_inv) <;> simp (maxDischargeDepth := 30) +contextual [*]

@[simp] theorem SlotX.runWait_inv (x : SlotX) (s : State) (lo : Nat) (hi : Nat) (h : s.Inv) : (SlotX.runWait x s lo hi).Inv := by
  unfold SlotX.runWait
  dsimp only
  (repeat' split) <;> simp (maxDischargeDepth := 30) [*]

@[simp] theorem SlotX.runMrgs_inv (x : SlotX) (s : State) (o hi : Nat) (h : s.Inv) : (SlotX.runMrgs x s o hi).Inv := by
  unfold SlotX.runMrgs
  dsimp only
  (repeat' split) <;> first | trivial | simp [h]

@[simp] theorem SlotX.runSegld_inv (x : SlotX) (s : State) (f : Fly) (lo : Nat) (hi : Nat) (h : s.Inv) : (SlotX.runSegld x s f lo hi).Inv := by
  unfold SlotX.runSegld
  (repeat' split) <;> simp (maxDischargeDepth := 30) [*]

@[simp] theorem SlotX.runCopy_inv (x : SlotX) (s : State) (f : Fly) (lo : Nat) (hi : Nat) (h : s.Inv) : (SlotX.runCopy x s f lo hi).Inv := by
  unfold SlotX.runCopy
  dsimp only
  (repeat' split) <;> simp (maxDischargeDepth := 30) [*]

@[simp] theorem SlotX.runFill_inv (x : SlotX) (s : State) (lo : Nat) (hi : Nat) (h : s.Inv) : (SlotX.runFill x s lo hi).Inv := by
  unfold SlotX.runFill
  (repeat' split) <;> simp (maxDischargeDepth := 30) [*]

/-! ### VSort -/

@[simp] theorem SlotX.tails_inv (x : SlotX) (s : State) (r : Nat) (n : Nat) (w : Nat) (lo : Nat) (h : s.Inv) : (SlotX.tails x s r n w lo).Inv := by
  unfold SlotX.tails
  (repeat' split) <;> simp (maxDischargeDepth := 30) [*]

@[simp] theorem SlotX.retags_inv (x : SlotX) (s : State) (f : Tags → Tags) (h : s.Inv) : (SlotX.retags x s f).Inv := by
  unfold SlotX.retags
  simp [*]

@[simp] theorem SlotX.runSortr_inv (x : SlotX) (s : State) (h : s.Inv) : (SlotX.runSortr x s).Inv := by
  unfold SlotX.runSortr
  dsimp only
  (repeat' split) <;> simp (maxDischargeDepth := 30) [*]

@[simp] theorem SlotX.runChk_inv (x : SlotX) (s : State) (h : s.Inv) : (SlotX.runChk x s).Inv := by
  unfold SlotX.runChk
  dsimp only
  (repeat' split) <;> simp (maxDischargeDepth := 30) [*]

@[simp] theorem SlotX.runPut_inv (x : SlotX) (s : State) (r : Nat) (w : Nat) (outs : List (Nat × Nat)) (h : s.Inv) : (SlotX.runPut x s r w outs).Inv := by
  unfold SlotX.runPut
  simp [*]

@[simp] theorem SlotX.runTails_inv (x : SlotX) (s : State) (r : Nat) (n : Nat) (w : Nat) (h : s.Inv) : (SlotX.runTails x s r n w).Inv := by
  unfold SlotX.runTails
  dsimp only
  (repeat' first | assumption | (intro _ _ _; dsimp only) | split | apply foldl_inv) <;> simp (maxDischargeDepth := 30) +contextual [*]

@[simp] theorem SlotX.emitRun_inv (x : SlotX) (s : State) (lo : Nat) (hi : Nat) (total : Nat) (span : Nat) (picks : List (Bool × Nat)) (h : s.Inv) : (SlotX.emitRun x s lo hi total span picks).Inv := by
  unfold SlotX.emitRun
  dsimp only
  (repeat' split) <;> simp (maxDischargeDepth := 30) [*]

@[simp] theorem SlotX.runMerge_inv (x : SlotX) (s : State) (lo : Nat) (hi : Nat) (h : s.Inv) : (SlotX.runMerge x s lo hi).Inv := by
  unfold SlotX.runMerge
  simp [*]

@[simp] theorem SlotX.runInter_inv (x : SlotX) (s : State) (h : s.Inv) : (SlotX.runInter x s).Inv := by
  unfold SlotX.runInter
  simp [*]

@[simp] theorem SlotX.runUniq_inv (x : SlotX) (s : State) (h : s.Inv) : (SlotX.runUniq x s).Inv := by
  unfold SlotX.runUniq
  simp [*]

@[simp] theorem SlotX.runRank_inv (x : SlotX) (s : State) (h : s.Inv) : (SlotX.runRank x s).Inv := by
  unfold SlotX.runRank
  dsimp only
  (repeat' split) <;> simp (maxDischargeDepth := 30) [*]

@[simp] theorem SlotX.runPart_inv (x : SlotX) (s : State) (h : s.Inv) : (SlotX.runPart x s).Inv := by
  unfold SlotX.runPart
  dsimp only
  (repeat' split) <;> simp (maxDischargeDepth := 30) [*]

/-! ### VXlane -/

@[simp] theorem SlotX.runRed_inv (x : SlotX) (s : State) (h : s.Inv) : (SlotX.runRed x s).Inv := by
  unfold SlotX.runRed
  simp [*]

@[simp] theorem SlotX.scanOut_inv (x : SlotX) (s : State) (lo : Nat) (hi : Nat) (on : Nat → Bool) (ys : List AccV) (fl : Nat) (h : s.Inv) : (SlotX.scanOut x s lo hi on ys fl).Inv := by
  unfold SlotX.scanOut
  dsimp only
  (repeat' split) <;> simp (maxDischargeDepth := 30) [*]

@[simp] theorem SlotX.runScan_inv (x : SlotX) (s : State) (lo : Nat) (hi : Nat) (h : s.Inv) : (SlotX.runScan x s lo hi).Inv := by
  unfold SlotX.runScan
  simp [*]

@[simp] theorem SlotX.runSegred_inv (x : SlotX) (s : State) (h : s.Inv) : (SlotX.runSegred x s).Inv := by
  unfold SlotX.runSegred
  dsimp only
  (repeat' split) <;> simp (maxDischargeDepth := 30) [*]

@[simp] theorem SlotX.runSegscan_inv (x : SlotX) (s : State) (lo : Nat) (hi : Nat) (h : s.Inv) : (SlotX.runSegscan x s lo hi).Inv := by
  unfold SlotX.runSegscan
  simp [*]

@[simp] theorem SlotX.permPut_inv (x : SlotX) (s : State) (hi : Nat) (outs : List (Nat × Nat)) (h : s.Inv) : (SlotX.permPut x s hi outs).Inv := by
  unfold SlotX.permPut
  dsimp only
  (repeat' split) <;> simp (maxDischargeDepth := 30) [*]

@[simp] theorem SlotX.permOut_inv (x : SlotX) (s : State) (lo : Nat) (hi : Nat) (on : Nat → Bool) (val : Nat → Option Nat) (h : s.Inv) : (SlotX.permOut x s lo hi on val).Inv := by
  unfold SlotX.permOut
  simp [*]

@[simp] theorem SlotX.runPerm_inv (x : SlotX) (s : State) (lo : Nat) (hi : Nat) (h : s.Inv) : (SlotX.runPerm x s lo hi).Inv := by
  unfold SlotX.runPerm
  simp [*]

@[simp] theorem SlotX.runCompress_inv (x : SlotX) (s : State) (lo : Nat) (hi : Nat) (h : s.Inv) : (SlotX.runCompress x s lo hi).Inv := by
  unfold SlotX.runCompress
  dsimp only
  (repeat' split) <;> simp (maxDischargeDepth := 30) [*]

@[simp] theorem SlotX.runExpand_inv (x : SlotX) (s : State) (lo : Nat) (hi : Nat) (h : s.Inv) : (SlotX.runExpand x s lo hi).Inv := by
  unfold SlotX.runExpand
  simp [*]

@[simp] theorem SlotX.runSlide_inv (x : SlotX) (s : State) (lo : Nat) (hi : Nat) (h : s.Inv) : (SlotX.runSlide x s lo hi).Inv := by
  unfold SlotX.runSlide
  simp [*]

@[simp] theorem SlotX.runRev_inv (x : SlotX) (s : State) (lo : Nat) (hi : Nat) (h : s.Inv) : (SlotX.runRev x s lo hi).Inv := by
  unfold SlotX.runRev
  simp [*]

/-! ### VQueue -/

@[simp] theorem State.updHead_inv (s : State) (c : CoreId) (e : EngId) (f : QConvoy → QConvoy) (h : s.Inv) : (State.updHead s c e f).Inv := by
  unfold State.updHead
  simp [*]

@[simp] theorem State.foundIn_inv (s : State) (c : CoreId) (e : EngId) (f : AFault) (h : s.Inv) : (State.foundIn s c e f).Inv := by
  unfold State.foundIn
  split
  · dsimp only
    split <;> simp [h]
  · exact h

@[simp] theorem State.convoyFault_inv (s : State) (c : CoreId) (e : EngId) (q : QConvoy) (i : Nat) (f : AFault) (h : s.Inv) : (State.convoyFault s c e q i f).Inv := by
  unfold State.convoyFault
  have hf := State.foundIn_inv _ c e f (State.updV_inv _ c e (fun v => { v with vstart := i })
    (State.updHead_inv s c e (fun q => { q with prog := i }) h))
  dsimp only
  split
  · exact State.freezeEng_inv _ _ _ _ _ hf
  · exact State.raiseTrap_inv _ _ _ _ (State.updEng_inv _ _ _ _ (State.updHead_inv _ _ _ _ hf))

@[simp] theorem State.unavailable_inv (s : State) (c : CoreId) (e : EngId) (q : QConvoy) (cause : Nat) (h : s.Inv) : (State.unavailable s c e q cause).Inv := by
  unfold State.unavailable
  simp [*]

@[simp] theorem State.lacks_inv (s : State) (c : CoreId) (e : EngId) (q : QConvoy) (cause : Nat) (h : s.Inv) : (State.lacks s c e q cause).Inv := by
  unfold State.lacks
  (repeat' split) <;> simp (maxDischargeDepth := 30) [*]

@[simp] theorem SlotX.note_inv (x : SlotX) (s0 : State) (f : Fly) (lo : Nat) (hi : Nat) (s : State) (hs0 : s0.Inv) (hs : s.Inv) : (SlotX.note x s0 f lo hi s).Inv := by
  unfold SlotX.note
  simp [*]

@[simp] theorem State.traceConvoy_inv (s : State) (c : CoreId) (e : EngId) (q : QConvoy) (h : s.Inv) : (State.traceConvoy s c e q).Inv := by
  unfold State.traceConvoy
  dsimp only
  (repeat' first | assumption | (intro _ _ _; dsimp only) | split | apply foldl_inv) <;> simp (maxDischargeDepth := 30) +contextual [*]

/-! ### Abound -/

@[simp] theorem execAbound_inv (rd : SReg) (rs1 : SReg) (vd : VReg) (stl : Stl) (s : State) (h : s.Inv) : resInv (execAbound rd rs1 vd stl s) := by
  unfold execAbound
  dsimp only
  (repeat' split) <;> simp (maxDischargeDepth := 30) [*]

@[simp] theorem State.aboundBegin_inv (s : State) (c : CoreId) (e : EngId) (q : QConvoy) (a : Abound) (h : s.Inv) : (State.aboundBegin s c e q a).Inv := by
  unfold State.aboundBegin
  (repeat' split) <;> simp (maxDischargeDepth := 30) [*]

@[simp] theorem State.aboundEnd_inv (s : State) (c : CoreId) (e : EngId) (q : QConvoy) (a : Abound) (h : s.Inv) : (State.aboundEnd s c e q a).Inv := by
  unfold State.aboundEnd
  dsimp only
  (repeat' split) <;> simp (maxDischargeDepth := 30) [*]

@[simp] theorem State.aboundG_inv (s : State) (c : CoreId) (sup : Bool) (va : Nat) (len : Nat) (h : s.Inv) : okInv (fun p => p.2.Inv) (State.aboundG s c sup va len) := by
  unfold State.aboundG
  (repeat' split) <;> simp (maxDischargeDepth := 30) [*]

@[simp] theorem State.aboundHeader_inv (s : State) (c : CoreId) (e : EngId) (q : QConvoy) (f : Fly) (h : s.Inv) :
    okInv State.Inv (State.aboundHeader s c e q f) := by
  unfold State.aboundHeader
  extract_lets p o val has left
  have ha := State.anyOf_inv s left h
  generalize s.anyOf left = y at ha
  obtain ⟨u, t⟩ := y
  dsimp only at ha ⊢
  split
  · exact State.updHead_inv _ _ _ _ ha
  · split
    · trivial
    · rename_i heq
      have h9 := okInv.of (State.aboundG_inv t _ _ _ _ ha) heq
      exact State.updHead_inv _ _ _ _ h9

@[simp] theorem State.aboundEntry_inv (s : State) (c : CoreId) (e : EngId) (q : QConvoy) (word : Word) (j : Nat) (h : s.Inv) :
    okInv (fun p => p.2.Inv) (State.aboundEntry s c e q word j) := by
  unfold State.aboundEntry
  dsimp only
  split
  · trivial
  · split
    · trivial
    · rename_i heq
      have ht := okInv.of (State.readAny_inv s _ _ _ _ h) heq
      split <;> first | trivial | exact ht

@[simp] theorem State.aboundNext_inv (s : State) (c : CoreId) (e : EngId) (q : QConvoy) (word : Word) (h : s.Inv) :
    okInv State.Inv (State.aboundNext s c e q word) := by
  unfold State.aboundNext
  split
  · simp [h]
  · dsimp only
    split
    · trivial
    · rename_i heq
      have h9 := okInv.of (State.aboundEntry_inv s _ _ _ _ _ h) heq
      exact State.updHead_inv _ _ _ _ h9

@[simp] theorem State.aboundStep_inv (s : State) (c : CoreId) (e : EngId) (q : QConvoy) (a : Abound) (h : s.Inv) :
    (State.aboundStep s c e q a).Inv := by
  unfold State.aboundStep
  split
  · exact h
  · split
    · exact h
    · simp [h]
    · split
      · simp [h]
      · dsimp only
        split
        · simp [h]
        · split
          · simp [h]
          · split
            · split <;> simp [h]
            · have hn := State.aboundNext_inv s c e q a.word h
              split
              · rename_i heq
                rw [heq] at hn
                exact hn
              · simp [h]
              · simp [h]

/-! ### Issue -/

@[simp] theorem State.keepLine_inv (s : State) (pa : Nat) (h : s.Inv) : (State.keepLine s pa).Inv := by
  unfold State.keepLine
  simp [*]

@[simp] theorem State.codeWord_inv (s : State) (pa : Nat) (va : Word) (h : s.Inv) : okInv (fun p => p.2.Inv) (State.codeWord s pa va) := by
  unfold State.codeWord
  (repeat' split) <;> simp (maxDischargeDepth := 30) [*]

@[simp] theorem State.fetchWord_inv (s : State) (va : Word) (h : s.Inv) : okInv (fun p => p.2.Inv) (State.fetchWord s va) := by
  unfold State.fetchWord
  dsimp only
  (repeat' split) <;> simp (maxDischargeDepth := 30) [*]

@[simp] theorem State.fetchWords_inv (s : State) (va : Word) (n : Nat) (h : s.Inv) : okInv (fun p => p.2.Inv) (State.fetchWords s va n) := by
  induction n generalizing s va with
  | zero => exact h
  | succ n ih =>
    unfold State.fetchWords
    split
    · trivial
    · rename_i t heq
      have ht := okInv.of (State.fetchWord_inv s va h) heq
      split
      · trivial
      · rename_i heq2
        have h9 := okInv.of (ih t _ ht) heq2
        exact h9

@[simp] theorem State.fetchInstr_inv (s : State) (h : s.Inv) : okInv (fun p => p.2.Inv) (State.fetchInstr s) := by
  unfold State.fetchInstr
  dsimp only
  split
  · trivial
  · rename_i t heq
    have ht := okInv.of (State.fetchWord_inv s _ h) heq
    split
    · trivial
    · split
      · trivial
      · rename_i heq2
        have h9 := okInv.of (State.fetchWords_inv t _ _ ht) heq2
        exact h9

@[simp] theorem State.decoded_inv (s : State) (w : List Byte) (h : s.Inv) : errInv (State.decoded s w) := by
  unfold State.decoded
  (repeat' split) <;> simp [h]

@[simp] theorem State.operandsReady_inv (s : State) (i : Instr) (h : s.Inv) : fronted (State.operandsReady s i) := by
  unfold State.operandsReady
  extract_lets
  (repeat' split) <;> simp (maxDischargeDepth := 10) [fronted, h]

@[simp] theorem State.front_inv (s : State) (h : s.Inv) : fronted (State.front s) := by
  unfold State.front
  split
  · exact State.deliver_inv _ _ _ _ h
  · rename_i bs t heq
    have ht := okInv.of (State.fetchInstr_inv s h) heq
    split
    · rename_i heq2
      have h9 := State.decoded_inv t bs ht
      rw [heq2] at h9
      exact h9
    · exact State.operandsReady_inv _ _ ht

@[simp] theorem State.select_inv (s : State) (c : CoreId) (e : EngId) (h : s.Inv) : (State.select s c e).Inv := by
  unfold State.select
  simp [*]

/-! ### VGroup -/

@[simp] theorem execConvoy_inv (slots : List VSlot) (stl : Stl) (s : State) (h : s.Inv) : resInv (execConvoy slots stl s) := by
  unfold execConvoy
  dsimp only
  (repeat' split) <;> simp (maxDischargeDepth := 30) [*]

@[simp] theorem State.raiseEpoch_inv (s : State) (c : CoreId) (e : EngId) (h : s.Inv) : (State.raiseEpoch s c e).Inv := by
  unfold State.raiseEpoch
  simp [*]

@[simp] theorem State.planSlots_inv (s : State) (c : CoreId) (e : EngId) (q : QConvoy) (t0 : Tags) (j : Nat) (vs : List VSlot) (t : Tags)
    (dots : List Grp) (h : s.Inv) : okInv (fun p => p.1.Inv) (State.planSlots s c e q t0 j vs t dots) := by
  induction vs generalizing s j t dots with
  | nil => exact h
  | cons v vs ih =>
    unfold State.planSlots
    dsimp only
    split
    · trivial
    · have hs : (if raisesEpoch v.op = true then s.raiseEpoch c e else s).Inv := by split <;> simp [h]
      have hp := fun a b d => ih _ a b d hs
      split
      · trivial
      · rename_i heq
        have h9 := okInv.of (hp _ _ _) heq
        exact h9

@[simp] theorem State.beginHead_inv (s : State) (c : CoreId) (e : EngId) (q : QConvoy) (h : s.Inv) : (State.beginHead s c e q).Inv := by
  unfold State.beginHead
  dsimp only
  split
  · exact h
  · simp [h]
  · split
    · simp [h]
    · rename_i heq
      have ht : okInv (fun p => p.1.Inv) (if q.plans.isEmpty = true
          then s.planSlots c e q (s.engAt c e).tagsNow 0 q.slots (s.engAt c e).tagsNow [] else Except.ok (s, q.plans, 1)) := by
        split
        · simp [h]
        · exact h
      rw [heq] at ht
      simp only [okInv_ok] at ht
      (repeat' split) <;> simp [h, ht]

@[simp] theorem SlotX.runCmp_inv (x : SlotX) (s : State) (lo : Nat) (hi : Nat) (h : s.Inv) : (SlotX.runCmp x s lo hi).Inv := by
  unfold SlotX.runCmp
  simp [*]

@[simp] theorem SlotX.runMask_inv (x : SlotX) (s : State) (lo : Nat) (hi : Nat) (h : s.Inv) : (SlotX.runMask x s lo hi).Inv := by
  unfold SlotX.runMask
  simp [*]

@[simp] theorem SlotX.runDot_inv (x : SlotX) (s : State) (lo : Nat) (hi : Nat) (h : s.Inv) : (SlotX.runDot x s lo hi).Inv := by
  unfold SlotX.runDot
  dsimp only
  (repeat' split) <;> simp (maxDischargeDepth := 30) [*]

@[simp] theorem SlotX.runEw_inv (x : SlotX) (s : State) (lo : Nat) (hi : Nat) (h : s.Inv) : (SlotX.runEw x s lo hi).Inv := by
  unfold SlotX.runEw
  dsimp only
  (repeat' split) <;> simp (maxDischargeDepth := 30) [*]

@[simp] theorem SlotX.run_inv (x : SlotX) (s : State) (f : Fly) (lo : Nat) (hi : Nat) (h : s.Inv) : (SlotX.run x s f lo hi).Inv := by
  unfold SlotX.run
  (repeat' split) <;> simp (maxDischargeDepth := 30) [*]

@[simp] theorem stageSlots_inv (c : CoreId) (e : EngId) (q : QConvoy) (f : Fly) (hi : Nat) (l : List (VSlot × Nat)) (s : State)
    (hs : List Machine.Acc) (h : s.Inv) : (stageSlots c e q f hi l s hs).1.Inv := by
  induction l generalizing s hs with
  | nil => exact h
  | cons y rest ih =>
    obtain ⟨v, j⟩ := y
    unfold stageSlots
    dsimp only
    split
    · rename_i t heq
      have ht : t.Inv := by
        have hr : (if slotScatters v then ({ c := c, e := e, q := q, j := j, v := v } : SlotX).runScatter s f f.lo hi
            else ({ c := c, e := e, q := q, j := j, v := v } : SlotX).run s f f.lo hi).Inv := by
          split
          · exact SlotX.runScatter_inv _ _ _ _ _ h
          · exact SlotX.run_inv _ _ _ _ _ h
        rw [heq] at hr
        exact hr
      exact ih _ _ (SlotX.note_inv _ _ _ _ _ _ h (State.updEng_inv _ _ _ _ ht))
    · trivial
    · trivial

@[simp] theorem State.giveAccs_inv (s : State) (c : CoreId) (e : EngId) (as : List Machine.Acc) (h : s.Inv) :
    (State.giveAccs s c e as).Inv := by
  unfold State.giveAccs
  simp [*]

@[simp] theorem State.updFront_inv (s : State) (c : CoreId) (e : EngId) (f : Fly → Fly) (h : s.Inv) :
    (State.updFront s c e f).Inv := by
  unfold State.updFront
  simp [*]

@[simp] theorem State.tagHead_inv (s : State) (c : CoreId) (e : EngId) (q : QConvoy) (h : s.Inv) : (State.tagHead s c e q).Inv := by
  unfold State.tagHead
  simp [*]

@[simp] theorem State.tailHead_inv (s : State) (c : CoreId) (e : EngId) (q : QConvoy) (h : s.Inv) : (State.tailHead s c e q).Inv := by
  unfold State.tailHead
  dsimp only
  (repeat' first | assumption | (intro _ _ _; dsimp only) | split | apply foldl_inv) <;> simp (maxDischargeDepth := 30) +contextual [*]

@[simp] theorem State.completeHead_inv (s : State) (c : CoreId) (e : EngId) (q : QConvoy) (h : s.Inv) : (State.completeHead s c e q).Inv := by
  unfold State.completeHead
  (repeat' split) <;> simp (maxDischargeDepth := 30) [*]

@[simp] theorem State.committed_inv (s : State) (c : CoreId) (e : EngId) (q : QConvoy) (f : Fly) (rest : List Fly) (hi : Nat) (h : s.Inv) : (State.committed s c e q f rest hi).Inv := by
  unfold State.committed
  dsimp only
  (repeat' split) <;> simp (maxDischargeDepth := 30) [*]

@[simp] theorem State.scatterHead_inv (s : State) (c : CoreId) (e : EngId) (q : QConvoy) (f : Fly) (rest : List Fly) (cut : Nat)
    (h : s.Inv) : (State.scatterHead s c e q f rest cut).1.Inv := by
  have hs := stageSlots_inv c e q f cut q.slots.zipIdx s [] h
  unfold State.scatterHead
  split
  · rename_i heq
    rw [heq] at hs
    exact State.committed_inv _ _ _ _ _ _ _ (State.giveAccs_inv _ _ _ _ hs)
  · simp [h]
  · dsimp only
    split
    · exact State.updFront_inv _ _ _ _ (State.updFront_inv _ _ _ _ (State.giveAccs_inv _ _ _ _ h))
    · exact State.convoyFault_inv _ _ _ _ _ _ (State.traceConvoy_inv _ _ _ _ (State.updFront_inv _ _ _ _ (State.giveAccs_inv _ _ _ _ h)))

@[simp] theorem runSlots_inv (c : CoreId) (e : EngId) (q : QConvoy) (f : Fly) (lo hi : Nat) (l : List (VSlot × Nat)) (s : State)
    (h : s.Inv) : (runSlots c e q f lo hi l s).Inv := by
  induction l generalizing s with
  | nil => exact h
  | cons y rest ih =>
    obtain ⟨v, j⟩ := y
    unfold runSlots
    dsimp only
    split
    · rename_i t heq
      have ht := SlotX.run_inv { c := c, e := e, q := q, j := j, v := v } s f lo hi h
      rw [heq] at ht
      exact ih _ (SlotX.note_inv _ _ _ _ _ _ h ht)
    · trivial
    · trivial

@[simp] theorem tryGroup_inv (c : CoreId) (e : EngId) (q : QConvoy) (f : Fly) (s : State) (n hi : Nat) (stop : Option AFault)
    (h : s.Inv) : (tryGroup c e q f s n hi stop).Inv := by
  induction n generalizing hi stop with
  | zero => exact h
  | succ n ih =>
    unfold tryGroup
    split
    · exact h
    · split
      · rename_i t heq
        have := runSlots_inv c e q f f.lo hi q.slots.zipIdx s h
        rw [heq] at this
        exact this
      · exact ih _ _
      · trivial

@[simp] theorem State.commitHead_inv (s : State) (c : CoreId) (e : EngId) (h : s.Inv) : (State.commitHead s c e).1.Inv := by
  unfold State.commitHead
  split
  · exact h
  · rename_i q _
    split
    · rename_i f rest _ _
      split
      · exact State.scatterHead_inv _ _ _ _ _ _ _ h
      · extract_lets lane top r
        have hl : ∀ (l : Option (Nat × AFault)) (n : Nat), GroupRes.Inv (match l with
            | some (i, a) => tryGroup c e q f s (q.slots.length + 2) (Nat.min n (q.stopAt i)) (some a)
            | none => tryGroup c e q f s (q.slots.length + 2) n none) := by
          intro l n
          split <;> exact tryGroup_inv _ _ _ _ _ _ _ _ h
        have hr : r.Inv := hl lane top
        clear_value r
        split
        · simp [h]
        · have ht := hr
          simp only [GroupRes.inv_done] at ht
          split
          · split
            · exact State.updHead_inv _ _ _ _ h
            · exact State.committed_inv _ _ _ _ _ _ _ ht
          · split
            · exact h
            · have hb : ∀ b : Bool, (if b then s.updCore c Core.laneMet else s).Inv := fun b => by split <;> simp [h]
              exact State.convoyFault_inv _ _ _ _ _ _ (State.traceConvoy_inv _ _ _ _ (hb _))
    · exact h

@[simp] theorem State.settle_inv (s : State) (c : CoreId) (e : EngId) (n : Nat) (h : s.Inv) : (State.settle s c e n).Inv := by
  induction n generalizing s with
  | zero => exact h
  | succ n ih =>
    have hc := State.commitHead_inv s c e h
    unfold State.settle
    split
    · rename_i t heq
      rw [heq] at hc
      split
      · exact hc
      · split
        · exact ih _ hc
        · exact hc
    · rename_i t heq
      rw [heq] at hc
      exact hc

@[simp] theorem State.issueGroup_inv (s : State) (c : CoreId) (e : EngId) (lg : Nat) (lo : Nat) (hi : Nat) (h : s.Inv) : (State.issueGroup s c e lg lo hi).Inv := by
  unfold State.issueGroup
  dsimp only
  (repeat' split) <;> simp (maxDischargeDepth := 30) [*]

@[simp] theorem State.performAll_inv (s : State) (c : CoreId) (e : EngId) (p : Machine.Acc → Bool) (n : Nat) (h : s.Inv) :
    (State.performAll s c e p n).Inv := by
  induction n generalizing s with
  | zero => exact h
  | succ n ih =>
    unfold State.performAll
    split
    · exact ih _ (State.performAcc_inv _ _ _ _ h)
    · exact h

@[simp] theorem State.performElem_inv (s : State) (c : CoreId) (e : EngId) (n : Nat) (h : s.Inv) : (State.performElem s c e n).Inv := by
  unfold State.performElem
  simp [*]

@[simp] theorem State.expire_inv (s : State) (c : CoreId) (e : EngId) (op : VOp) (h : s.Inv) : (State.expire s c e op).Inv := by
  unfold State.expire
  (repeat' split) <;> simp (maxDischargeDepth := 30) [*]

@[simp] theorem execVwaitExpiry_inv (core : CoreId) (e : EngId) (s : State) (h : s.Inv) : resInv (execVwaitExpiry core e s) := by
  unfold execVwaitExpiry
  simp [*]

@[simp] theorem execFeedLimitExpiry_inv (core : CoreId) (e : EngId) (s : State) (h : s.Inv) : resInv (execFeedLimitExpiry core e s) := by
  unfold execFeedLimitExpiry
  simp [*]

@[simp] theorem State.newWindow_inv (s : State) (c : CoreId) (h : s.Inv) : (State.newWindow s c).Inv := by
  unfold State.newWindow
  dsimp only
  (repeat' first | assumption | (intro _ _ _; dsimp only) | split | apply foldl_inv) <;> simp (maxDischargeDepth := 30) +contextual [*]

@[simp] theorem execShareWindow_inv (core : CoreId) (s : State) (h : s.Inv) : resInv (execShareWindow core s) := by
  unfold execShareWindow
  (repeat' split) <;> simp (maxDischargeDepth := 30) [*]

@[simp] theorem State.noteWaits_inv (s : State) (c : CoreId) (h : s.Inv) : (State.noteWaits s c).Inv := by
  unfold State.noteWaits
  dsimp only
  (repeat' first | assumption | (intro _ _ _; dsimp only) | split | apply foldl_inv) <;> simp (maxDischargeDepth := 30) +contextual [*]

@[simp] theorem State.advanceHead_inv (s : State) (c : CoreId) (e : EngId) (lg : Nat) (h : s.Inv) : (State.advanceHead s c e lg).Inv := by
  unfold State.advanceHead
  (repeat' split) <;> simp (maxDischargeDepth := 30) [*]

@[simp] theorem State.headStep_inv (s : State) (c : CoreId) (e : EngId) (lg : Nat) (h : s.Inv) : (State.headStep s c e lg).Inv := by
  unfold State.headStep
  dsimp only
  (repeat' split) <;> simp (maxDischargeDepth := 30) [*]

@[simp] theorem State.takeSlot_inv (s : State) (c : CoreId) (lg : Nat) (h : s.Inv) : (State.takeSlot s c lg).Inv := by
  have h0 : (if s.windowDue c then s.newWindow c else s).Inv := by split <;> simp [h]
  unfold State.takeSlot
  dsimp only
  generalize (if s.windowDue c = true then s.newWindow c else s) = t at h0 ⊢
  have h1 : ((t.noteWaits c).updCore c (fun k => { k with slotCk := (t.noteWaits c).clk, slotLg := lg + 1 })).Inv :=
    State.updCore_inv _ _ _ (State.noteWaits_inv _ _ h0)
  refine foldl_inv (fun s i h => ?_) ?_
  · split <;> simp [h]
  · split
    · exact h1
    · refine State.headStep_inv _ _ _ _ ?_
      split
      · exact State.updCore_inv _ _ _ h1
      · exact h1

@[simp] theorem State.settleAll_inv (s : State) (c : CoreId) (h : s.Inv) : (State.settleAll s c).Inv := by
  unfold State.settleAll
  refine foldl_inv (fun s t h => ?_) h
  split <;> simp [h]

@[simp] theorem execElementGroupIssue_inv (core : CoreId) (g : Fin 4) (s : State) (h : s.Inv) : resInv (execElementGroupIssue core g s) := by
  unfold execElementGroupIssue
  (repeat' split) <;> simp (maxDischargeDepth := 30) [*]

/-! ### VAlone -/

@[simp] theorem State.drive_inv (c : CoreId) (e : EngId) (seq n : Nat) (s : State) (h : s.Inv) : (State.drive c e seq n s).Inv := by
  induction n generalizing s with
  | zero => exact h
  | succ n ih =>
    unfold State.drive
    split
    · exact h
    · split
      · exact h
      · dsimp only
        refine ih _ (State.performAll_inv _ _ _ _ _ ?_)
        (repeat' split) <;> simp [h]

@[simp] theorem State.alone_inv (s : State) (op : VOp) (f : VF) (h : s.Inv) : resInv (State.alone s op f) := by
  unfold State.alone
  dsimp only
  (repeat' split) <;> simp (maxDischargeDepth := 30) [*]

@[simp] theorem execVadd_inv (f : VF) (s : State) (h : s.Inv) : resInv (execVadd f s) := by
  unfold execVadd
  simp [*]

@[simp] theorem execVsub_inv (f : VF) (s : State) (h : s.Inv) : resInv (execVsub f s) := by
  unfold execVsub
  simp [*]

@[simp] theorem execVadds_inv (f : VF) (s : State) (h : s.Inv) : resInv (execVadds f s) := by
  unfold execVadds
  simp [*]

@[simp] theorem execVsubs_inv (f : VF) (s : State) (h : s.Inv) : resInv (execVsubs f s) := by
  unfold execVsubs
  simp [*]

@[simp] theorem execVmul_inv (f : VF) (s : State) (h : s.Inv) : resInv (execVmul f s) := by
  unfold execVmul
  simp [*]

@[simp] theorem execVmin_inv (f : VF) (s : State) (h : s.Inv) : resInv (execVmin f s) := by
  unfold execVmin
  simp [*]

@[simp] theorem execVmax_inv (f : VF) (s : State) (h : s.Inv) : resInv (execVmax f s) := by
  unfold execVmax
  simp [*]

@[simp] theorem execVabs_inv (f : VF) (s : State) (h : s.Inv) : resInv (execVabs f s) := by
  unfold execVabs
  simp [*]

@[simp] theorem execVneg_inv (f : VF) (s : State) (h : s.Inv) : resInv (execVneg f s) := by
  unfold execVneg
  simp [*]

@[simp] theorem execVnot_inv (f : VF) (s : State) (h : s.Inv) : resInv (execVnot f s) := by
  unfold execVnot
  simp [*]

@[simp] theorem execVand_inv (f : VF) (s : State) (h : s.Inv) : resInv (execVand f s) := by
  unfold execVand
  simp [*]

@[simp] theorem execVor_inv (f : VF) (s : State) (h : s.Inv) : resInv (execVor f s) := by
  unfold execVor
  simp [*]

@[simp] theorem execVxor_inv (f : VF) (s : State) (h : s.Inv) : resInv (execVxor f s) := by
  unfold execVxor
  simp [*]

@[simp] theorem execVshl_inv (f : VF) (s : State) (h : s.Inv) : resInv (execVshl f s) := by
  unfold execVshl
  simp [*]

@[simp] theorem execVshr_inv (f : VF) (s : State) (h : s.Inv) : resInv (execVshr f s) := by
  unfold execVshr
  simp [*]

@[simp] theorem execVsra_inv (f : VF) (s : State) (h : s.Inv) : resInv (execVsra f s) := by
  unfold execVsra
  simp [*]

@[simp] theorem execVdiv_inv (f : VF) (s : State) (h : s.Inv) : resInv (execVdiv f s) := by
  unfold execVdiv
  simp [*]

@[simp] theorem execVsqrt_inv (f : VF) (s : State) (h : s.Inv) : resInv (execVsqrt f s) := by
  unfold execVsqrt
  simp [*]

@[simp] theorem execVrsqrt_inv (f : VF) (s : State) (h : s.Inv) : resInv (execVrsqrt f s) := by
  unfold execVrsqrt
  simp [*]

@[simp] theorem execVrcp_inv (f : VF) (s : State) (h : s.Inv) : resInv (execVrcp f s) := by
  unfold execVrcp
  simp [*]

@[simp] theorem execVclass_inv (f : VF) (s : State) (h : s.Inv) : resInv (execVclass f s) := by
  unfold execVclass
  simp [*]

@[simp] theorem execVcmp_inv (f : VF) (s : State) (h : s.Inv) : resInv (execVcmp f s) := by
  unfold execVcmp
  simp [*]

@[simp] theorem execVsel_inv (f : VF) (s : State) (h : s.Inv) : resInv (execVsel f s) := by
  unfold execVsel
  simp [*]

@[simp] theorem execVmov_inv (f : VF) (s : State) (h : s.Inv) : resInv (execVmov f s) := by
  unfold execVmov
  simp [*]

@[simp] theorem execVbcast_inv (f : VF) (s : State) (h : s.Inv) : resInv (execVbcast f s) := by
  unfold execVbcast
  simp [*]

@[simp] theorem execVid_inv (f : VF) (s : State) (h : s.Inv) : resInv (execVid f s) := by
  unfold execVid
  simp [*]

@[simp] theorem execVmand_inv (f : VF) (s : State) (h : s.Inv) : resInv (execVmand f s) := by
  unfold execVmand
  simp [*]

@[simp] theorem execVmor_inv (f : VF) (s : State) (h : s.Inv) : resInv (execVmor f s) := by
  unfold execVmor
  simp [*]

@[simp] theorem execVmnot_inv (f : VF) (s : State) (h : s.Inv) : resInv (execVmnot f s) := by
  unfold execVmnot
  simp [*]

@[simp] theorem execVfma_inv (f : VF) (s : State) (h : s.Inv) : resInv (execVfma f s) := by
  unfold execVfma
  simp [*]

@[simp] theorem execVfms_inv (f : VF) (s : State) (h : s.Inv) : resInv (execVfms f s) := by
  unfold execVfms
  simp [*]

@[simp] theorem execVfnma_inv (f : VF) (s : State) (h : s.Inv) : resInv (execVfnma f s) := by
  unfold execVfnma
  simp [*]

@[simp] theorem execVwmac_inv (f : VF) (s : State) (h : s.Inv) : resInv (execVwmac f s) := by
  unfold execVwmac
  simp [*]

@[simp] theorem execVdotBlk_inv (f : VF) (s : State) (h : s.Inv) : resInv (execVdotBlk f s) := by
  unfold execVdotBlk
  simp [*]

@[simp] theorem execVcvt_inv (f : VF) (s : State) (h : s.Inv) : resInv (execVcvt f s) := by
  unfold execVcvt
  simp [*]

@[simp] theorem execVld_inv (f : VF) (s : State) (h : s.Inv) : resInv (execVld f s) := by
  unfold execVld
  simp [*]

@[simp] theorem execVlds_inv (f : VF) (s : State) (h : s.Inv) : resInv (execVlds f s) := by
  unfold execVlds
  simp [*]

@[simp] theorem execVldx_inv (f : VF) (s : State) (h : s.Inv) : resInv (execVldx f s) := by
  unfold execVldx
  simp [*]

@[simp] theorem execVgl_inv (f : VF) (s : State) (h : s.Inv) : resInv (execVgl f s) := by
  unfold execVgl
  simp [*]

@[simp] theorem execVldIpb_inv (f : VF) (s : State) (h : s.Inv) : resInv (execVldIpb f s) := by
  unfold execVldIpb
  simp [*]

@[simp] theorem execVldZ_inv (f : VF) (s : State) (h : s.Inv) : resInv (execVldZ f s) := by
  unfold execVldZ
  simp [*]

@[simp] theorem execVst_inv (f : VF) (s : State) (h : s.Inv) : resInv (execVst f s) := by
  unfold execVst
  simp [*]

@[simp] theorem execVsts_inv (f : VF) (s : State) (h : s.Inv) : resInv (execVsts f s) := by
  unfold execVsts
  simp [*]

@[simp] theorem execVstx_inv (f : VF) (s : State) (h : s.Inv) : resInv (execVstx f s) := by
  unfold execVstx
  simp [*]

@[simp] theorem execVstX_inv (f : VF) (s : State) (h : s.Inv) : resInv (execVstX f s) := by
  unfold execVstX
  simp [*]

@[simp] theorem execVsc_inv (f : VF) (s : State) (h : s.Inv) : resInv (execVsc f s) := by
  unfold execVsc
  simp [*]

@[simp] theorem execVamo_inv (f : VF) (s : State) (h : s.Inv) : resInv (execVamo f s) := by
  unfold execVamo
  simp [*]

@[simp] theorem execVwait_inv (f : VF) (s : State) (h : s.Inv) : resInv (execVwait f s) := by
  unfold execVwait
  simp [*]

@[simp] theorem execVsortr_inv (f : VF) (s : State) (h : s.Inv) : resInv (execVsortr f s) := by
  unfold execVsortr
  simp [*]

@[simp] theorem execVchk_inv (f : VF) (s : State) (h : s.Inv) : resInv (execVchk f s) := by
  unfold execVchk
  simp [*]

@[simp] theorem execVmerge_inv (f : VF) (s : State) (h : s.Inv) : resInv (execVmerge f s) := by
  unfold execVmerge
  simp [*]

@[simp] theorem execVinter_inv (f : VF) (s : State) (h : s.Inv) : resInv (execVinter f s) := by
  unfold execVinter
  simp [*]

@[simp] theorem execVuniq_inv (f : VF) (s : State) (h : s.Inv) : resInv (execVuniq f s) := by
  unfold execVuniq
  simp [*]

@[simp] theorem execVrank_inv (f : VF) (s : State) (h : s.Inv) : resInv (execVrank f s) := by
  unfold execVrank
  simp [*]

@[simp] theorem execVpart_inv (f : VF) (s : State) (h : s.Inv) : resInv (execVpart f s) := by
  unfold execVpart
  simp [*]

@[simp] theorem execVmrgs_inv (f : VF) (s : State) (h : s.Inv) : resInv (execVmrgs f s) := by
  unfold execVmrgs
  simp [*]

@[simp] theorem execVred_inv (f : VF) (s : State) (h : s.Inv) : resInv (execVred f s) := by
  unfold execVred
  simp [*]

@[simp] theorem execVscan_inv (f : VF) (s : State) (h : s.Inv) : resInv (execVscan f s) := by
  unfold execVscan
  simp [*]

@[simp] theorem execVsegred_inv (f : VF) (s : State) (h : s.Inv) : resInv (execVsegred f s) := by
  unfold execVsegred
  simp [*]

@[simp] theorem execVsegscan_inv (f : VF) (s : State) (h : s.Inv) : resInv (execVsegscan f s) := by
  unfold execVsegscan
  simp [*]

@[simp] theorem execVsegld_inv (f : VF) (s : State) (h : s.Inv) : resInv (execVsegld f s) := by
  unfold execVsegld
  simp [*]

@[simp] theorem execVperm_inv (f : VF) (s : State) (h : s.Inv) : resInv (execVperm f s) := by
  unfold execVperm
  simp [*]

@[simp] theorem execVcompress_inv (f : VF) (s : State) (h : s.Inv) : resInv (execVcompress f s) := by
  unfold execVcompress
  simp [*]

@[simp] theorem execVexpand_inv (f : VF) (s : State) (h : s.Inv) : resInv (execVexpand f s) := by
  unfold execVexpand
  simp [*]

@[simp] theorem execVslide_inv (f : VF) (s : State) (h : s.Inv) : resInv (execVslide f s) := by
  unfold execVslide
  simp [*]

@[simp] theorem execVrev_inv (f : VF) (s : State) (h : s.Inv) : resInv (execVrev f s) := by
  unfold execVrev
  simp [*]

@[simp] theorem execVsin_inv (f : VF) (s : State) (h : s.Inv) : resInv (execVsin f s) := by
  unfold execVsin
  simp [*]

@[simp] theorem execVcos_inv (f : VF) (s : State) (h : s.Inv) : resInv (execVcos f s) := by
  unfold execVcos
  simp [*]

@[simp] theorem execVexp2_inv (f : VF) (s : State) (h : s.Inv) : resInv (execVexp2 f s) := by
  unfold execVexp2
  simp [*]

@[simp] theorem execVlog2_inv (f : VF) (s : State) (h : s.Inv) : resInv (execVlog2 f s) := by
  unfold execVlog2
  simp [*]

@[simp] theorem execVtanh_inv (f : VF) (s : State) (h : s.Inv) : resInv (execVtanh f s) := by
  unfold execVtanh
  simp [*]

@[simp] theorem execVsigm_inv (f : VF) (s : State) (h : s.Inv) : resInv (execVsigm f s) := by
  unfold execVsigm
  simp [*]

@[simp] theorem execVmmCopy_inv (f : VF) (s : State) (h : s.Inv) : resInv (execVmmCopy f s) := by
  unfold execVmmCopy
  simp [*]

@[simp] theorem execVmmFill_inv (f : VF) (s : State) (h : s.Inv) : resInv (execVmmFill f s) := by
  unfold execVmmFill
  simp [*]

end Sys2Proof.Machine
end

