-- ==== Sys2Proof/Laws/InvUnits.lean ====
section
/-! SUPPORT. The matrix unit, the streams, the routing engine, the Assayer and speculation keep the invariant. -/

namespace Sys2Proof.Machine

open Sys2Proof

/-! ### Tile -/

@[simp] theorem State.updTq_inv (s : State) (c : CoreId) (q : Fin 2) (f : TileQ → TileQ) (h : s.Inv) : (State.updTq s c q f).Inv := by
  unfold State.updTq
  simp [*]

@[simp] theorem State.tqPush_inv (s : State) (i : Instr) (q : Bool) (a : Word) (b : Word) (c : Word) (stl : Stl) (upd : Eng → Eng) (h : s.Inv) : resInv (State.tqPush s i q a b c stl upd) := by
  unfold State.tqPush
  dsimp only
  (repeat' split) <;> simp (maxDischargeDepth := 30) [*]

@[simp] theorem State.updTqHead_inv (s : State) (c : CoreId) (q : Fin 2) (f : TqEnt → TqEnt) (h : s.Inv) : (State.updTqHead s c q f).Inv := by
  unfold State.updTqHead
  simp [*]

@[simp] theorem State.tqFreeze_inv (s : State) (c : CoreId) (q : Fin 2) (code : Nat) (addr : Nat) (h : s.Inv) : (State.tqFreeze s c q code addr).Inv := by
  unfold State.tqFreeze
  simp [*]

@[simp] theorem State.tqTrap_inv (s : State) (c : CoreId) (q : Fin 2) (x : TqEnt) (code : Nat) (info : Word) (h : s.Inv) : (State.tqTrap s c q x code info).Inv := by
  unfold State.tqTrap
  simp [*]

@[simp] theorem State.tqPop_inv (s : State) (c : CoreId) (q : Fin 2) (h : s.Inv) : (State.tqPop s c q).Inv := by
  unfold State.tqPop
  simp [*]

@[simp] theorem State.arriveOwn_inv (s : State) (c : CoreId) (arrive : Bool) (b : BitVec 6) (h : s.Inv) : (State.arriveOwn s c arrive b).Inv := by
  unfold State.arriveOwn
  simp [*]

@[simp] theorem State.tqFault_inv (s : State) (c : CoreId) (q : Fin 2) (x : TqEnt) (f : AFault) (h : s.Inv) : (State.tqFault s c q x f).Inv := by
  unfold State.tqFault
  (repeat' split) <;> simp (maxDischargeDepth := 30) [*]

/-! ### Matrix -/

@[simp] theorem State.claimX_inv (s : State) (i : Instr) (k : Nat) (scaled : Bool) (stl : Stl) (h : s.Inv) : resInv (State.claimX s i k scaled stl) := by
  unfold State.claimX
  (repeat' split) <;> simp (maxDischargeDepth := 30) [*]

@[simp] theorem execMclaimX_inv (n : BitVec 6) (stl : Stl) (s : State) (h : s.Inv) : resInv (execMclaimX n stl s) := by
  unfold execMclaimX
  simp [*]

@[simp] theorem execMclaimXScl_inv (n : BitVec 6) (stl : Stl) (s : State) (h : s.Inv) : resInv (execMclaimXScl n stl s) := by
  unfold execMclaimXScl
  simp [*]

@[simp] theorem execMclaimW_inv (n : BitVec 6) (stl : Stl) (s : State) (h : s.Inv) : resInv (execMclaimW n stl s) := by
  unfold execMclaimW
  dsimp only
  (repeat' split) <;> simp (maxDischargeDepth := 30) [*]

@[simp] theorem execMreleaseX_inv (n : BitVec 6) (stl : Stl) (s : State) (h : s.Inv) : resInv (execMreleaseX n stl s) := by
  unfold execMreleaseX
  dsimp only
  (repeat' split) <;> simp (maxDischargeDepth := 30) [*]

@[simp] theorem execMreleaseW_inv (n : BitVec 6) (stl : Stl) (s : State) (h : s.Inv) : resInv (execMreleaseW n stl s) := by
  unfold execMreleaseW
  dsimp only
  (repeat' split) <;> simp (maxDischargeDepth := 30) [*]

@[simp] theorem execMzero_inv (n : BitVec 6) (q : Bool) (stl : Stl) (s : State) (h : s.Inv) : resInv (execMzero n q stl s) := by
  unfold execMzero
  (repeat' split) <;> simp (maxDischargeDepth := 30) [*]

@[simp] theorem execMqprio_inv (n : BitVec 6) (stl : Stl) (s : State) (h : s.Inv) : resInv (execMqprio n stl s) := by
  unfold execMqprio
  (repeat' split) <;> simp (maxDischargeDepth := 30) [*]

@[simp] theorem execMmodeStd_inv (q : Bool) (stl : Stl) (s : State) (h : s.Inv) : resInv (execMmodeStd q stl s) := by
  unfold execMmodeStd
  (repeat' split) <;> simp (maxDischargeDepth := 30) [*]

@[simp] theorem execMmodeRed_inv (q : Bool) (stl : Stl) (s : State) (h : s.Inv) : resInv (execMmodeRed q stl s) := by
  unfold execMmodeRed
  (repeat' split) <;> simp (maxDischargeDepth := 30) [*]

@[simp] theorem execMma_inv (f : MmaF) (stl : Stl) (s : State) (h : s.Inv) : resInv (execMma f stl s) := by
  unfold execMma
  (repeat' split) <;> simp (maxDischargeDepth := 30) [*]

@[simp] theorem execMmar_inv (f : MmaF) (stl : Stl) (s : State) (h : s.Inv) : resInv (execMmar f stl s) := by
  unfold execMmar
  (repeat' split) <;> simp (maxDischargeDepth := 30) [*]

@[simp] theorem execMreel_inv (f : MmaF) (stl : Stl) (s : State) (h : s.Inv) : resInv (execMreel f stl s) := by
  unfold execMreel
  dsimp only
  (repeat' split) <;> simp (maxDischargeDepth := 30) [*]

@[simp] theorem execMdrain_inv (f : DrainF) (stl : Stl) (s : State) (h : s.Inv) : resInv (execMdrain f stl s) := by
  unfold execMdrain
  dsimp only
  (repeat' split) <;> simp (maxDischargeDepth := 30) [*]

@[simp] theorem State.reelPart_inv (s : State) (launch : Nat) (leader : CoreId) (q : Fin 2) (m : Nat) (rep : Option (Nat × Word)) (fl : Nat)
    (h : s.Inv) : (State.reelPart s launch leader q m rep fl).Inv := by
  unfold State.reelPart
  dsimp only
  (repeat' split) <;> simp (maxDischargeDepth := 30) [*]

@[simp] theorem Pass.write_inv (p : Pass) (rs : List (List (Nat × Nat))) (copy : Nat) (s : State) (h : s.Inv) :
    (Pass.write p rs copy s).2.Inv := by
  unfold Pass.write
  simp [*]

@[simp] theorem Pass.begin_inv (p : Pass) (q : Fin 2) (leader : Option (CoreId × Nat)) (launch : Nat) (s : State) (h : s.Inv) :
    (Pass.begin p q leader launch s).Inv := by
  unfold Pass.begin
  dsimp only
  refine State.updCore_inv _ _ _ ?_
  split <;> simp [h]

@[simp] theorem State.memberPass_inv (s : State) (p : Pass) (launch : Nat) (leader : CoreId) (q : Fin 2) (m : Nat) (word : Word)
    (lost : Option Word) (h : s.Inv) : (State.memberPass s p launch leader q m word lost).Inv := by
  unfold State.memberPass
  (repeat' split) <;> simp (maxDischargeDepth := 30) [*]

@[simp] theorem State.memberEnd_inv (s : State) (c : CoreId) (r : ZRun) (leader : CoreId) (m : Nat) (h : s.Inv) :
    (State.memberEnd s c r leader m).Inv := by
  unfold State.memberEnd
  split <;> simp (maxDischargeDepth := 30) [*]

@[simp] theorem State.zEnd_inv (s : State) (c : CoreId) (r : ZRun) (h : s.Inv) : (State.zEnd s c r).Inv := by
  unfold State.zEnd
  dsimp only
  (repeat' split) <;> simp (maxDischargeDepth := 30) [*]

@[simp] theorem State.zStep_inv (s : State) (c : CoreId) (r : ZRun) (h : s.Inv) : (State.zStep s c r).Inv := by
  unfold State.zStep
  have ha := State.anyOf_inv s r.puts h
  dsimp only
  split <;> simp [ha]

@[simp] theorem State.reelLand_inv (s : State) (c : CoreId) (r : ReelJob) (h : s.Inv) : (State.reelLand s c r).Inv := by
  unfold State.reelLand
  have ha := State.anyOf_inv s r.left h
  dsimp only
  split <;> simp [ha]

@[simp] theorem State.reelStart_inv (s : State) (leader : CoreId) (q : Fin 2) (x : TqEnt) (f : MmaF) (red : Bool) (m : Nat)
    (h : s.Inv) : (State.reelStart s leader q x f red m).Inv := by
  unfold State.reelStart
  dsimp only
  (repeat' split) <;> simp (maxDischargeDepth := 30) [*]

@[simp] theorem State.grantZero_inv (s : State) (c : CoreId) (q : Fin 2) (x : TqEnt) (t : Nat) (h : s.Inv) : (State.grantZero s c q x t).Inv := by
  unfold State.grantZero
  dsimp only
  (repeat' split) <;> simp (maxDischargeDepth := 30) [*]

@[simp] theorem State.grantPass_inv (s : State) (c : CoreId) (q : Fin 2) (x : TqEnt) (f : MmaF) (rows : Nat) (h : s.Inv) : (State.grantPass s c q x f rows).Inv := by
  unfold State.grantPass
  dsimp only
  (repeat' split) <;> simp (maxDischargeDepth := 30) [*]

@[simp] theorem State.grantReel_inv (s : State) (c : CoreId) (q : Fin 2) (x : TqEnt) (f : MmaF) (h : s.Inv) : (State.grantReel s c q x f).Inv := by
  unfold State.grantReel
  dsimp only
  (repeat' first | assumption | (intro _ _ _; dsimp only) | split | apply foldl_inv) <;> simp (maxDischargeDepth := 30) +contextual [*]

@[simp] theorem State.grantHead_inv (s : State) (c : CoreId) (q : Fin 2) (h : s.Inv) : (State.grantHead s c q).Inv := by
  unfold State.grantHead
  (repeat' split) <;> simp (maxDischargeDepth := 30) [*]

@[simp] theorem State.zGrant_inv (s : State) (c : CoreId) (h : s.Inv) : (State.zGrant s c).Inv := by
  unfold State.zGrant
  dsimp only
  (repeat' split) <;> simp (maxDischargeDepth := 30) [*]

@[simp] theorem execMatrixGrant_inv (core : CoreId) (s : State) (h : s.Inv) : resInv (execMatrixGrant core s) := by
  unfold execMatrixGrant
  extract_lets k stop own
  split
  · exact h
  · have ha := State.anyOf_inv s (own ++ (if stop then [] else (s.landing core).map some)) h
    dsimp only
    split
    · exact ha
    · exact State.reelLand_inv _ _ _ ha
    · split
      · exact State.zStep_inv _ _ _ ha
      · exact State.zGrant_inv _ _ ha

@[simp] theorem State.reelEnd_inv (s : State) (c : CoreId) (q : Fin 2) (x : TqEnt) (f : MmaF) (h : s.Inv) :
    (State.reelEnd s c q x f).Inv := by
  unfold State.reelEnd
  have hv : ((((s.arriveAt (s.instAt c).launch c f.bar)).updEng c callerId (fun g => g.raise x.flags)).tqPop c q).Inv := 
    State.tqPop_inv _ _ _ (State.updEng_inv _ _ _ _ (State.arriveAt_inv _ _ _ _ h))
  dsimp only
  generalize (((s.arriveAt (s.instAt c).launch c f.bar)).updEng c callerId (fun g => g.raise x.flags)).tqPop c q = u at hv
  split
  · exact hv
  · split <;> simp [hv]

@[simp] theorem execReelComplete_inv (core : CoreId) (s : State) (h : s.Inv) : resInv (execReelComplete core s) := by
  unfold execReelComplete
  extract_lets ends
  have ha := State.anyOf_inv s (ends ++ (s.coreAt core).gangArr.map Sum.inr) h
  dsimp only
  split
  · exact ha
  · exact State.reelEnd_inv _ _ _ _ _ ha
  · simp only [inv_next]
    exact State.arriveAt_inv _ _ _ _ (State.updCore_inv _ _ _ ha)

@[simp] theorem State.drainBegin_inv (s : State) (c : CoreId) (q : Fin 2) (x : TqEnt) (f : DrainF) (h : s.Inv) : (State.drainBegin s c q x f).Inv := by
  unfold State.drainBegin
  dsimp only
  (repeat' split) <;> simp (maxDischargeDepth := 30) [*]

@[simp] theorem State.drainPut_inv (s : State) (c : CoreId) (q : Fin 2) (x : TqEnt) (f : DrainF) (last : Nat) (h : s.Inv) : (State.drainPut s c q x f last).Inv := by
  unfold State.drainPut
  extract_lets us left bad
  have ha := State.anyOf_inv s (match bad with | some (k, _) => left.filter (· < k) | none => left) h
  generalize s.anyOf (match bad with | some (k, _) => left.filter (· < k) | none => left) = y at ha
  obtain ⟨u, t⟩ := y
  dsimp only at ha ⊢
  cases u with
  | none => cases bad <;> simp [ha]
  | some k => simp [ha]

@[simp] theorem State.drainStep_inv (s : State) (c : CoreId) (q : Fin 2) (x : TqEnt) (f : DrainF) (h : s.Inv) : (State.drainStep s c q x f).Inv := by
  unfold State.drainStep
  (repeat' split) <;> simp (maxDischargeDepth := 30) [*]

@[simp] theorem State.drainOut_inv (s : State) (c : CoreId) (q : Fin 2) (h : s.Inv) : (State.drainOut s c q).Inv := by
  unfold State.drainOut
  (repeat' split) <;> simp (maxDischargeDepth := 30) [*]

/-! ### Streams -/

@[simp] theorem State.issueStrm_inv (s : State) (i : Instr) (rd : SReg) (rs1 : SReg) (q : Bool) (stl : Stl) (h : s.Inv) : resInv (State.issueStrm s i rd rs1 q stl) := by
  unfold State.issueStrm
  dsimp only
  (repeat' split) <;> simp (maxDischargeDepth := 30) [*]

@[simp] theorem execSstrm_inv (rd : SReg) (rs1 : SReg) (port : BitVec 3) (q : Bool) (stl : Stl) (s : State) (h : s.Inv) : resInv (execSstrm rd rs1 port q stl s) := by
  unfold execSstrm
  simp [*]

@[simp] theorem execSpeek_inv (rd : SReg) (rs1 : SReg) (stl : Stl) (s : State) (h : s.Inv) : resInv (execSpeek rd rs1 stl s) := by
  unfold execSpeek
  dsimp only
  (repeat' split) <;> simp (maxDischargeDepth := 30) [*]

@[simp] theorem State.issueCtl_inv (s : State) (i : Instr) (q : Bool) (stl : Stl) (h : s.Inv) : resInv (State.issueCtl s i q stl) := by
  unfold State.issueCtl
  (repeat' split) <;> simp (maxDischargeDepth := 30) [*]

@[simp] theorem execSsusp_inv (port : BitVec 3) (q : Bool) (stl : Stl) (s : State) (h : s.Inv) : resInv (execSsusp port q stl s) := by
  unfold execSsusp
  simp [*]

@[simp] theorem execSres_inv (port : BitVec 3) (q : Bool) (stl : Stl) (s : State) (h : s.Inv) : resInv (execSres port q stl s) := by
  unfold execSres
  simp [*]

@[simp] theorem execSkill_inv (port : BitVec 3) (q : Bool) (stl : Stl) (s : State) (h : s.Inv) : resInv (execSkill port q stl s) := by
  unfold execSkill
  simp [*]

@[simp] theorem execSnote_inv (port : BitVec 3) (q : Bool) (stl : Stl) (s : State) (h : s.Inv) : resInv (execSnote port q stl s) := by
  unfold execSnote
  simp [*]

@[simp] theorem execAgather_inv (rd : SReg) (rs1 : SReg) (port : BitVec 5) (q : Bool) (stl : Stl) (s : State) (h : s.Inv) : resInv (execAgather rd rs1 port q stl s) := by
  unfold execAgather
  simp [*]

@[simp] theorem State.issueRow_inv (s : State) (c : CoreId) (st : Strm) (h : s.Inv) : okInv (fun p => p.1.Inv) (State.issueRow s c st) := by
  unfold State.issueRow
  dsimp only
  (repeat' split) <;> simp (maxDischargeDepth := 30) [*]

@[simp] theorem State.strmFill_inv (s : State) (c : CoreId) (sp : Nat) (a : Word) (h : s.Inv) : (State.strmFill s c sp a).Inv := by
  unfold State.strmFill
  simp [*]

@[simp] theorem State.issueGather_inv (s : State) (c : CoreId) (st : Strm) (h : s.Inv) : okInv (fun p => p.1.Inv) (State.issueGather s c st) := by
  unfold State.issueGather
  dsimp only
  (repeat' split) <;> simp (maxDischargeDepth := 30) [*]

@[simp] theorem State.strmIssue_inv (s : State) (c : CoreId) (st : Strm) (h : s.Inv) : okInv (fun p => p.1.Inv) (State.strmIssue s c st) := by
  unfold State.strmIssue
  (repeat' split) <;> simp (maxDischargeDepth := 30) [*]

@[simp] theorem State.withChans_inv {α : Type} (s : State) (keep : BitVec 384) (f : State → Except StrmStop (State × α)) (h : s.Inv)
    (hf : ∀ t, t.Inv → okInv (fun p => p.1.Inv) (f t)) : okInv (fun p => p.1.Inv) (State.withChans s keep f) := by
  unfold State.withChans
  have := hf _ (h.of (t := { s with chanOut := s.chanOut &&& ~~~keep }) rfl rfl rfl)
  cases hr : f { s with chanOut := s.chanOut &&& ~~~keep } with
  | error e => trivial
  | ok a => rw [hr] at this; exact this

@[simp] theorem State.strmPut_inv (s : State) (c : CoreId) (l : Loc) (a : Word) (len : Nat) (v : Nat) (h : s.Inv) : okInv State.Inv (State.strmPut s c l a len v) := by
  unfold State.strmPut
  (repeat' split) <;> simp (maxDischargeDepth := 30) [*]

@[simp] theorem State.strmRemote_inv (s : State) (c : CoreId) (dcore : Nat) (a : Word) (len : Nat) (v : Nat) (h : s.Inv) : okInv State.Inv (State.strmRemote s c dcore a len v) := by
  unfold State.strmRemote
  dsimp only
  (repeat' split) <;> simp (maxDischargeDepth := 30) [*]

@[simp] theorem State.strmX_inv (s : State) (c : CoreId) (a : Word) (len : Nat) (v : Nat) (h : s.Inv) : okInv State.Inv (State.strmX s c a len v) := by
  unfold State.strmX
  dsimp only
  (repeat' split) <;> simp (maxDischargeDepth := 30) [*]

@[simp] theorem State.strmW_inv (s : State) (c : CoreId) (a : Word) (len : Nat) (v : Nat) (h : s.Inv) : okInv State.Inv (State.strmW s c a len v) := by
  unfold State.strmW
  dsimp only
  (repeat' split) <;> simp (maxDischargeDepth := 30) [*]

@[simp] theorem State.strmFeed_inv (s : State) (c : CoreId) (t : Nat) (len : Nat) (v : Nat) (h : s.Inv) : okInv State.Inv (State.strmFeed s c t len v) := by
  unfold State.strmFeed
  dsimp only
  (repeat' split) <;> simp (maxDischargeDepth := 30) [*]

@[simp] theorem State.strmWrite_inv (s : State) (c : CoreId) (sp dcore : Nat) (a : Word) (len v : Nat) (h : s.Inv) :
    okInv State.Inv (State.strmWrite s c sp dcore a len v) := by
  unfold State.strmWrite
  split
  · simp [h]
  · simp [h]
  · simp [h]
  · simp [h]
  · split
    · trivial
    · split
      · trivial
      · rename_i l _ _
        have hp := State.strmPut_inv s c l a len v h
        cases hq : s.strmPut c l a len v with
        | error x => trivial
        | ok t => rw [hq] at hp; exact State.strmFill_inv _ _ _ _ hp

@[simp] theorem State.strmWord_inv (s : State) (c : CoreId) (st : Strm) (p : Piece) (h : s.Inv) :
    okInv (fun p => p.1.Inv) (State.strmWord s c st p) := by
  have key : ∀ (ms : List Piece) (r : Except StrmStop State), okInv State.Inv r →
      okInv State.Inv (ms.foldl (fun (r : Except StrmStop State) m =>
        match r with | .ok t => t.strmWrite c 4 (st.n 4 2) m.dst m.len (m.got.getD 0) | e => e) r) := by
    intro ms
    induction ms with
    | nil => exact fun r hr => hr
    | cons m ms ih =>
      intro r hr
      refine ih _ ?_
      dsimp only
      split
      · exact State.strmWrite_inv _ _ _ _ _ _ _ hr
      · exact hr
  unfold State.strmWord
  extract_lets mate mates t
  split
  · trivial
  · have ht : okInv State.Inv t := key _ _ h
    cases hq : t with
    | error e => trivial
    | ok u => rw [hq] at ht; exact ht

@[simp] theorem State.strmPiece_inv (s : State) (c : CoreId) (st : Strm) (n : Nat) (h : s.Inv) :
    okInv (fun p => p.1.Inv) (State.strmPiece s c st n) := by
  unfold State.strmPiece
  split
  · trivial
  · refine State.withChans_inv _ _ _ h (fun t ht => ?_)
    split
    · split
      · trivial
      · exact State.strmFill_inv _ _ _ _ ht
    · split
      · exact State.strmWord_inv _ _ _ _ ht
      · split
        · trivial
        · rename_i heq
          have h9 := okInv.of (State.strmWrite_inv t c _ _ _ _ _ ht) heq
          exact h9

@[simp] theorem State.strmAct_inv (s : State) (c : CoreId) (st : Strm) (a : StrmAct) (h : s.Inv) : okInv (fun p => p.1.Inv) (State.strmAct s c st a) := by
  unfold State.strmAct
  (repeat' split) <;> simp (maxDischargeDepth := 30) [*]

@[simp] theorem State.updStrm_inv (s : State) (c : CoreId) (p : Fin 8) (f : Port → Port) (h : s.Inv) : (State.updStrm s c p f).Inv := by
  unfold State.updStrm
  simp [*]

@[simp] theorem State.strmErr_inv (s : State) (c : CoreId) (p : Fin 8) (st : Strm) (code : Nat) (faddr : Word) (fcause : Nat) (h : s.Inv) : (State.strmErr s c p st code faddr fcause).Inv := by
  unfold State.strmErr
  dsimp only
  (repeat' split) <;> simp (maxDischargeDepth := 30) [*]

@[simp] theorem State.performStream_inv (s : State) (c : CoreId) (p : Fin 8) (h : s.Inv) : (State.performStream s c p).Inv := by
  unfold State.performStream
  split
  · exact h
  · rename_i st _
    have ha := State.anyOf_inv s (s.strmActs c p) h
    generalize s.anyOf (s.strmActs c p) = y at ha
    obtain ⟨act, t⟩ := y
    dsimp only at ha ⊢
    split
    · exact ha
    · rename_i a
      have hm := State.strmAct_inv t c st a ha
      split
      · rename_i heq
        rw [heq] at hm
        exact State.updStrm_inv _ _ _ _ hm
      · exact ha
      · simp [ha]
      · simp [ha]
      · simp [ha]

@[simp] theorem execElementPerform_inv (sel : PerfSel) (s : State) (h : s.Inv) : resInv (execElementPerform sel s) := by
  unfold execElementPerform
  (repeat' first | assumption | (intro _ _ _; dsimp only) | split | apply foldl_inv) <;> simp (maxDischargeDepth := 30) +contextual [*]

@[simp] theorem execStreamStart_inv (core : CoreId) (port : Fin 8) (s : State) (h : s.Inv) : resInv (execStreamStart core port s) := by
  unfold execStreamStart
  dsimp only
  (repeat' split) <;> simp (maxDischargeDepth := 30) [*]

@[simp] theorem State.strmLand_inv (s : State) (c : CoreId) (p : Fin 8) (st : Strm) (state : Nat) (h : s.Inv) : (State.strmLand s c p st state).Inv := by
  unfold State.strmLand
  simp [*]

@[simp] theorem execStreamEnd_inv (core : CoreId) (port : Fin 8) (s : State) (h : s.Inv) : resInv (execStreamEnd core port s) := by
  unfold execStreamEnd
  dsimp only
  (repeat' split) <;> simp (maxDischargeDepth := 30) [*]

@[simp] theorem execUserInterrupt_inv (core : CoreId) (s : State) (h : s.Inv) : resInv (execUserInterrupt core s) := by
  unfold execUserInterrupt
  dsimp only
  (repeat' split) <;> simp (maxDischargeDepth := 30) [*]

@[simp] theorem State.bindHead_inv (s : State) (c : CoreId) (q : Fin 2) (x : TqEnt) (p : Fin 8) (rd : SReg) (kind : StrmKind) (h : s.Inv) : (State.bindHead s c q x p rd kind).Inv := by
  unfold State.bindHead
  dsimp only
  (repeat' split) <;> simp (maxDischargeDepth := 30) [*]

@[simp] theorem State.actSusp_inv (s : State) (c : CoreId) (p : Fin 8) (h : s.Inv) : (State.actSusp s c p).Inv := by
  unfold State.actSusp
  simp [*]

@[simp] theorem State.actRes_inv (s : State) (c : CoreId) (p : Fin 8) (h : s.Inv) : (State.actRes s c p).Inv := by
  unfold State.actRes
  (repeat' split) <;> simp (maxDischargeDepth := 30) [*]

@[simp] theorem State.actKill_inv (s : State) (c : CoreId) (p : Fin 8) (h : s.Inv) : (State.actKill s c p).Inv := by
  unfold State.actKill
  dsimp only
  (repeat' split) <;> simp (maxDischargeDepth := 30) [*]

@[simp] theorem State.actNote_inv (s : State) (c : CoreId) (p : Fin 8) (h : s.Inv) : (State.actNote s c p).Inv := by
  unfold State.actNote
  simp [*]

/-! ### Routing -/

@[simp] theorem execRtpush_inv (rs1 : SReg) (q : Bool) (stl : Stl) (s : State) (h : s.Inv) : resInv (execRtpush rs1 q stl s) := by
  unfold execRtpush
  dsimp only
  (repeat' split) <;> simp (maxDischargeDepth := 30) [*]

@[simp] theorem State.issueBlk_inv (s : State) (i : Instr) (rs1 : SReg) (q : Bool) (stl : Stl) (h : s.Inv) : resInv (State.issueBlk s i rs1 q stl) := by
  unfold State.issueBlk
  dsimp only
  (repeat' split) <;> simp (maxDischargeDepth := 30) [*]

@[simp] theorem execRdisp_inv (rs1 : SReg) (q : Bool) (stl : Stl) (s : State) (h : s.Inv) : resInv (execRdisp rs1 q stl s) := by
  unfold execRdisp
  simp [*]

@[simp] theorem execRcombPart_inv (rs1 : SReg) (q : Bool) (stl : Stl) (s : State) (h : s.Inv) : resInv (execRcombPart rs1 q stl s) := by
  unfold execRcombPart
  simp [*]

@[simp] theorem execRcombFin_inv (rs1 : SReg) (q : Bool) (stl : Stl) (s : State) (h : s.Inv) : resInv (execRcombFin rs1 q stl s) := by
  unfold execRcombFin
  simp [*]

@[simp] theorem execRgenOpen_inv (rn : SReg) (rs1 : SReg) (rs2 : SReg) (q : Bool) (stl : Stl) (s : State) (h : s.Inv) : resInv (execRgenOpen rn rs1 rs2 q stl s) := by
  unfold execRgenOpen
  dsimp only
  (repeat' split) <;> simp (maxDischargeDepth := 30) [*]

@[simp] theorem execRgenRetire_inv (rs1 : SReg) (q : Bool) (stl : Stl) (s : State) (h : s.Inv) : resInv (execRgenRetire rs1 q stl s) := by
  unfold execRgenRetire
  dsimp only
  (repeat' split) <;> simp (maxDischargeDepth := 30) [*]

@[simp] theorem State.updGate_inv (s : State) (d : Fin 8) (f : GateEnt → GateEnt) (h : s.Inv) : (State.updGate s d f).Inv := by
  unfold State.updGate
  simp [*]

@[simp] theorem State.putG_inv (s : State) (l : Launch) (p : Put) (h : s.Inv) : (State.putG s l p).Inv := by
  unfold State.putG
  simp [*]

@[simp] theorem State.foundG_inv (s : State) (l : Launch) (va : Nat) (h : s.Inv) : (State.foundG s l va).Inv := by
  unfold State.foundG
  split <;> simp [h]

@[simp] theorem State.rowFreeze_inv (s : State) (d : Fin 8) (l : Launch) (va : Nat) (h : s.Inv) : (State.rowFreeze s d l va).Inv := by
  unfold State.rowFreeze
  simp [*]

@[simp] theorem State.gateError_inv (s : State) (d : Fin 8) (g : GateEnt) (a : Nat) (h : s.Inv) : (State.gateError s d g a).Inv := by
  unfold State.gateError
  (repeat' split) <;> simp (maxDischargeDepth := 30) [*]

@[simp] theorem State.gateFault_inv (s : State) (d : Fin 8) (g : GateEnt) (x : AFault × Nat) (h : s.Inv) : (State.gateFault s d g x).Inv := by
  unfold State.gateFault
  (repeat' split) <;> simp (maxDischargeDepth := 30) [*]

@[simp] theorem State.gateStep_inv (s : State) (d : Fin 8) (g : GateEnt) (rest : List GateEnt) (h : s.Inv) : (State.gateStep s d g rest).Inv := by
  unfold State.gateStep
  dsimp only
  (repeat' split) <;> simp (maxDischargeDepth := 30) [*]

@[simp] theorem execFactorGateEntry_inv (die : Fin 8) (s : State) (h : s.Inv) : resInv (execFactorGateEntry die s) := by
  unfold execFactorGateEntry
  (repeat' split) <;> simp (maxDischargeDepth := 30) [*]

@[simp] theorem State.endRow_inv (s : State) (n : Nat) (h : s.Inv) : (State.endRow s n).Inv := by
  unfold State.endRow
  dsimp only
  (repeat' split) <;> simp (maxDischargeDepth := 30) [*]

@[simp] theorem State.updGen_inv (s : State) (n : Nat) (f : Gen → Gen) (h : s.Inv) : (State.updGen s n f).Inv := by
  unfold State.updGen
  simp [*]

@[simp] theorem State.updRow_inv (s : State) (n : Nat) (f : Row → Row) (h : s.Inv) : (State.updRow s n f).Inv := by
  unfold State.updRow
  simp [*]

@[simp] theorem State.rowPut_inv (s : State) (n : Nat) (d : Fin 8) (r : Row) (h : s.Inv) : (State.rowPut s n d r).Inv := by
  unfold State.rowPut
  dsimp only
  (repeat' split) <;> simp (maxDischargeDepth := 30) [*]

@[simp] theorem State.staleRow_inv (s : State) (n : Nat) (d : Fin 8) (h : s.Inv) : (State.staleRow s n d).Inv := by
  unfold State.staleRow
  simp [*]

@[simp] theorem State.refuseRow_inv (s : State) (d : Fin 8) (r : Row) (addr : Nat) (h : s.Inv) : (State.refuseRow s d r addr).Inv := by
  unfold State.refuseRow
  simp [*]

@[simp] theorem State.refuseAt_inv (s : State) (n : Nat) (d : Fin 8) (r : Row) (addr : Nat) (h : s.Inv) : (State.refuseAt s n d r addr).Inv := by
  unfold State.refuseAt
  simp [*]

@[simp] theorem State.judgeToken_inv (s : State) (n : Nat) (d : Fin 8) (g : Gen) (r : Row) (ps : List (Nat × Nat × Nat)) (old : List Byte) (h : s.Inv) : (State.judgeToken s n d g r ps old).Inv := by
  unfold State.judgeToken
  dsimp only
  (repeat' split) <;> simp (maxDischargeDepth := 30) [*]

@[simp] theorem State.landToken_inv (s : State) (n : Nat) (d : Fin 8) (c : CoreId) (g : Gen) (r : Row) (h : s.Inv) : (State.landToken s n d c g r).Inv := by
  unfold State.landToken
  dsimp only
  (repeat' split) <;> simp (maxDischargeDepth := 30) [*]

@[simp] theorem execRowArrival_inv (n : Nat) (s : State) (h : s.Inv) : resInv (execRowArrival n s) := by
  unfold execRowArrival
  dsimp only
  (repeat' split) <;> simp (maxDischargeDepth := 30) [*]

@[simp] theorem State.joinPiece_inv (s : State) (n : Nat) (r : Row) (h : s.Inv) : (State.joinPiece s n r).Inv := by
  unfold State.joinPiece
  (repeat' split) <;> simp (maxDischargeDepth := 30) [*]

@[simp] theorem State.holdPiece_inv (s : State) (n : Nat) (r : Row) (h : s.Inv) : (State.holdPiece s n r).Inv := by
  unfold State.holdPiece
  (repeat' split) <;> simp (maxDischargeDepth := 30) [*]

@[simp] theorem State.landCombine_inv (s : State) (n : Nat) (d : Fin 8) (g : Gen) (r : Row) (h : s.Inv) : (State.landCombine s n d g r).Inv := by
  unfold State.landCombine
  dsimp only
  (repeat' split) <;> simp (maxDischargeDepth := 30) [*]

@[simp] theorem execCombineRowArrival_inv (n : Nat) (s : State) (h : s.Inv) : resInv (execCombineRowArrival n s) := by
  unfold execCombineRowArrival
  dsimp only
  (repeat' split) <;> simp (maxDischargeDepth := 30) [*]

@[simp] theorem execDrainMarkerArrival_inv (port : Fin 32) (gen : BitVec 16) (s : State) (h : s.Inv) : resInv (execDrainMarkerArrival port gen s) := by
  unfold execDrainMarkerArrival
  (repeat' split) <;> simp (maxDischargeDepth := 30) [*]

@[simp] theorem State.pushHead_inv (s : State) (c : CoreId) (q : Fin 2) (x : TqEnt) (h : s.Inv) : (State.pushHead s c q x).Inv := by
  unfold State.pushHead
  dsimp only
  (repeat' split) <;> simp (maxDischargeDepth := 30) [*]

@[simp] theorem State.routeHead_inv (s : State) (c : CoreId) (q : Fin 2) (x : TqEnt) (kind : Nat) (h : s.Inv) : (State.routeHead s c q x kind).Inv := by
  unfold State.routeHead
  dsimp only
  (repeat' split) <;> simp (maxDischargeDepth := 30) [*]

@[simp] theorem State.openHead_inv (s : State) (c : CoreId) (q : Fin 2) (x : TqEnt) (h : s.Inv) : (State.openHead s c q x).Inv := by
  unfold State.openHead
  simp [*]

@[simp] theorem State.sendMarkers_inv (s : State) (n : Nat) (h : s.Inv) : (State.sendMarkers s n).Inv := by
  unfold State.sendMarkers
  refine foldl_inv (fun s p h => ?_) h
  extract_lets
  split
  · exact State.emit_inv _ _ _ (State.updGen_inv _ _ _ h)
  · exact h

@[simp] theorem State.retireHead_inv (s : State) (c : CoreId) (q : Fin 2) (x : TqEnt) (h : s.Inv) : (State.retireHead s c q x).Inv := by
  unfold State.retireHead
  dsimp only
  (repeat' split) <;> simp (maxDischargeDepth := 30) [*]

@[simp] theorem State.updRoute_inv (s : State) (d : Fin 8) (f : RouteCmd → RouteCmd) (h : s.Inv) : (State.updRoute s d f).Inv := by
  unfold State.updRoute
  simp [*]

@[simp] theorem State.routeReport_inv (s : State) (d : Fin 8) (k : RouteCmd) (h : s.Inv) : (State.routeReport s d k).Inv := by
  unfold State.routeReport
  dsimp only
  (repeat' split) <;> simp (maxDischargeDepth := 30) [*]

@[simp] theorem State.dispCounts_inv (s : State) (k : RouteCmd) (h : s.Inv) :
    okInv (fun p => p.1.Inv) (State.dispCounts s k) := by
  unfold State.dispCounts
  extract_lets
  split
  · exact h
  · refine okInv_map (fun mc => okInv_map (fun md => ?_))
    dsimp only
    split
    · exact h
    · split
      · exact h
      · exact State.updInstP_inv _ _ _ _ h

@[simp] theorem State.routeFreeze_inv (s : State) (d : Fin 8) (k : RouteCmd) (code : Nat) (addr : Nat) (h : s.Inv) : (State.routeFreeze s d k code addr).Inv := by
  unfold State.routeFreeze
  simp [*]

@[simp] theorem State.routeMeets_inv (s : State) (d : Fin 8) (k : RouteCmd) (x : RouteStop) (h : s.Inv) : (State.routeMeets s d k x).Inv := by
  unfold State.routeMeets
  dsimp only
  (repeat' split) <;> simp (maxDischargeDepth := 30) [*]

@[simp] theorem State.sendRow_inv (s : State) (l : Launch) (dpkg : Nat) (die : Nat) (r : Row) (h : s.Inv) : okInv State.Inv (State.sendRow s l dpkg die r) := by
  unfold State.sendRow
  dsimp only
  (repeat' first | assumption | (intro _ _ _; dsimp only) | split | apply foldl_inv) <;> simp (maxDischargeDepth := 30) +contextual [*]

theorem okInv_foldlM {ε α : Type} {f : State → α → Except ε State} (hf : ∀ s a, s.Inv → okInv State.Inv (f s a)) {l : List α} :
    ∀ {s : State}, s.Inv → okInv State.Inv (l.foldlM f s) := by
  induction l with
  | nil => exact fun h => h
  | cons a l ih =>
    intro s h
    rw [List.foldlM_cons]
    exact okInv_bind (hf s a h) (fun t ht => ih ht)

@[simp] theorem State.partSend_inv (s : State) (die : Nat) (k : RouteCmd) (h : s.Inv) : okInv State.Inv (State.partSend s die k) := by
  unfold State.partSend
  extract_lets
  refine okInv_foldlM (fun s x h => ?_) h
  split
  extract_lets
  split
  · exact h.of rfl rfl rfl
  · exact State.sendRow_inv _ _ _ _ _ h

@[simp] theorem State.sendToken_inv (s : State) (die : Nat) (k : RouteCmd) (l : Launch) (pe drow : Nat) (w0 : Word) (h : s.Inv) :
    okInv State.Inv (State.sendToken s die k l pe drow w0) := by
  have hr : ∀ r : Row, okInv State.Inv (if (bitsOf pe 11 0 == s.hub.pkg.toNat) = true then pure { s with rows := s.rows ++ [r] }
      else s.sendRow l (bitsOf pe 11 0) die r) := fun r => by
    split
    · exact h.of rfl rfl rfl
    · exact State.sendRow_inv _ _ _ _ _ h
  unfold State.sendToken
  dsimp only
  split
  · trivial
  · split
    · trivial
    · split
      · trivial
      · refine okInv_map (fun data => ?_)
        split <;> (refine okInv_map (fun sc => ?_); exact hr _)

@[simp] theorem State.dispRecord_inv (s : State) (die : Nat) (k : RouteCmd) (h : s.Inv) :
    okInv (fun p => p.1.Inv) (State.dispRecord s die k) := by
  unfold State.dispRecord
  extract_lets
  refine okInv_map (fun mr => okInv_map (fun bs => ?_))
  dsimp only
  split
  · trivial
  · split
    · trivial
    · refine okInv_map (fun mi => ?_)
      split
      · exact okInv_bind (State.sendToken_inv _ _ _ _ _ _ _ h) (fun t ht => ht)
      · exact okInv_map (fun md => h)

@[simp] theorem State.finToken_inv (s : State) (k : RouteCmd) (h : s.Inv) : okInv (fun p => p.1.Inv) (State.finToken s k) := by
  unfold State.finToken
  split
  · trivial
  · extract_lets
    refine okInv_map (fun rows => ?_)
    extract_lets
    exact okInv_map (fun ps => h)

@[simp] theorem State.routeWork_inv (s : State) (die : Nat) (k : RouteCmd) (h : s.Inv) :
    okInv (fun p => p.1.Inv) (State.routeWork s die k) := by
  unfold State.routeWork
  dsimp only
  split
  · split <;> (refine okInv_map (fun k => ?_); exact h)
  · split
    · split
      · exact okInv_bind (State.partSend_inv _ _ _ h) (fun t ht => ht)
      · exact h
    · split
      · simp [h]
      · split
        · refine okInv_map (fun k => ?_); exact h
        · simp [h]

@[simp] theorem State.routeOn_inv (s : State) (d : Fin 8) (k : RouteCmd) (h : s.Inv) : (State.routeOn s d k).Inv := by
  have hw := State.routeWork_inv s d.val k h
  have hc := State.dispCounts_inv s k h
  unfold State.routeOn
  split
  · split <;> simp [h]
  · split
    · split
      · rename_i heq; rw [heq] at hc; exact State.updRoute_inv _ _ _ hc
      · simp [h]
    · split
      · rename_i heq; rw [heq] at hw; exact State.updRoute_inv _ _ _ hw
      · simp [h]

@[simp] theorem State.routeStep_inv (s : State) (d : Fin 8) (h : s.Inv) : (State.routeStep s d).Inv := by
  unfold State.routeStep
  split
  · exact h
  · rename_i k rest _
    split
    · exact h
    · split
      · simp [h]
      · have ha := State.anyOf_inv s (none :: (List.range k.puts.length).map some) h
        generalize s.anyOf (none :: (List.range k.puts.length).map some) = y at ha
        obtain ⟨a, t⟩ := y
        dsimp only at ha ⊢
        split
        · split <;> simp [ha]
        · simp [ha]

@[simp] theorem State.engPut_inv (s : State) (l : Launch) (ps : List (Nat × Nat × Nat)) (bs : List Byte) (h : s.Inv) :
    (State.engPut s l ps bs).Inv := by
  unfold State.engPut
  generalize hx : (s, bs) = x
  have h' : x.1.Inv := by subst hx; exact h
  clear hx
  induction ps generalizing x with
  | nil => exact h'
  | cons p ps ih => exact ih _ (State.writeG_inv _ _ _ _ _ _ h')

/-! ### Kv -/

@[simp] theorem State.issueKv_inv (s : State) (i : Instr) (rd : SReg) (a : Word) (b : Word) (bad : Bool) (align : Nat) (q : Bool) (stl : Stl) (h : s.Inv) : resInv (State.issueKv s i rd a b bad align q stl) := by
  unfold State.issueKv
  (repeat' split) <;> simp (maxDischargeDepth := 30) [*]

@[simp] theorem execKvalloc_inv (rd : SReg) (rs1 : SReg) (rs2 : SReg) (q : Bool) (stl : Stl) (s : State) (h : s.Inv) : resInv (execKvalloc rd rs1 rs2 q stl s) := by
  unfold execKvalloc
  simp [*]

@[simp] theorem execKvfree_inv (rd : SReg) (rs1 : SReg) (q : Bool) (stl : Stl) (s : State) (h : s.Inv) : resInv (execKvfree rd rs1 q stl s) := by
  unfold execKvfree
  simp [*]

@[simp] theorem execKvpin_inv (rd : SReg) (rs1 : SReg) (q : Bool) (stl : Stl) (s : State) (h : s.Inv) : resInv (execKvpin rd rs1 q stl s) := by
  unfold execKvpin
  simp [*]

@[simp] theorem execKvunpin_inv (rd : SReg) (rs1 : SReg) (q : Bool) (stl : Stl) (s : State) (h : s.Inv) : resInv (execKvunpin rd rs1 q stl s) := by
  unfold execKvunpin
  simp [*]

@[simp] theorem execKvevict_inv (rd : SReg) (rs1 : SReg) (rs2 : SReg) (q : Bool) (stl : Stl) (s : State) (h : s.Inv) : resInv (execKvevict rd rs1 rs2 q stl s) := by
  unfold execKvevict
  simp [*]

@[simp] theorem execKvinv_inv (rd : SReg) (rs1 : SReg) (rs2 : SReg) (q : Bool) (stl : Stl) (s : State) (h : s.Inv) : resInv (execKvinv rd rs1 rs2 q stl s) := by
  unfold execKvinv
  simp [*]

@[simp] theorem execKvPoolEnable_inv (part : Fin 16) (v : Word) (s : State) (h : s.Inv) : resInv (execKvPoolEnable part v s) := by
  unfold execKvPoolEnable
  simp [*]

@[simp] theorem execKvPoolDisable_inv (part : Fin 16) (s : State) (h : s.Inv) : resInv (execKvPoolDisable part s) := by
  unfold execKvPoolDisable
  simp [*]

@[simp] theorem execKvPoolDisableComplete_inv (part : Fin 16) (s : State) (h : s.Inv) : resInv (execKvPoolDisableComplete part s) := by
  unfold execKvPoolDisableComplete
  dsimp only
  (repeat' split) <;> simp (maxDischargeDepth := 30) [*]

@[simp] theorem State.kvFreeze_inv (s : State) (part : Nat) (ch : Nat) (code : Nat) (addr : Nat) (h : s.Inv) : (State.kvFreeze s part ch code addr).Inv := by
  unfold State.kvFreeze
  simp [*]

@[simp] theorem State.kvHead_inv (s : State) (c : CoreId) (q : Fin 2) (x : TqEnt) (h : s.Inv) : (State.kvHead s c q x).Inv := by
  unfold State.kvHead
  dsimp only
  (repeat' split) <;> simp (maxDischargeDepth := 30) [*]

@[simp] theorem State.kvCopy_inv (s : State) (l : Launch) (src dst : Nat × Nat) (h : s.Inv) : (State.kvCopy s l src dst).Inv := by
  unfold State.kvCopy
  extract_lets t
  have ht : t.Inv := State.putG_inv _ _ _ h
  split
  · exact ht.of rfl rfl rfl
  · exact ht

@[simp] theorem State.kvFault_inv (s : State) (k : KvCmd) (info : Word) (h : s.Inv) : (State.kvFault s k info).Inv := by
  unfold State.kvFault
  extract_lets c x y t u
  have hu : u.Inv := State.updTq_inv _ _ _ _ h
  split
  · exact State.freezeEng_inv _ _ _ _ _ hu
  · exact State.raiseTrap_inv _ _ _ _ (State.updTq_inv _ _ _ _ hu)

@[simp] theorem State.kvBack_inv (s : State) (k : KvCmd) (info : Word) (h : s.Inv) : (State.kvBack s k info).Inv := by
  unfold State.kvBack
  have hf := State.foundG_inv s (s.launchAt k.launch) (info.toNat / 4096) h
  dsimp only
  split
  · exact hf
  · exact State.kvFault_inv _ _ _ hf
  · exact State.asParked_inv _ _ _ hf (fun t ht => State.kvFault_inv _ _ _ ht)

@[simp] theorem State.kvAllocStep_inv (s : State) (l : Launch) (p : Pool) (k : KvCmd) (h : s.Inv) : (State.kvAllocStep s l p k).Inv := by
  unfold State.kvAllocStep
  dsimp only
  (repeat' split) <;> simp (maxDischargeDepth := 30) [*]

@[simp] theorem State.kvEntry_inv (s : State) (l : Launch) (p : Pool) (k : KvCmd) (need a : Nat)
    (f : List (Nat × Nat × Nat) × Nat → KvStep) (hf : ∀ y, (f y).Inv) : (State.kvEntry s l p k need a f).Inv := by
  unfold State.kvEntry
  split
  · trivial
  · trivial
  · exact hf _
  · exact hf _

@[simp] theorem Pool.onFrame_inv (p : Pool) (i : Nat) (k : KvStep) (h : k.Inv) : (Pool.onFrame p i k).Inv := by
  unfold Pool.onFrame
  split
  · trivial
  · exact h

@[simp] theorem State.kvPinStep_inv (s : State) (l : Launch) (p : Pool) (k : KvCmd) (pin : Bool) (h : s.Inv) : (State.kvPinStep s l p k pin).Inv := by
  unfold State.kvPinStep
  refine State.kvEntry_inv _ _ _ _ _ _ _ (fun y => ?_)
  split
  · refine Pool.onFrame_inv _ _ _ ?_
    (repeat' split) <;> simp [h]
  · exact h

@[simp] theorem State.kvFreeStep_inv (s : State) (l : Launch) (p : Pool) (k : KvCmd) (h : s.Inv) : (State.kvFreeStep s l p k).Inv := by
  unfold State.kvFreeStep
  refine State.kvEntry_inv _ _ _ _ _ _ _ (fun y => ?_)
  dsimp only
  split
  · refine Pool.onFrame_inv _ _ _ ?_
    (repeat' split) <;> simp [h]
  · exact h

@[simp] theorem State.kvInvStep_inv (s : State) (l : Launch) (p : Pool) (k : KvCmd) (h : s.Inv) : (State.kvInvStep s l p k).Inv := by
  unfold State.kvInvStep
  split
  · exact h
  · refine State.kvEntry_inv _ _ _ _ _ _ _ (fun y => ?_)
    (repeat' split) <;> simp [h]

@[simp] theorem State.kvEvictStep_inv (s : State) (l : Launch) (p : Pool) (k : KvCmd) (h : s.Inv) : (State.kvEvictStep s l p k).Inv := by
  unfold State.kvEvictStep
  dsimp only
  split
  · exact h
  · refine State.kvEntry_inv _ _ _ _ _ _ _ (fun y => ?_)
    (repeat' split) <;> simp [h]

@[simp] theorem State.kvServe_inv (s : State) (p : Pool) (k : KvCmd) (h : s.Inv) : (State.kvServe s p k).Inv := by
  unfold State.kvServe
  dsimp only
  (repeat' split) <;> simp (maxDischargeDepth := 30) [*]

@[simp] theorem State.kvLand_inv (s : State) (k : KvCmd) (w : Word) (h : s.Inv) : (State.kvLand s k w).Inv := by
  unfold State.kvLand
  (repeat' split) <;> simp (maxDischargeDepth := 30) [*]

@[simp] theorem State.allocTake_inv (s : State) (part i : Nat) (k : KvCmd) (h : s.Inv) : (State.allocTake s part i k).Inv := by
  unfold State.allocTake
  have hk := State.kvServe_inv s (s.poolOf part) k h
  split
  · exact h
  · rename_i heq; rw [heq] at hk; simp only [KvStep.inv_more] at hk; simp [hk]
  · rename_i heq; rw [heq] at hk; simp only [KvStep.inv_fin] at hk; simp [hk]
  · simp [h]
  · simp [h]

@[simp] theorem State.allocStep_inv (s : State) (part : Nat) (h : s.Inv) : (State.allocStep s part).Inv := by
  unfold State.allocStep
  dsimp only
  (repeat' split) <;> simp (maxDischargeDepth := 30) [*]

/-! ### Speculation -/

@[simp] theorem execSctab_inv (rs1 : SReg) (stl : Stl) (s : State) (h : s.Inv) : resInv (execSctab rs1 stl s) := by
  unfold execSctab
  dsimp only
  (repeat' split) <;> simp (maxDischargeDepth := 30) [*]

@[simp] theorem State.releaseLocks_inv (s : State) (id : Nat) (c : CoreId) (e : EngId) (h : s.Inv) : (State.releaseLocks s id c e).Inv := by
  unfold State.releaseLocks
  simp [*]

@[simp] theorem execScommit_inv (stl : Stl) (s : State) (h : s.Inv) : resInv (execScommit stl s) := by
  unfold execScommit
  dsimp only
  (repeat' split) <;> simp (maxDischargeDepth := 30) [*]

@[simp] theorem execSabort_inv (stl : Stl) (s : State) (h : s.Inv) : resInv (execSabort stl s) := by
  unfold execSabort
  dsimp only
  (repeat' split) <;> simp (maxDischargeDepth := 30) [*]

@[simp] theorem State.abortMe_inv (s : State) (cause : Nat) (kind : Nat) (hash : Nat) (h : s.Inv) : resInv (State.abortMe s cause kind hash) := by
  unfold State.abortMe
  simp [*]

@[simp] theorem State.aimAt_inv (s : State) (confl : List Lock) (x : Lock) (h : s.Inv) : (State.aimAt s confl x).Inv := by
  unfold State.aimAt
  dsimp only
  (repeat' split) <;> simp (maxDischargeDepth := 30) [*]

@[simp] theorem State.sopPush_inv (s : State) (handler a0 a1 : Word) (hh k : Nat) (h : s.Inv) :
    resInv (State.sopPush s handler a0 a1 hh k) := by
  unfold State.sopPush
  dsimp only
  split
  · simp [h]
  · exact State.updMe_inv _ _ (foldl_inv (fun s a h => State.pendAcc_inv s a h) h)

@[simp] theorem State.sopEnd_inv (s : State) (q : Nat) (stl : Stl) (h : s.Inv) : resInv (State.sopEnd s q stl) := by
  unfold State.sopEnd
  split <;> simp [h]

@[simp] theorem State.sopCheck_inv (s : State) (t : Machine.Task) (handler : Word) (a0 : Word) (a1 : Word) (a5 : Nat) (k : Nat) (h : s.Inv) :
    resInv (State.sopCheck s t handler a0 a1 a5 k) := by
  unfold State.sopCheck
  dsimp only
  (repeat' first | assumption | (intro _ _ _; dsimp only) | split | apply foldl_inv) <;> simp (maxDischargeDepth := 30) +contextual [*]

@[simp] theorem execSop_inv (k : BitVec 6) (rh : SReg) (ra : SReg) (rb : SReg) (stl : Stl) (s : State) (h : s.Inv) : resInv (execSop k rh ra rb stl s) := by
  unfold execSop
  dsimp only
  (repeat' split) <;> simp (maxDischargeDepth := 30) [*]

@[simp] theorem execSreg_inv (k : BitVec 6) (rs1 : SReg) (stl : Stl) (s : State) (h : s.Inv) : resInv (execSreg k rs1 stl s) := by
  unfold execSreg
  dsimp only
  (repeat' split) <;> simp (maxDischargeDepth := 30) [*]

@[simp] theorem execSbegin_inv (rd : SReg) (off : BitVec 16) (stl : Stl) (s : State) (h : s.Inv) : resInv (execSbegin rd off stl s) := by
  unfold execSbegin
  dsimp only
  (repeat' split) <;> simp (maxDischargeDepth := 30) [*]

@[simp] theorem State.recordTrap_inv (s : State) (c : CoreId) (e : EngId) (a : Abort) (inner : Nat) (h : s.Inv) : (State.recordTrap s c e a inner).Inv := by
  unfold State.recordTrap
  simp [*]

@[simp] theorem State.popRecord_inv (s : State) (c : CoreId) (e : EngId) (a : Abort) (h : s.Inv) : (State.popRecord s c e a).Inv := by
  unfold State.popRecord
  dsimp only
  (repeat' split) <;> simp (maxDischargeDepth := 30) [*]

@[simp] theorem State.abortEnd_inv (s : State) (c : CoreId) (e : EngId) (t : Machine.Task) (a : Abort) (h : s.Inv) : (State.abortEnd s c e t a).Inv := by
  unfold State.abortEnd
  simp [*]

@[simp] theorem execSpeculationAbort_inv (core : CoreId) (e : EngId) (s : State) (h : s.Inv) : resInv (execSpeculationAbort core e s) := by
  unfold execSpeculationAbort
  dsimp only
  (repeat' split) <;> simp (maxDischargeDepth := 30) [*]

@[simp] theorem execSopWaitComplete_inv (core : CoreId) (e : EngId) (s : State) (h : s.Inv) : resInv (execSopWaitComplete core e s) := by
  unfold execSopWaitComplete
  (repeat' split) <;> simp (maxDischargeDepth := 30) [*]

end Sys2Proof.Machine
end

