-- ==== Sys2Proof/Laws/InvDevice.lean ====
section
/-! SUPPORT. The links, the boot, the life of a launch, the device registers and the mailbox keep the invariant. -/

namespace Sys2Proof.Machine

open Sys2Proof

/-! ### Link -/

@[simp] theorem State.countBad_inv (s : State) (p : Fin 32) (h : s.Inv) : (State.countBad s p).Inv := by
  unfold State.countBad
  simp [*]

@[simp] theorem State.recvFrame_inv (s : State) (p : Fin 32) (ty : Nat) (bs : List Byte) (act : State → FrameIn → State) (h : s.Inv)
    (ha : ∀ f, (act s f).Inv) : resInv (State.recvFrame s p ty bs act) := by
  unfold State.recvFrame
  split
  · exact h
  · split
    · simp [h]
    · split <;> simp [h, ha]

@[simp] theorem State.acked_inv (s : State) (p : Fin 32) (c : Fin 8) (ack : BitVec 32) (h : s.Inv) : (State.acked s p c ack).Inv := by
  unfold State.acked
  simp [*]

@[simp] theorem State.deliverFrame_inv (s : State) (p : Fin 32) (f : FrameIn) (h : s.Inv) : (State.deliverFrame s p f).Inv := by
  unfold State.deliverFrame
  simp [*]

@[simp] theorem State.sendAck_inv (s : State) (p : Fin 32) (c : Fin 8) (dpkg : Nat) (h : s.Inv) : (State.sendAck s p c dpkg).Inv := by
  unfold State.sendAck
  simp [*]

@[simp] theorem State.recvData_inv (s : State) (p : Fin 32) (f : FrameIn) (h : s.Inv) : (State.recvData s p f).Inv := by
  unfold State.recvData
  dsimp only
  (repeat' split) <;> simp (maxDischargeDepth := 30) [*]

@[simp] theorem execDataFrameReceive_inv (port : Fin 32) (frame : List Byte) (s : State) (h : s.Inv) : resInv (execDataFrameReceive port frame s) := by
  unfold execDataFrameReceive
  simp [*]

@[simp] theorem execAcknowledgement_inv (port : Fin 32) (frame : List Byte) (s : State) (h : s.Inv) : resInv (execAcknowledgement port frame s) := by
  unfold execAcknowledgement
  exact State.recvFrame_inv _ _ _ _ _ h (fun f => by simp (maxDischargeDepth := 10) [h])

@[simp] theorem execCreditGrant_inv (port : Fin 32) (frame : List Byte) (s : State) (h : s.Inv) : resInv (execCreditGrant port frame s) := by
  unfold execCreditGrant
  exact State.recvFrame_inv _ _ _ _ _ h (fun f => by simp (maxDischargeDepth := 10) [h])

@[simp] theorem State.sendData_inv (s : State) (p : Fin 32) (c : Fin 8) (f : TxFrame) (h : s.Inv) : (State.sendData s p c f).Inv := by
  unfold State.sendData
  simp [*]

@[simp] theorem execDataFrameSend_inv (port : Fin 32) (cls : Fin 8) (s : State) (h : s.Inv) : resInv (execDataFrameSend port cls s) := by
  unfold execDataFrameSend
  dsimp only
  (repeat' split) <;> simp (maxDischargeDepth := 30) [*]

@[simp] theorem execResendTimeout_inv (port : Fin 32) (cls : Fin 8) (s : State) (h : s.Inv) : resInv (execResendTimeout port cls s) := by
  unfold execResendTimeout
  dsimp only
  (repeat' first | assumption | (intro _ _ _; dsimp only) | split | apply foldl_inv) <;> simp (maxDischargeDepth := 30) +contextual [*]

@[simp] theorem State.keepAlive_inv (s : State) (p : Fin 32) (h : s.Inv) : (State.keepAlive s p).Inv := by
  unfold State.keepAlive
  simp [*]

@[simp] theorem execKeepAlive_inv (port : Fin 32) (s : State) (h : s.Inv) : resInv (execKeepAlive port s) := by
  unfold execKeepAlive
  dsimp only
  (repeat' split) <;> simp (maxDischargeDepth := 30) [*]

@[simp] theorem execPeerDown_inv (port : Fin 32) (s : State) (h : s.Inv) : resInv (execPeerDown port s) := by
  unfold execPeerDown
  dsimp only
  (repeat' split) <;> simp (maxDischargeDepth := 30) [*]

@[simp] theorem execKeepAliveReceipt_inv (port : Fin 32) (s : State) (h : s.Inv) : resInv (execKeepAliveReceipt port s) := by
  unfold execKeepAliveReceipt
  dsimp only
  (repeat' split) <;> simp (maxDischargeDepth := 30) [*]

/-! ### Boot -/

@[simp] theorem State.sendBoot_inv (s : State) (p : Fin 32) (kind : Nat) (itype : Nat) (offset : Nat) (data : List Byte) (status : Nat) (h : s.Inv) : (State.sendBoot s p kind itype offset data status).Inv := by
  unfold State.sendBoot
  simp [*]

@[simp] theorem State.bootStatus_inv (s : State) (step : Nat) (what : Nat) (h : s.Inv) : (State.bootStatus s step what).Inv := by
  unfold State.bootStatus
  (repeat' first | assumption | (intro _ _ _; dsimp only) | split | apply foldl_inv) <;> simp (maxDischargeDepth := 30) +contextual [*]

@[simp] theorem State.bootAt_inv (s : State) (b : BootSt) (h : s.Inv) : (State.bootAt s b).Inv := by
  unfold State.bootAt
  simp [*]

@[simp] theorem State.trainAnew_inv (s : State) (h : s.Inv) : (State.trainAnew s).Inv := by
  unfold State.trainAnew
  simp [*]

@[simp] theorem State.enterStep_inv (s : State) (n : Nat) (h : s.Inv) : (State.enterStep s n).Inv := by
  unfold State.enterStep
  (repeat' split) <;> simp (maxDischargeDepth := 30) [*]

@[simp] theorem State.switchOver_inv (s : State) (b : Bool) (at_ : Option Nat) (h : s.Inv) : (State.switchOver s b at_).Inv := by
  unfold State.switchOver
  simp [*]

@[simp] theorem State.updateFirmware_inv (s : State) (img : List Byte) (h : s.Inv) : (State.updateFirmware s img).Inv := by
  unfold State.updateFirmware
  dsimp only
  (repeat' split) <;> simp (maxDischargeDepth := 30) [*]

@[simp] theorem execFirmwareUpdate_inv (image : List Byte) (s : State) (h : s.Inv) : resInv (execFirmwareUpdate image s) := by
  unfold execFirmwareUpdate
  (repeat' split) <;> simp (maxDischargeDepth := 30) [*]

@[simp] theorem execHealthTimeout_inv (s : State) (h : s.Inv) : resInv (execHealthTimeout s) := by
  unfold execHealthTimeout
  dsimp only
  (repeat' split) <;> simp (maxDischargeDepth := 30) [*]

@[simp] theorem State.rewritten_inv (s : State) (h : s.Inv) : optInv State.Inv (State.rewritten s) := by
  unfold State.rewritten
  dsimp only
  (repeat' split) <;> simp (maxDischargeDepth := 30) [*]

@[simp] theorem State.recover_inv (s : State) (step : Nat) (h : s.Inv) : (State.recover s step).Inv := by
  unfold State.recover
  simp [*]

@[simp] theorem State.bootRecord_inv (s : State) (h : s.Inv) : (State.bootRecord s).Inv := by
  unfold State.bootRecord
  dsimp only
  (repeat' first | assumption | (intro _ _ _; dsimp only) | split | apply foldl_inv) <;> simp (maxDischargeDepth := 30) +contextual [*]

@[simp] theorem State.bootKey_inv (s : State) (h : s.Inv) : (State.bootKey s).Inv := by
  unfold State.bootKey
  dsimp only
  (repeat' first | assumption | (intro _ _ _; dsimp only) | split | apply foldl_inv) <;> simp (maxDischargeDepth := 30) +contextual [*]

@[simp] theorem State.bootRepair_inv (s : State) (h : s.Inv) : (State.bootRepair s).Inv := by
  unfold State.bootRepair
  simp [*]

@[simp] theorem State.runSlot_inv (s : State) (b : Bool) (h : s.Inv) : (State.runSlot s b).Inv := by
  unfold State.runSlot
  dsimp only
  (repeat' first | assumption | (intro _ _ _; dsimp only) | split | apply foldl_inv) <;> simp (maxDischargeDepth := 30) +contextual [*]

@[simp] theorem State.askImage_inv (s : State) (itype : Nat) (data : List Byte) (p : Fin 32) (h : s.Inv) : (State.askImage s itype data p).Inv := by
  unfold State.askImage
  simp [*]

@[simp] theorem State.fetchImage_inv (s : State) (itype : Nat) (h : s.Inv) : (State.fetchImage s itype).Inv := by
  unfold State.fetchImage
  (repeat' split) <;> simp (maxDischargeDepth := 30) [*]

@[simp] theorem State.bootFirmware_inv (s : State) (h : s.Inv) : (State.bootFirmware s).Inv := by
  unfold State.bootFirmware
  dsimp only
  (repeat' split) <;> simp (maxDischargeDepth := 30) [*]

@[simp] theorem State.bootRuntime_inv (s : State) (h : s.Inv) : (State.bootRuntime s).Inv := by
  unfold State.bootRuntime
  dsimp only
  (repeat' split) <;> simp (maxDischargeDepth := 30) [*]

@[simp] theorem State.bootEnter_inv (s : State) (h : s.Inv) : (State.bootEnter s).Inv := by
  unfold State.bootEnter
  dsimp only
  (repeat' first | assumption | (intro _ _ _; dsimp only) | split | apply foldl_inv) <;> simp (maxDischargeDepth := 30) +contextual [*]

@[simp] theorem execBootSequence_inv (s : State) (h : s.Inv) : resInv (execBootSequence s) := by
  have hw := State.rewritten_inv s h
  unfold execBootSequence
  split
  · exact h
  · split
    · rename_i heq
      rw [heq] at hw
      exact hw
    · (repeat' split) <;> simp [h]

@[simp] theorem execEnrolmentReport_inv (s : State) (h : s.Inv) : resInv (execEnrolmentReport s) := by
  unfold execEnrolmentReport
  dsimp only
  (repeat' first | assumption | (intro _ _ _; dsimp only) | split | apply foldl_inv) <;> simp (maxDischargeDepth := 30) +contextual [*]

@[simp] theorem execBootRequestRetry_inv (s : State) (h : s.Inv) : resInv (execBootRequestRetry s) := by
  unfold execBootRequestRetry
  (repeat' split) <;> simp (maxDischargeDepth := 30) [*]

@[simp] theorem State.fetchAgain_inv (s : State) (h : s.Inv) : (State.fetchAgain s).Inv := by
  unfold State.fetchAgain
  exact State.fetchImage_inv _ _ (State.bootAt_inv _ _ (State.trainAnew_inv _ (State.bootStatus_inv _ _ _ h)))

@[simp] theorem execBootFetchRetry_inv (s : State) (h : s.Inv) : resInv (execBootFetchRetry s) := by
  unfold execBootFetchRetry
  (repeat' split) <;> simp (maxDischargeDepth := 30) [*]

@[simp] theorem State.takeBoot_inv (s : State) (p : Fin 32) (h : s.Inv) : optInv (fun p => p.2.Inv) (State.takeBoot s p) := by
  unfold State.takeBoot
  (repeat' split) <;> simp (maxDischargeDepth := 30) [*]

@[simp] theorem State.imageDone_inv (s : State) (ty : Nat) (img : List Byte) (h : s.Inv) : (State.imageDone s ty img).Inv := by
  unfold State.imageDone
  dsimp only
  (repeat' first | assumption | (intro _ _ _; dsimp only) | split | apply foldl_inv) <;> simp (maxDischargeDepth := 30) +contextual [*]

@[simp] theorem execImageData_inv (port : Fin 32) (s : State) (h : s.Inv) : resInv (execImageData port s) := by
  unfold execImageData
  have hb := State.takeBoot_inv s port h
  split
  · exact h
  · rename_i m t heq
    rw [heq] at hb
    simp only [optInv_some] at hb
    (repeat' first | split | extract_lets) <;> simp [h, hb]

@[simp] theorem execRecordOffer_inv (port : Fin 32) (s : State) (h : s.Inv) : resInv (execRecordOffer port s) := by
  unfold execRecordOffer
  have hb := State.takeBoot_inv s port h
  split
  · exact h
  · rename_i m t heq
    rw [heq] at hb
    simp only [optInv_some] at hb
    dsimp only
    (repeat' split) <;> simp [h, hb]

@[simp] theorem execPortComeUp_inv (port : Fin 32) (s : State) (h : s.Inv) : resInv (execPortComeUp port s) := by
  unfold execPortComeUp
  dsimp only
  split
  · exact h
  · have ht : ∀ (f : BPort → BPort), (({ s.updPort port f with
        hub := { (s.updPort port f).hub with trained := Nat.max (s.updPort port f).hub.trained (port.val + 1) } } : State).sendGrants
          port).Inv := fun f => State.sendGrants_inv _ _ ((State.updPort_inv s port f h).of rfl rfl rfl)
    split
    · exact State.sendBoot_inv _ _ _ _ _ _ _ (ht _)
    · exact ht _

/-! ### Complete -/

@[simp] theorem State.modeHead_inv (s : State) (c : CoreId) (q : Fin 2) (red : Bool) (h : s.Inv) : (State.modeHead s c q red).Inv := by
  unfold State.modeHead
  simp [*]

@[simp] theorem State.headAct_inv (s : State) (c : CoreId) (q : Fin 2) (x : TqEnt) (h : s.Inv) : (State.headAct s c q x).Inv := by
  unfold State.headAct
  dsimp only
  (repeat' split) <;> simp (maxDischargeDepth := 30) [*]

@[simp] theorem State.tileStep_inv (s : State) (c : CoreId) (q : Fin 2) (h : s.Inv) : (State.tileStep s c q).Inv := by
  unfold State.tileStep
  (repeat' split) <;> simp (maxDischargeDepth := 30) [*]

@[simp] theorem execEngineCommandCompletion_inv (unit : UnitSel) (s : State) (h : s.Inv) : resInv (execEngineCommandCompletion unit s) := by
  unfold execEngineCommandCompletion
  (repeat' split) <;> simp (maxDischargeDepth := 30) [*]

/-! ### Lifecycle -/

@[simp] theorem execBarrierPhaseComplete_inv (core : CoreId) (b : BitVec 6) (s : State) (h : s.Inv) : resInv (execBarrierPhaseComplete core b s) := by
  unfold execBarrierPhaseComplete
  simp [*]

@[simp] theorem execBarTwaitExpiry_inv (core : CoreId) (e : EngId) (s : State) (h : s.Inv) : resInv (execBarTwaitExpiry core e s) := by
  unfold execBarTwaitExpiry
  (repeat' split) <;> simp (maxDischargeDepth := 30) [*]

@[simp] theorem execTrapEntry_inv (core : CoreId) (e : EngId) (s : State) (h : s.Inv) : resInv (execTrapEntry core e s) := by
  unfold execTrapEntry
  dsimp only
  (repeat' split) <;> simp (maxDischargeDepth := 30) [*]

@[simp] theorem execPreEmption_inv (core : CoreId) (s : State) (h : s.Inv) : resInv (execPreEmption core s) := by
  unfold execPreEmption
  dsimp only
  (repeat' split) <;> simp (maxDischargeDepth := 30) [*]

@[simp] theorem execInstanceStart_inv (core : CoreId) (s : State) (h : s.Inv) : resInv (execInstanceStart core s) := by
  unfold execInstanceStart
  dsimp only
  (repeat' split) <;> simp (maxDischargeDepth := 30) [*]

@[simp] theorem State.reshape_inv (s : State) (c : CoreId) (t : Nat) (h : s.Inv) : (State.reshape s c t).Inv := by
  unfold State.reshape
  simp [*]

@[simp] theorem execInstanceResume_inv (core : CoreId) (s : State) (h : s.Inv) : resInv (execInstanceResume core s) := by
  unfold execInstanceResume
  extract_lets k p l d t u
  have ht : t.Inv := State.updCore_inv _ _ _ h
  have hu : u.Inv := ht.of rfl rfl rfl
  split
  · exact h
  · split
    · exact h
    · split
      · simp [h]
      · exact foldl_inv (fun s m h => State.reshape_inv _ _ _ h) hu

@[simp] theorem execInstanceEnd_inv (core : CoreId) (s : State) (h : s.Inv) : resInv (execInstanceEnd core s) := by
  unfold execInstanceEnd
  (repeat' split) <;> simp (maxDischargeDepth := 30) [*]

@[simp] theorem execLaunchEnd_inv (id : Nat) (s : State) (h : s.Inv) : resInv (execLaunchEnd id s) := by
  unfold execLaunchEnd
  dsimp only
  (repeat' split) <;> simp (maxDischargeDepth := 30) [*]

@[simp] theorem execLaunchPortSubmit_inv (port : Fin 16) (v : Word) (s : State) (h : s.Inv) : resInv (execLaunchPortSubmit port v s) := by
  unfold execLaunchPortSubmit
  simp [*]

@[simp] theorem State.answerSub_inv (s : State) (b : Submission) (status : Nat) (h : s.Inv) : (State.answerSub s b status).Inv := by
  unfold State.answerSub
  dsimp only
  (repeat' split) <;> simp (maxDischargeDepth := 30) [*]

@[simp] theorem execSubmissionTake_inv (s : State) (h : s.Inv) : resInv (execSubmissionTake s) := by
  unfold execSubmissionTake
  dsimp only
  (repeat' split) <;> simp (maxDischargeDepth := 30) [*]

@[simp] theorem execPlacementRound_inv (s : State) (h : s.Inv) : resInv (execPlacementRound s) := by
  unfold execPlacementRound
  (repeat' split) <;> simp (maxDischargeDepth := 30) [*]

@[simp] theorem execPendingCoreRetirement_inv (core : CoreId) (s : State) (h : s.Inv) : resInv (execPendingCoreRetirement core s) := by
  unfold execPendingCoreRetirement
  dsimp only
  (repeat' split) <;> simp (maxDischargeDepth := 30) [*]

@[simp] theorem execSplitApply_inv (core : CoreId) (s : State) (h : s.Inv) : resInv (execSplitApply core s) := by
  unfold execSplitApply
  simp [*]

/-! ### Device -/

@[simp] theorem State.unlessHalted_inv (s : State) (t : State) (hs : s.Inv) (ht : t.Inv) : resInv (State.unlessHalted s t) := by
  unfold State.unlessHalted
  simp [*]

@[simp] theorem execRetireCore_inv (target : BitVec 11) (s : State) (h : s.Inv) : resInv (execRetireCore target s) := by
  unfold execRetireCore
  simp [*]

@[simp] theorem execRetireLaneGroup_inv (target : BitVec 11) (s : State) (h : s.Inv) : resInv (execRetireLaneGroup target s) := by
  unfold execRetireLaneGroup
  simp [*]

@[simp] theorem execRetireChannel_inv (target : BitVec 11) (s : State) (h : s.Inv) : resInv (execRetireChannel target s) := by
  unfold execRetireChannel
  simp [*]

@[simp] theorem execRetirePort_inv (target : BitVec 11) (s : State) (h : s.Inv) : resInv (execRetirePort target s) := by
  unfold execRetirePort
  simp [*]

@[simp] theorem execResetPartition_inv (target : BitVec 11) (s : State) (h : s.Inv) : resInv (execResetPartition target s) := by
  unfold execResetPartition
  simp [*]

@[simp] theorem execReImagePartition_inv (target : BitVec 11) (s : State) (h : s.Inv) : resInv (execReImagePartition target s) := by
  unfold execReImagePartition
  simp [*]

@[simp] theorem execRepairBadOperation_inv (op : BitVec 4) (target : BitVec 11) (s : State) (h : s.Inv) : resInv (execRepairBadOperation op target s) := by
  unfold execRepairBadOperation
  simp [*]

@[simp] theorem execHealthWord_inv (v : Word) (s : State) (h : s.Inv) : resInv (execHealthWord v s) := by
  unfold execHealthWord
  simp [*]

@[simp] theorem execNotificationPop_inv (s : State) (h : s.Inv) : resInv (execNotificationPop s) := by
  unfold execNotificationPop
  simp [*]

@[simp] theorem execUnfreezeRegister_inv (master : BitVec 32) (s : State) (h : s.Inv) : resInv (execUnfreezeRegister master s) := by
  unfold execUnfreezeRegister
  dsimp only
  (repeat' split) <;> simp (maxDischargeDepth := 30) [*]

@[simp] theorem execTrcWrite_inv (core : CoreId) (v : Word) (s : State) (h : s.Inv) : resInv (execTrcWrite core v s) := by
  unfold execTrcWrite
  simp [*]

@[simp] theorem execRegisterWrite_inv (addr : Nat) (bytes : Nat) (v : Word) (s : State) (h : s.Inv) : resInv (execRegisterWrite addr bytes v s) := by
  unfold execRegisterWrite
  simp [*]

@[simp] theorem execUcieRetrain_inv (a : Fin 10) (b : Fin 10) (s : State) (h : s.Inv) : resInv (execUcieRetrain a b s) := by
  unfold execUcieRetrain
  (repeat' split) <;> simp (maxDischargeDepth := 30) [*]

@[simp] theorem execUcieRetrainingFailure_inv (a : Fin 10) (b : Fin 10) (s : State) (h : s.Inv) : resInv (execUcieRetrainingFailure a b s) := by
  unfold execUcieRetrainingFailure
  dsimp only
  (repeat' first | assumption | (intro _ _ _; dsimp only) | split | apply foldl_inv) <;> simp (maxDischargeDepth := 30) +contextual [*]

@[simp] theorem State.cxlLost_inv (s : State) (port : Fin 8) (c : CoreId) (h : s.Inv) : (State.cxlLost s port c).Inv := by
  unfold State.cxlLost
  simp [*]

@[simp] theorem State.putsLost_inv (s : State) (port : Fin 8) (h : s.Inv) : (State.putsLost s port).Inv := by
  unfold State.putsLost
  extract_lets out route t u
  have ht : t.Inv := h.of rfl rfl rfl
  have hu : u.Inv := by
    refine foldl_inv (fun s n h => ?_) ht
    (repeat' split) <;> simp [h]
  refine foldl_inv (fun s d h => ?_) hu
  (repeat' split) <;> simp [h]

@[simp] theorem execCxlSurpriseRemoval_inv (port : Fin 8) (s : State) (h : s.Inv) : resInv (execCxlSurpriseRemoval port s) := by
  unfold execCxlSurpriseRemoval
  split
  · exact h
  · have key : ∀ u : State, u.Inv → State.Inv { u with
        cxl := u.cxl.set port.val none port.isLt, poison := u.poison.filter (fun a => !inCxl port a),
        mem := u.mem.clear (0x100000000000 + 0x20000000000 * port.val) 0x20000000000 } :=
      fun u hu => ⟨Memory.wf_clear hu.mem, hu.hostMem, hu.notifs⟩
    refine key _ (State.putsLost_inv _ _ (foldl_inv (fun s c h => ?_) h))
    refine State.asParked_inv _ _ _ ?_ (fun t ht => State.cxlLost_inv _ _ _ ht)
    split <;> simp [h]

@[simp] theorem execPowerEstimate_inv (amps : Nat) (s : State) (h : s.Inv) : resInv (execPowerEstimate amps s) := by
  unfold execPowerEstimate
  simp [*]

@[simp] theorem State.thermal_inv (s : State) (die : Fin 10) (celsius : BitVec 8) (hot : Bool) (what : Nat) (h : s.Inv) : (State.thermal s die celsius hot what).Inv := by
  unfold State.thermal
  simp [*]

@[simp] theorem execThermalThrottleEnter_inv (die : Fin 10) (celsius : BitVec 8) (s : State) (h : s.Inv) : resInv (execThermalThrottleEnter die celsius s) := by
  unfold execThermalThrottleEnter
  (repeat' split) <;> simp (maxDischargeDepth := 30) [*]

@[simp] theorem execThermalThrottleLeave_inv (die : Fin 10) (celsius : BitVec 8) (s : State) (h : s.Inv) : resInv (execThermalThrottleLeave die celsius s) := by
  unfold execThermalThrottleLeave
  (repeat' split) <;> simp (maxDischargeDepth := 30) [*]

@[simp] theorem execThermalHalt_inv (die : Fin 10) (celsius : BitVec 8) (s : State) (h : s.Inv) : resInv (execThermalHalt die celsius s) := by
  unfold execThermalHalt
  dsimp only
  (repeat' split) <;> simp (maxDischargeDepth := 30) [*]

@[simp] theorem execDebugHalt_inv (s : State) (h : s.Inv) : resInv (execDebugHalt s) := by
  unfold execDebugHalt
  simp [*]

@[simp] theorem execDebugResume_inv (s : State) (h : s.Inv) : resInv (execDebugResume s) := by
  unfold execDebugResume
  simp only [inv_next]
  have h0 : State.Inv { s with hub := { s.hub with halted := false } } := h.of rfl rfl rfl
  exact foldl_inv (fun s p h => State.sendGrants_inv s p h) h0

@[simp] theorem execPartitionResetComplete_inv (part : Fin 16) (s : State) (h : s.Inv) : resInv (execPartitionResetComplete part s) := by
  unfold execPartitionResetComplete
  dsimp only
  (repeat' split) <;> simp (maxDischargeDepth := 30) [*]

@[simp] theorem execUcieRetrainingEnd_inv (a : Fin 10) (b : Fin 10) (s : State) (h : s.Inv) : resInv (execUcieRetrainingEnd a b s) := by
  unfold execUcieRetrainingEnd
  (repeat' split) <;> simp (maxDischargeDepth := 30) [*]

/-! ### Mailbox -/

@[simp] theorem State.answer_inv (s : State) (r : Request) (status : Nat) (h : s.Inv) : (State.answer s r status).Inv := by
  unfold State.answer
  simp [*]

@[simp] theorem State.accept_inv (s : State) (r : Request) (h : s.Inv) : (State.accept s r).Inv := by
  unfold State.accept
  simp [*]

@[simp] theorem execMailboxPoll_inv (s : State) (h : s.Inv) : resInv (execMailboxPoll s) := by
  unfold execMailboxPoll
  dsimp only
  (repeat' split) <;> simp (maxDischargeDepth := 30) [*]

@[simp] theorem State.nextReq_inv (s : State) (op : Nat) (h : s.Inv) : optInv (fun p => p.2.Inv) (State.nextReq s op) := by
  unfold State.nextReq
  dsimp only
  (repeat' split) <;> simp (maxDischargeDepth := 30) [*]

@[simp] theorem execSubmitLaunch_inv (s : State) (h : s.Inv) : resInv (execSubmitLaunch s) := by
  unfold execSubmitLaunch
  split
  · exact h
  · split
    · exact h
    · exact h.of rfl rfl rfl

@[simp] theorem execCancelLaunch_inv (s : State) (h : s.Inv) : resInv (execCancelLaunch s) := by
  unfold execCancelLaunch
  have hn := State.nextReq_inv s 2 h
  split
  · exact h
  · rename_i r t heq
    rw [heq] at hn
    simp only [optInv_some] at hn
    split
    · simp [hn]
    · extract_lets u
      have hu : u.Inv := State.answer_inv _ _ _ (State.fatal_inv _ _ _ _ _ _ hn)
      simp only [inv_next]
      split <;> simp [hu]

@[simp] theorem execAttest_inv (written : Bool) (s : State) (h : s.Inv) : resInv (execAttest written s) := by
  unfold execAttest
  have hn := State.nextReq_inv s 3 h
  split
  · exact h
  · rename_i r t heq
    rw [heq] at hn
    simp only [optInv_some] at hn
    split
    · simp [hn]
    · simp only [inv_next]
      have hf := State.free_inv _ hn
      refine State.answer_inv _ _ _ ?_
      exact ⟨hf.mem, Memory.wf_writeBytes hf.hostMem, hf.notifs⟩

@[simp] theorem execConfigurationRecord_inv (read : Bool) (s : State) (h : s.Inv) : resInv (execConfigurationRecord read s) := by
  unfold execConfigurationRecord
  have hn := State.nextReq_inv s 4 h
  split
  · exact h
  · rename_i r t heq
    rw [heq] at hn
    simp only [optInv_some] at hn
    split
    · exact State.answer_inv _ _ _ (hn.of rfl rfl rfl)
    · split
      · simp [hn]
      · split
        · exact h.of rfl rfl rfl
        · simp [hn]

@[simp] theorem execRuntimeImage_inv (read : Bool) (s : State) (h : s.Inv) : resInv (execRuntimeImage read s) := by
  unfold execRuntimeImage
  have hn := State.nextReq_inv s 5 h
  split
  · exact h
  · rename_i r t heq
    rw [heq] at hn
    simp only [optInv_some] at hn
    dsimp only
    split
    · simp [hn]
    · split
      · simp [hn]
      · split
        · exact State.answer_inv _ _ _ (hn.of rfl rfl rfl)
        · simp [hn]

@[simp] theorem execResponseRelease_inv (s : State) (h : s.Inv) : resInv (execResponseRelease s) := by
  unfold execResponseRelease
  dsimp only
  (repeat' split) <;> simp (maxDischargeDepth := 30) [*]

@[simp] theorem execBirotteRequest_inv (port : Fin 32) (s : State) (h : s.Inv) : resInv (execBirotteRequest port s) := by
  unfold execBirotteRequest
  (repeat' split) <;> simp (maxDischargeDepth := 30) [*]

@[simp] theorem State.powerFail_inv (s : State) (keepOld : Bool) (fresh : State) (hs : s.Inv) (hfresh : fresh.Inv) : (State.powerFail s keepOld fresh).Inv := by
  unfold State.powerFail
  dsimp only
  (repeat' split) <;> simp (maxDischargeDepth := 30) [*]

/-! ### Moves -/

@[simp] theorem State.restart_inv (s : State) (h : s.Inv) : (State.restart s).Inv := ⟨rfl, h.hostMem, Nat.zero_le _⟩

@[simp] theorem execPowerFail_inv (keepOld : Bool) (s : State) (h : s.Inv) : resInv (execPowerFail keepOld s) := by
  unfold execPowerFail
  simp [*]

@[simp] theorem State.hostWrite_inv (s : State) (off : Nat) (bs : List Byte) (h : s.Inv) : resInv (State.hostWrite s off bs) := by
  unfold State.hostWrite
  dsimp only
  (repeat' split) <;> simp (maxDischargeDepth := 30) [*]

@[simp] theorem State.hostRead_inv (s : State) (off : Nat) (len : Nat) (h : s.Inv) : resInv (State.hostRead s off len) := by
  unfold State.hostRead
  (repeat' split) <;> simp (maxDischargeDepth := 30) [*]

@[simp] theorem State.ifRuntime_inv (s : State) (t : State) (hs : s.Inv) (ht : t.Inv) : (State.ifRuntime s t).Inv := by
  unfold State.ifRuntime
  simp [*]

@[simp] theorem State.definePart_inv (s : State) (p : Fin 16) (d : Option PartDef) (h : s.Inv) : (State.definePart s p d).Inv := by
  unfold State.definePart
  simp [*]

@[simp] theorem State.poisonWord_inv (s : State) (pa : Nat) (h : s.Inv) : (State.poisonWord s pa).Inv := by
  unfold State.poisonWord
  simp [*]

@[simp] theorem State.poisonBuf_inv (s : State) (c : CoreId) (sp : Nat) (off : Nat) (h : s.Inv) : (State.poisonBuf s c sp off).Inv := by
  unfold State.poisonBuf
  dsimp only
  (repeat' split) <;> simp (maxDischargeDepth := 30) [*]

@[simp] theorem State.outside_inv (s : State) (m : Move) (h : s.Inv) : resInv (State.outside s m) := by
  unfold State.outside
  split
  · exact h
  · exact h
  · simp [h]
  · simp [h]
  · exact ⟨h.mem, Memory.wf_writeBytes h.hostMem, h.notifs⟩
  · exact State.ifRuntime_inv _ _ h (State.definePart_inv _ _ _ h)
  · refine State.ifRuntime_inv _ _ h ?_
    split
    · exact h
    · exact h.of rfl rfl rfl
  · exact State.ifRuntime_inv _ _ h (h.of rfl rfl rfl)
  · exact State.ifRuntime_inv _ _ h (h.of rfl rfl rfl)
  · exact h.of rfl rfl rfl
  · exact State.ifRuntime_inv _ _ h (h.of rfl rfl rfl)
  · exact h.of rfl rfl rfl
  · simp [h]
  · exact h.of rfl rfl rfl
  · simp [h]
  · simp [h]
  · simp [h]
  · exact h.of rfl rfl rfl

end Sys2Proof.Machine
end

