-- ==== Sys2Proof/Laws/Ops.lean ====
section
/-! SUPPORT. What the operations over the executing engine can do, said once each: changing the engine, finishing an
instruction, writing a register or a predicate, taking a trap, issuing an access, entering a tile queue. -/

namespace Sys2Proof.Laws

open Sys2Proof Sys2Proof.Machine Sys2Proof.Claims

theorem me_updMe (s : State) (f : Eng → Eng) : (s.updMe f).me = f s.me := by
  simp [State.updMe, State.updEng, State.updInst, State.updCore, State.me, State.engAt, State.instAt, State.coreAt,
    Inst.updEng]

theorem updMe_updMe (s : State) (f g : Eng → Eng) : (s.updMe f).updMe g = s.updMe (fun x => g (f x)) := by
  simp [State.updMe, State.updEng, State.updInst, State.updCore, Inst.updEng]

/-- A change of the engine that depends on the engine alone is the same as writing its new value. -/
theorem updMe_const (s : State) (f : Eng → Eng) : s.updMe f = s.updMe (fun _ => f s.me) := rfl

theorem updMe_onlyMe (s : State) (f : Eng → Eng) : onlyMe s (s.updMe f) := by
  unfold onlyMe; rw [me_updMe]; rfl

theorem bytesKept_of_onlyMe {s t : State} (h : onlyMe s t) : bytesKept s t := by
  unfold onlyMe at h
  rw [h]
  refine ⟨fun a => rfl, fun c a => ?_⟩
  simp only [State.updMe, State.updEng, State.updInst, State.updCore, State.coreAt]
  by_cases hc : s.core = c
  · subst hc; simp
  · have : (s.core).val ≠ c.val := fun h => hc (Fin.ext h)
    simp [Fin.getElem_fin, Vector.getElem_set_ne, this]

theorem updMe_completed (s : State) (f : Eng → Eng) (h : engKept s.me (f s.me)) : completed s (s.updMe f) :=
  ⟨updMe_onlyMe s f, by rw [me_updMe]; exact h, bytesKept_of_onlyMe (updMe_onlyMe s f)⟩

/-- What `finish` does to the engine, at a ck. -/
def finished (clk n : Nat) (stl : Stl) (outs : List (Nat × Nat)) (g : Eng) : Eng :=
  { g with
    pc := g.pc + wordN n, seq := g.seq + 8, cyc := clk + 1 + stl.toNat, skip := 0,
    lat := (outs.map (fun o => ({ reg := o.1, ready := clk + 1 + o.2, at_ := clk, stl := stl.toNat } : Machine.Lat)))
      ++ g.lat.filter (fun l => clk + 1 < l.ready && !outs.any (fun o => o.1 == l.reg)) }

/-- The next state of a change of the engine followed by `finish`. -/
theorem updMe_finish (s : State) (f : Eng → Eng) (n : Nat) (stl : Stl) (outs : List (Nat × Nat)) :
    (s.updMe f).finish n stl outs = s.updMe (fun g => finished s.clk n stl outs (f g)) := by
  unfold State.finish
  rw [updMe_updMe]; rfl

/-! ### Registers -/

theorem wr_eq (g : Eng) (rd : SReg) (v : Word) :
    g.wr rd v =
      { g with
        regs := (g.wr rd v).regs, shadow := (g.wr rd v).shadow, stats := (g.wr rd v).stats, lat := (g.wr rd v).lat } := by
  unfold Eng.wr; split; · rfl
  dsimp only; split <;> rfl

theorem wrP_eq (g : Eng) (p : PReg) (v : Bool) : g.wrP p v = { g with preds := (g.wrP p v).preds, lat := (g.wrP p v).lat } := by
  unfold Eng.wrP; split <;> rfl

/-- A write of a register: it reads the value, and the others read as before. -/
theorem rd_wr (g : Eng) (rd r : SReg) (v : Word) : (g.wr rd v).rd r = if r = rd ∧ r ≠ 0 then v else g.rd r := by
  by_cases h0 : rd = 0
  · have hw : g.wr rd v = g := by unfold Eng.wr; rw [h0]; rfl
    rw [hw, if_neg (fun hr => hr.2 (hr.1.trans h0))]
  have h0' : (rd == 0) = false := beq_false_of_ne h0
  by_cases hr0 : r = 0
  · rw [hr0, if_neg (fun h => h.2 rfl)]; rfl
  have hr0' : (r == 0) = false := beq_false_of_ne hr0
  by_cases hs : (g.tr.uirq && 24 ≤ rd.toNat && rd.toNat ≤ 29) = true
  · have hw : g.wr rd v =
        { g with
          stats := g.stats.filter (fun t => !(t.reg == rd && t.shadow == g.shadowed rd.toNat)),
          lat := g.lat.filter (fun l => l.reg != rd.toNat),
          shadow := g.shadow.set ((rd.toNat - 24) % 6) v (Nat.mod_lt _ (by decide)) } := by
      unfold Eng.wr; simp only [h0', hs, Bool.false_eq_true, if_false, if_true]
    have hu : g.tr.uirq = true ∧ 24 ≤ rd.toNat ∧ rd.toNat ≤ 29 := by simpa [and_assoc] using hs
    rw [hw]
    by_cases he : r = rd
    · rw [if_pos ⟨he, hr0⟩, he]
      unfold Eng.rd
      simp only [h0', hs, Bool.false_eq_true, if_false, if_true, Vector.getElem_set_self]
    · rw [if_neg (fun h => he h.1)]
      unfold Eng.rd
      by_cases hrb : (g.tr.uirq && 24 ≤ r.toNat && r.toNat ≤ 29) = true
      · have hb : 24 ≤ r.toNat ∧ r.toNat ≤ 29 := by simp [and_assoc] at hrb; exact hrb.2
        have hne : (rd.toNat - 24) % 6 ≠ (r.toNat - 24) % 6 := by
          have : r.toNat ≠ rd.toNat := fun h => he (BitVec.eq_of_toNat_eq h)
          omega
        simp only [hr0', hrb, Bool.false_eq_true, if_false, if_true, Vector.getElem_set_ne _ _ hne]
      · simp only [hr0', hrb, Bool.false_eq_true, if_false]
  · have hw : g.wr rd v =
        { g with
          stats := g.stats.filter (fun t => !(t.reg == rd && t.shadow == g.shadowed rd.toNat)),
          lat := g.lat.filter (fun l => l.reg != rd.toNat), regs := g.regs.set rd.toNat v rd.isLt } := by
      unfold Eng.wr; simp only [h0', hs, Bool.false_eq_true, if_false]
    rw [hw]
    by_cases he : r = rd
    · rw [if_pos ⟨he, hr0⟩, he]
      unfold Eng.rd
      simp only [h0', hs, Bool.false_eq_true, if_false, Vector.getElem_set_self]
    · rw [if_neg (fun h => he h.1)]
      have hne : rd.toNat ≠ r.toNat := fun h => he (BitVec.eq_of_toNat_eq h.symm)
      unfold Eng.rd
      simp only [Vector.getElem_set_ne _ _ hne]

theorem wr_regSet (g : Eng) (rd : SReg) (v : Word) : regSet g (g.wr rd v) rd v := by
  refine ⟨fun r => rd_wr g rd r v, fun r h => ?_, fun h => ?_⟩
  · unfold Eng.wr
    split; · rfl
    dsimp only; split; · rfl
    · rename_i _ hs
      rcases h with ⟨hu, h1, h2⟩ | h
      · by_cases he : r.val = rd.toNat
        · simp [hu, ← he, h1, h2] at hs
        · simp [Fin.getElem_fin, Vector.getElem_set_ne, Ne.symm he]
      · simp [Fin.getElem_fin, Vector.getElem_set_ne, Ne.symm h]
  · unfold Eng.wr
    split; · rfl
    simp [h]

/-- `writeReg`: the register alone. -/
theorem writeReg_spec (s : State) (rd : SReg) (v : Word) (lam : Nat) (stl : Stl) :
    ∃ t, s.writeReg rd v lam stl = .next t ∧ regSet s.me t.me rd v ∧ t.me.preds = s.me.preds ∧ t.me.pc = s.me.pc + 4 ∧
      completed s t := by
  refine ⟨_, rfl, ?_⟩
  rw [updMe_finish]
  refine ⟨?_, ?_, ?_, updMe_completed _ _ ?_⟩
  · rw [me_updMe]
    have h := wr_regSet s.me rd v
    exact ⟨fun r => h.1 r, h.2.1, h.2.2⟩
  · rw [me_updMe, wr_eq]; rfl
  · rw [me_updMe, wr_eq]; rfl
  · unfold engKept; rw [wr_eq]; rfl

theorem getLsbD_setBit (n : BitVec 8) (a b : PReg) (v : Bool) :
    (BitVec.ofNat 8 (setBitN n.toNat a.toNat v)).getLsbD b.toNat = if b = a then v else n.getLsbD b.toNat := by
  have hb : b.toNat < 8 := b.isLt
  have ha : a.toNat < 8 := a.isLt
  have hbit : ∀ j, n.getLsbD j = n.toNat.testBit j := fun j => rfl
  have hab : b = a ↔ b.toNat = a.toNat := ⟨fun h => by rw [h], fun h => BitVec.eq_of_toNat_eq h⟩
  simp only [BitVec.getLsbD_ofNat, hb, decide_true, Bool.true_and, hbit, hab]
  unfold setBitN
  rw [Nat.one_shiftLeft]
  by_cases h : b.toNat = a.toNat
  · rw [if_pos h, h]
    cases v
    · by_cases ht : n.toNat.testBit a.toNat = true <;> simp [ht, Nat.testBit_xor]
    · simp [Nat.testBit_or]
  · have h' : a.toNat ≠ b.toNat := fun e => h e.symm
    rw [if_neg h]
    cases v
    · by_cases ht : n.toNat.testBit a.toNat = true <;> simp [ht, h', Nat.testBit_xor]
    · simp [h', Nat.testBit_or]

theorem rdP_wrP (g : Eng) (pd p : PReg) (v : Bool) : (g.wrP pd v).rdP p = if p = pd ∧ p ≠ 0 then v else g.rdP p := by
  by_cases h : pd = 0
  · have hw : g.wrP pd v = g := by unfold Eng.wrP; rw [h]; rfl
    rw [hw, if_neg (fun hr => hr.2 (hr.1.trans h))]
  have h' : (pd == 0) = false := beq_false_of_ne h
  have hw : g.wrP pd v =
      { g with
        preds := BitVec.ofNat 8 (setBitN g.preds.toNat pd.toNat v), lat := g.lat.filter (fun l => l.reg != 32 + pd.toNat) } := by
    unfold Eng.wrP; simp only [h', Bool.false_eq_true, if_false]
  rw [hw]
  unfold Eng.rdP
  by_cases hp : p = 0
  · rw [hp, if_neg (fun h => h.2 rfl)]; rfl
  have hp' : (p == 0) = false := beq_false_of_ne hp
  simp only [getLsbD_setBit, hp', Bool.false_or, ne_eq, hp, not_false_eq_true, and_true]

/-- `writePred`: the predicate alone. -/
theorem writePred_spec (s : State) (pd : PReg) (v : Bool) (stl : Stl) :
    ∃ t, s.writePred pd v stl = .next t ∧ predSet s.me t.me pd v ∧ regsKept s.me t.me ∧ t.me.pc = s.me.pc + 4 ∧
      completed s t := by
  refine ⟨_, rfl, ?_⟩
  rw [updMe_finish]
  refine ⟨?_, ?_, ?_, updMe_completed _ _ ?_⟩
  · rw [me_updMe]; intro p; exact rdP_wrP s.me pd p v
  · rw [me_updMe, wrP_eq]; exact ⟨rfl, rfl⟩
  · rw [me_updMe, wrP_eq]; rfl
  · unfold engKept; rw [wrP_eq]; rfl

end Sys2Proof.Laws
end

