-- ==== Sys2Proof/Laws/PerInstr.lean ====
section
/-! SUPPORT. A law of every instruction: a well-formed one has at most nine words, those of a convoy of four (R297, R299). -/

namespace Sys2Proof.Laws.Words

open Sys2Proof

/-- The words of a well-formed instruction: at most nine. -/
def Statement (i : Instr) : Prop := i.wf = true → (encode i).length ≤ 9

theorem add (rd rs1 rs2 : SReg) (stl : Stl) : Statement (.add rd rs1 rs2 stl) := fun _ => Nat.le_of_ble_eq_true rfl
theorem sub (rd rs1 rs2 : SReg) (stl : Stl) : Statement (.sub rd rs1 rs2 stl) := fun _ => Nat.le_of_ble_eq_true rfl
theorem mul (rd rs1 rs2 : SReg) (stl : Stl) : Statement (.mul rd rs1 rs2 stl) := fun _ => Nat.le_of_ble_eq_true rfl
theorem mulh (rd rs1 rs2 : SReg) (stl : Stl) : Statement (.mulh rd rs1 rs2 stl) := fun _ => Nat.le_of_ble_eq_true rfl
theorem mulhn (rd rs1 rs2 : SReg) (stl : Stl) : Statement (.mulhn rd rs1 rs2 stl) := fun _ => Nat.le_of_ble_eq_true rfl
theorem div (rd rs1 rs2 : SReg) (stl : Stl) : Statement (.div rd rs1 rs2 stl) := fun _ => Nat.le_of_ble_eq_true rfl
theorem divn (rd rs1 rs2 : SReg) (stl : Stl) : Statement (.divn rd rs1 rs2 stl) := fun _ => Nat.le_of_ble_eq_true rfl
theorem rem (rd rs1 rs2 : SReg) (stl : Stl) : Statement (.rem rd rs1 rs2 stl) := fun _ => Nat.le_of_ble_eq_true rfl
theorem remn (rd rs1 rs2 : SReg) (stl : Stl) : Statement (.remn rd rs1 rs2 stl) := fun _ => Nat.le_of_ble_eq_true rfl
theorem and (rd rs1 rs2 : SReg) (stl : Stl) : Statement (.and rd rs1 rs2 stl) := fun _ => Nat.le_of_ble_eq_true rfl
theorem or (rd rs1 rs2 : SReg) (stl : Stl) : Statement (.or rd rs1 rs2 stl) := fun _ => Nat.le_of_ble_eq_true rfl
theorem xor (rd rs1 rs2 : SReg) (stl : Stl) : Statement (.xor rd rs1 rs2 stl) := fun _ => Nat.le_of_ble_eq_true rfl
theorem shl (rd rs1 rs2 : SReg) (stl : Stl) : Statement (.shl rd rs1 rs2 stl) := fun _ => Nat.le_of_ble_eq_true rfl
theorem shr (rd rs1 rs2 : SReg) (stl : Stl) : Statement (.shr rd rs1 rs2 stl) := fun _ => Nat.le_of_ble_eq_true rfl
theorem sra (rd rs1 rs2 : SReg) (stl : Stl) : Statement (.sra rd rs1 rs2 stl) := fun _ => Nat.le_of_ble_eq_true rfl
theorem min (rd rs1 rs2 : SReg) (stl : Stl) : Statement (.min rd rs1 rs2 stl) := fun _ => Nat.le_of_ble_eq_true rfl
theorem max (rd rs1 rs2 : SReg) (stl : Stl) : Statement (.max rd rs1 rs2 stl) := fun _ => Nat.le_of_ble_eq_true rfl
theorem minn (rd rs1 rs2 : SReg) (stl : Stl) : Statement (.minn rd rs1 rs2 stl) := fun _ => Nat.le_of_ble_eq_true rfl
theorem maxn (rd rs1 rs2 : SReg) (stl : Stl) : Statement (.maxn rd rs1 rs2 stl) := fun _ => Nat.le_of_ble_eq_true rfl
theorem clz (rd rs1 : SReg) (stl : Stl) : Statement (.clz rd rs1 stl) := fun _ => Nat.le_of_ble_eq_true rfl
theorem ctz (rd rs1 : SReg) (stl : Stl) : Statement (.ctz rd rs1 stl) := fun _ => Nat.le_of_ble_eq_true rfl
theorem popc (rd rs1 : SReg) (stl : Stl) : Statement (.popc rd rs1 stl) := fun _ => Nat.le_of_ble_eq_true rfl
theorem mov (rd rs1 : SReg) (stl : Stl) : Statement (.mov rd rs1 stl) := fun _ => Nat.le_of_ble_eq_true rfl
theorem sel (rd : SReg) (p : PReg) (rs1 rs2 : SReg) (stl : Stl) : Statement (.sel rd p rs1 rs2 stl) := fun _ => Nat.le_of_ble_eq_true rfl
theorem cmpEq (pd : PReg) (rs1 rs2 : SReg) (stl : Stl) : Statement (.cmpEq pd rs1 rs2 stl) := fun _ => Nat.le_of_ble_eq_true rfl
theorem cmpNe (pd : PReg) (rs1 rs2 : SReg) (stl : Stl) : Statement (.cmpNe pd rs1 rs2 stl) := fun _ => Nat.le_of_ble_eq_true rfl
theorem cmpLt (pd : PReg) (rs1 rs2 : SReg) (stl : Stl) : Statement (.cmpLt pd rs1 rs2 stl) := fun _ => Nat.le_of_ble_eq_true rfl
theorem cmpGe (pd : PReg) (rs1 rs2 : SReg) (stl : Stl) : Statement (.cmpGe pd rs1 rs2 stl) := fun _ => Nat.le_of_ble_eq_true rfl
theorem cmpLtn (pd : PReg) (rs1 rs2 : SReg) (stl : Stl) : Statement (.cmpLtn pd rs1 rs2 stl) := fun _ => Nat.le_of_ble_eq_true rfl
theorem cmpGen (pd : PReg) (rs1 rs2 : SReg) (stl : Stl) : Statement (.cmpGen pd rs1 rs2 stl) := fun _ => Nat.le_of_ble_eq_true rfl
theorem pand (pd pa pb : PReg) (stl : Stl) : Statement (.pand pd pa pb stl) := fun _ => Nat.le_of_ble_eq_true rfl
theorem por (pd pa pb : PReg) (stl : Stl) : Statement (.por pd pa pb stl) := fun _ => Nat.le_of_ble_eq_true rfl
theorem pnot (pd pa : PReg) (stl : Stl) : Statement (.pnot pd pa stl) := fun _ => Nat.le_of_ble_eq_true rfl
theorem addi (rd rs1 : SReg) (imm : BitVec 13) (stl : Stl) : Statement (.addi rd rs1 imm stl) := fun _ => Nat.le_of_ble_eq_true rfl
theorem andi (rd rs1 : SReg) (imm : BitVec 13) (stl : Stl) : Statement (.andi rd rs1 imm stl) := fun _ => Nat.le_of_ble_eq_true rfl
theorem ori (rd rs1 : SReg) (imm : BitVec 13) (stl : Stl) : Statement (.ori rd rs1 imm stl) := fun _ => Nat.le_of_ble_eq_true rfl
theorem xori (rd rs1 : SReg) (imm : BitVec 13) (stl : Stl) : Statement (.xori rd rs1 imm stl) := fun _ => Nat.le_of_ble_eq_true rfl
theorem shli (rd rs1 : SReg) (imm : BitVec 13) (stl : Stl) : Statement (.shli rd rs1 imm stl) := fun _ => Nat.le_of_ble_eq_true rfl
theorem shri (rd rs1 : SReg) (imm : BitVec 13) (stl : Stl) : Statement (.shri rd rs1 imm stl) := fun _ => Nat.le_of_ble_eq_true rfl
theorem srai (rd rs1 : SReg) (imm : BitVec 13) (stl : Stl) : Statement (.srai rd rs1 imm stl) := fun _ => Nat.le_of_ble_eq_true rfl
theorem li (rd : SReg) (imm : BitVec 18) (stl : Stl) : Statement (.li rd imm stl) := fun _ => Nat.le_of_ble_eq_true rfl
theorem lih (rd : SReg) (q : BitVec 2) (imm : BitVec 16) (stl : Stl) : Statement (.lih rd q imm stl) := fun _ => Nat.le_of_ble_eq_true rfl
theorem cmpiEq (pd : PReg) (rs1 : SReg) (imm : BitVec 13) (stl : Stl) : Statement (.cmpiEq pd rs1 imm stl) := fun _ => Nat.le_of_ble_eq_true rfl
theorem cmpiNe (pd : PReg) (rs1 : SReg) (imm : BitVec 13) (stl : Stl) : Statement (.cmpiNe pd rs1 imm stl) := fun _ => Nat.le_of_ble_eq_true rfl
theorem cmpiLt (pd : PReg) (rs1 : SReg) (imm : BitVec 13) (stl : Stl) : Statement (.cmpiLt pd rs1 imm stl) := fun _ => Nat.le_of_ble_eq_true rfl
theorem cmpiGe (pd : PReg) (rs1 : SReg) (imm : BitVec 13) (stl : Stl) : Statement (.cmpiGe pd rs1 imm stl) := fun _ => Nat.le_of_ble_eq_true rfl
theorem cmpiLtn (pd : PReg) (rs1 : SReg) (imm : BitVec 13) (stl : Stl) : Statement (.cmpiLtn pd rs1 imm stl) := fun _ => Nat.le_of_ble_eq_true rfl
theorem cmpiGen (pd : PReg) (rs1 : SReg) (imm : BitVec 13) (stl : Stl) : Statement (.cmpiGen pd rs1 imm stl) := fun _ => Nat.le_of_ble_eq_true rfl
theorem ld (f : MemF) (stl : Stl) : Statement (.ld f stl) := fun _ => Nat.le_of_ble_eq_true rfl
theorem ldn (f : MemF) (stl : Stl) : Statement (.ldn f stl) := fun _ => Nat.le_of_ble_eq_true rfl
theorem st (f : MemF) (stl : Stl) : Statement (.st f stl) := fun _ => Nat.le_of_ble_eq_true rfl
theorem amoAdd (f : AmoF) (stl : Stl) : Statement (.amoAdd f stl) := fun _ => Nat.le_of_ble_eq_true rfl
theorem amoMin (f : AmoF) (stl : Stl) : Statement (.amoMin f stl) := fun _ => Nat.le_of_ble_eq_true rfl
theorem amoMax (f : AmoF) (stl : Stl) : Statement (.amoMax f stl) := fun _ => Nat.le_of_ble_eq_true rfl
theorem amoSwap (f : AmoF) (stl : Stl) : Statement (.amoSwap f stl) := fun _ => Nat.le_of_ble_eq_true rfl
theorem amoCas (f : AmoF) (stl : Stl) : Statement (.amoCas f stl) := fun _ => Nat.le_of_ble_eq_true rfl
theorem amoAnd (f : AmoF) (stl : Stl) : Statement (.amoAnd f stl) := fun _ => Nat.le_of_ble_eq_true rfl
theorem amoOr (f : AmoF) (stl : Stl) : Statement (.amoOr f stl) := fun _ => Nat.le_of_ble_eq_true rfl
theorem br (off : BitVec 23) (stl : Stl) : Statement (.br off stl) := fun _ => Nat.le_of_ble_eq_true rfl
theorem call (off : BitVec 23) (stl : Stl) : Statement (.call off stl) := fun _ => Nat.le_of_ble_eq_true rfl
theorem bp (p : PReg) (off : BitVec 18) (stl : Stl) : Statement (.bp p off stl) := fun _ => Nat.le_of_ble_eq_true rfl
theorem jr (rs1 : SReg) (stl : Stl) : Statement (.jr rs1 stl) := fun _ => Nat.le_of_ble_eq_true rfl
theorem ret (stl : Stl) : Statement (.ret stl) := fun _ => Nat.le_of_ble_eq_true rfl
theorem vstrip (rs : SReg) (off : BitVec 18) (stl : Stl) : Statement (.vstrip rs off stl) := fun _ => Nat.le_of_ble_eq_true rfl
theorem barInit (b : BitVec 6) (rs1 : SReg) (scope : BitVec 2) (stl : Stl) : Statement (.barInit b rs1 scope stl) := fun _ => Nat.le_of_ble_eq_true rfl
theorem barArrive (b : BitVec 6) (rs1 : SReg) (mode : BitVec 2) (stl : Stl) : Statement (.barArrive b rs1 mode stl) := fun _ => Nat.le_of_ble_eq_true rfl
theorem barWait (b : BitVec 6) (stl : Stl) : Statement (.barWait b stl) := fun _ => Nat.le_of_ble_eq_true rfl
theorem barTwait (rd : SReg) (b : BitVec 6) (rs1 : SReg) (stl : Stl) : Statement (.barTwait rd b rs1 stl) := fun _ => Nat.le_of_ble_eq_true rfl
theorem barTest (rd : SReg) (b : BitVec 6) (stl : Stl) : Statement (.barTest rd b stl) := fun _ => Nat.le_of_ble_eq_true rfl
theorem fence (scope : BitVec 3) (mask : BitVec 16) (stl : Stl) : Statement (.fence scope mask stl) := fun _ => Nat.le_of_ble_eq_true rfl
theorem fork (t : BitVec 2) (rs : SReg) (off : BitVec 16) (stl : Stl) : Statement (.fork t rs off stl) := fun _ => Nat.le_of_ble_eq_true rfl
theorem rendez (mask : BitVec 4) (stl : Stl) : Statement (.rendez mask stl) := fun _ => Nat.le_of_ble_eq_true rfl
theorem launch (rd rs1 : SReg) (stl : Stl) : Statement (.launch rd rs1 stl) := fun _ => Nat.le_of_ble_eq_true rfl
theorem ident (rd : SReg) (sel : BitVec 13) (stl : Stl) : Statement (.ident rd sel stl) := fun _ => Nat.le_of_ble_eq_true rfl
theorem clk (rd : SReg) (stl : Stl) : Statement (.clk rd stl) := fun _ => Nat.le_of_ble_eq_true rfl
theorem crRd (r : SReg) (num : BitVec 12) (stl : Stl) : Statement (.crRd r num stl) := fun _ => Nat.le_of_ble_eq_true rfl
theorem crWr (r : SReg) (num : BitVec 12) (stl : Stl) : Statement (.crWr r num stl) := fun _ => Nat.le_of_ble_eq_true rfl
theorem crSet (r : SReg) (num : BitVec 12) (stl : Stl) : Statement (.crSet r num stl) := fun _ => Nat.le_of_ble_eq_true rfl
theorem crClr (r : SReg) (num : BitVec 12) (stl : Stl) : Statement (.crClr r num stl) := fun _ => Nat.le_of_ble_eq_true rfl
theorem trap (imm : BitVec 16) (stl : Stl) : Statement (.trap imm stl) := fun _ => Nat.le_of_ble_eq_true rfl
theorem eret (stl : Stl) : Statement (.eret stl) := fun _ => Nat.le_of_ble_eq_true rfl
theorem ueret (stl : Stl) : Statement (.ueret stl) := fun _ => Nat.le_of_ble_eq_true rfl
theorem halt (stl : Stl) : Statement (.halt stl) := fun _ => Nat.le_of_ble_eq_true rfl
theorem tlbinv (rs1 : SReg) (stl : Stl) : Statement (.tlbinv rs1 stl) := fun _ => Nat.le_of_ble_eq_true rfl
theorem tlbinvAll (stl : Stl) : Statement (.tlbinvAll stl) := fun _ => Nat.le_of_ble_eq_true rfl
theorem nop (stl : Stl) : Statement (.nop stl) := fun _ => Nat.le_of_ble_eq_true rfl
theorem unfreeze (rd rs1 : SReg) (stl : Stl) : Statement (.unfreeze rd rs1 stl) := fun _ => Nat.le_of_ble_eq_true rfl
theorem psample (rs1 : SReg) (stl : Stl) : Statement (.psample rs1 stl) := fun _ => Nat.le_of_ble_eq_true rfl
theorem mclaimX (n : BitVec 6) (stl : Stl) : Statement (.mclaimX n stl) := fun _ => Nat.le_of_ble_eq_true rfl
theorem mclaimXScl (n : BitVec 6) (stl : Stl) : Statement (.mclaimXScl n stl) := fun _ => Nat.le_of_ble_eq_true rfl
theorem mclaimW (n : BitVec 6) (stl : Stl) : Statement (.mclaimW n stl) := fun _ => Nat.le_of_ble_eq_true rfl
theorem mreleaseX (n : BitVec 6) (stl : Stl) : Statement (.mreleaseX n stl) := fun _ => Nat.le_of_ble_eq_true rfl
theorem mreleaseW (n : BitVec 6) (stl : Stl) : Statement (.mreleaseW n stl) := fun _ => Nat.le_of_ble_eq_true rfl
theorem mzero (n : BitVec 6) (q : Bool) (stl : Stl) : Statement (.mzero n q stl) := fun _ => Nat.le_of_ble_eq_true rfl
theorem mqprio (n : BitVec 6) (stl : Stl) : Statement (.mqprio n stl) := fun _ => Nat.le_of_ble_eq_true rfl
theorem mmodeStd (q : Bool) (stl : Stl) : Statement (.mmodeStd q stl) := fun _ => Nat.le_of_ble_eq_true rfl
theorem mmodeRed (q : Bool) (stl : Stl) : Statement (.mmodeRed q stl) := fun _ => Nat.le_of_ble_eq_true rfl
theorem mma (f : MmaF) (stl : Stl) : Statement (.mma f stl) := fun _ => Nat.le_of_ble_eq_true rfl
theorem mmar (f : MmaF) (stl : Stl) : Statement (.mmar f stl) := fun _ => Nat.le_of_ble_eq_true rfl
theorem mreel (f : MmaF) (stl : Stl) : Statement (.mreel f stl) := fun _ => Nat.le_of_ble_eq_true rfl
theorem mdrain (f : DrainF) (stl : Stl) : Statement (.mdrain f stl) := fun _ => Nat.le_of_ble_eq_true rfl
theorem sstrm (rd rs1 : SReg) (port : BitVec 3) (q : Bool) (stl : Stl) : Statement (.sstrm rd rs1 port q stl) := fun _ => Nat.le_of_ble_eq_true rfl
theorem speek (rd rs1 : SReg) (stl : Stl) : Statement (.speek rd rs1 stl) := fun _ => Nat.le_of_ble_eq_true rfl
theorem ssusp (port : BitVec 3) (q : Bool) (stl : Stl) : Statement (.ssusp port q stl) := fun _ => Nat.le_of_ble_eq_true rfl
theorem sres (port : BitVec 3) (q : Bool) (stl : Stl) : Statement (.sres port q stl) := fun _ => Nat.le_of_ble_eq_true rfl
theorem skill (port : BitVec 3) (q : Bool) (stl : Stl) : Statement (.skill port q stl) := fun _ => Nat.le_of_ble_eq_true rfl
theorem snote (port : BitVec 3) (q : Bool) (stl : Stl) : Statement (.snote port q stl) := fun _ => Nat.le_of_ble_eq_true rfl
theorem rtpush (rs1 : SReg) (q : Bool) (stl : Stl) : Statement (.rtpush rs1 q stl) := fun _ => Nat.le_of_ble_eq_true rfl
theorem rdisp (rs1 : SReg) (q : Bool) (stl : Stl) : Statement (.rdisp rs1 q stl) := fun _ => Nat.le_of_ble_eq_true rfl
theorem rcombPart (rs1 : SReg) (q : Bool) (stl : Stl) : Statement (.rcombPart rs1 q stl) := fun _ => Nat.le_of_ble_eq_true rfl
theorem rcombFin (rs1 : SReg) (q : Bool) (stl : Stl) : Statement (.rcombFin rs1 q stl) := fun _ => Nat.le_of_ble_eq_true rfl
theorem rgenOpen (rn rs1 rs2 : SReg) (q : Bool) (stl : Stl) : Statement (.rgenOpen rn rs1 rs2 q stl) := fun _ => Nat.le_of_ble_eq_true rfl
theorem rgenRetire (rs1 : SReg) (q : Bool) (stl : Stl) : Statement (.rgenRetire rs1 q stl) := fun _ => Nat.le_of_ble_eq_true rfl
theorem abound (rd rs1 : SReg) (vd : VReg) (stl : Stl) : Statement (.abound rd rs1 vd stl) := fun _ => Nat.le_of_ble_eq_true rfl
theorem agather (rd rs1 : SReg) (port : BitVec 5) (q : Bool) (stl : Stl) : Statement (.agather rd rs1 port q stl) := fun _ => Nat.le_of_ble_eq_true rfl
theorem kvalloc (rd rs1 rs2 : SReg) (q : Bool) (stl : Stl) : Statement (.kvalloc rd rs1 rs2 q stl) := fun _ => Nat.le_of_ble_eq_true rfl
theorem kvfree (rd rs1 : SReg) (q : Bool) (stl : Stl) : Statement (.kvfree rd rs1 q stl) := fun _ => Nat.le_of_ble_eq_true rfl
theorem kvpin (rd rs1 : SReg) (q : Bool) (stl : Stl) : Statement (.kvpin rd rs1 q stl) := fun _ => Nat.le_of_ble_eq_true rfl
theorem kvunpin (rd rs1 : SReg) (q : Bool) (stl : Stl) : Statement (.kvunpin rd rs1 q stl) := fun _ => Nat.le_of_ble_eq_true rfl
theorem kvevict (rd rs1 rs2 : SReg) (q : Bool) (stl : Stl) : Statement (.kvevict rd rs1 rs2 q stl) := fun _ => Nat.le_of_ble_eq_true rfl
theorem kvinv (rd rs1 rs2 : SReg) (q : Bool) (stl : Stl) : Statement (.kvinv rd rs1 rs2 q stl) := fun _ => Nat.le_of_ble_eq_true rfl
theorem sctab (rs1 : SReg) (stl : Stl) : Statement (.sctab rs1 stl) := fun _ => Nat.le_of_ble_eq_true rfl
theorem scommit (stl : Stl) : Statement (.scommit stl) := fun _ => Nat.le_of_ble_eq_true rfl
theorem sabort (stl : Stl) : Statement (.sabort stl) := fun _ => Nat.le_of_ble_eq_true rfl
theorem sop (k : BitVec 6) (rh ra rb : SReg) (stl : Stl) : Statement (.sop k rh ra rb stl) := fun _ => Nat.le_of_ble_eq_true rfl
theorem sreg (k : BitVec 6) (rs1 : SReg) (stl : Stl) : Statement (.sreg k rs1 stl) := fun _ => Nat.le_of_ble_eq_true rfl
theorem sbegin (rd : SReg) (off : BitVec 16) (stl : Stl) : Statement (.sbegin rd off stl) := fun _ => Nat.le_of_ble_eq_true rfl
theorem vcfg (f : VcfgF) (stl : Stl) : Statement (.vcfg f stl) := fun _ => Nat.le_of_ble_eq_true rfl
theorem vreshape (n : BitVec 2) (stl : Stl) : Statement (.vreshape n stl) := fun _ => Nat.le_of_ble_eq_true rfl
theorem vquad (p : BitVec 2) (stl : Stl) : Statement (.vquad p stl) := fun _ => Nat.le_of_ble_eq_true rfl
theorem convoy (slots : List VSlot) (stl : Stl) : Statement (.convoy slots stl) := by
  intro h
  simp only [Instr.wf, convoyOk, Bool.and_eq_true, decide_eq_true_eq] at h
  have : (slots.map (fun v => halves (encSlot v))).flatten.length = 2 * slots.length := by
    generalize slots = l
    have two : ∀ w, (halves w).length = 2 := fun _ => rfl
    induction l with
    | nil => rfl
    | cons v l ih =>
      simp only [List.map_cons, List.flatten_cons, List.length_append, two, ih, List.length_cons]; omega
  simp only [encode, List.length_cons, this]
  omega
theorem vadd (f : VF) : Statement (.vadd f) := fun _ => Nat.le_of_ble_eq_true rfl
theorem vsub (f : VF) : Statement (.vsub f) := fun _ => Nat.le_of_ble_eq_true rfl
theorem vadds (f : VF) : Statement (.vadds f) := fun _ => Nat.le_of_ble_eq_true rfl
theorem vsubs (f : VF) : Statement (.vsubs f) := fun _ => Nat.le_of_ble_eq_true rfl
theorem vmul (f : VF) : Statement (.vmul f) := fun _ => Nat.le_of_ble_eq_true rfl
theorem vmin (f : VF) : Statement (.vmin f) := fun _ => Nat.le_of_ble_eq_true rfl
theorem vmax (f : VF) : Statement (.vmax f) := fun _ => Nat.le_of_ble_eq_true rfl
theorem vabs (f : VF) : Statement (.vabs f) := fun _ => Nat.le_of_ble_eq_true rfl
theorem vneg (f : VF) : Statement (.vneg f) := fun _ => Nat.le_of_ble_eq_true rfl
theorem vnot (f : VF) : Statement (.vnot f) := fun _ => Nat.le_of_ble_eq_true rfl
theorem vand (f : VF) : Statement (.vand f) := fun _ => Nat.le_of_ble_eq_true rfl
theorem vor (f : VF) : Statement (.vor f) := fun _ => Nat.le_of_ble_eq_true rfl
theorem vxor (f : VF) : Statement (.vxor f) := fun _ => Nat.le_of_ble_eq_true rfl
theorem vshl (f : VF) : Statement (.vshl f) := fun _ => Nat.le_of_ble_eq_true rfl
theorem vshr (f : VF) : Statement (.vshr f) := fun _ => Nat.le_of_ble_eq_true rfl
theorem vsra (f : VF) : Statement (.vsra f) := fun _ => Nat.le_of_ble_eq_true rfl
theorem vdiv (f : VF) : Statement (.vdiv f) := fun _ => Nat.le_of_ble_eq_true rfl
theorem vsqrt (f : VF) : Statement (.vsqrt f) := fun _ => Nat.le_of_ble_eq_true rfl
theorem vrsqrt (f : VF) : Statement (.vrsqrt f) := fun _ => Nat.le_of_ble_eq_true rfl
theorem vrcp (f : VF) : Statement (.vrcp f) := fun _ => Nat.le_of_ble_eq_true rfl
theorem vclass (f : VF) : Statement (.vclass f) := fun _ => Nat.le_of_ble_eq_true rfl
theorem vcmp (f : VF) : Statement (.vcmp f) := fun _ => Nat.le_of_ble_eq_true rfl
theorem vsel (f : VF) : Statement (.vsel f) := fun _ => Nat.le_of_ble_eq_true rfl
theorem vmov (f : VF) : Statement (.vmov f) := fun _ => Nat.le_of_ble_eq_true rfl
theorem vbcast (f : VF) : Statement (.vbcast f) := fun _ => Nat.le_of_ble_eq_true rfl
theorem vid (f : VF) : Statement (.vid f) := fun _ => Nat.le_of_ble_eq_true rfl
theorem vmand (f : VF) : Statement (.vmand f) := fun _ => Nat.le_of_ble_eq_true rfl
theorem vmor (f : VF) : Statement (.vmor f) := fun _ => Nat.le_of_ble_eq_true rfl
theorem vmnot (f : VF) : Statement (.vmnot f) := fun _ => Nat.le_of_ble_eq_true rfl
theorem vfma (f : VF) : Statement (.vfma f) := fun _ => Nat.le_of_ble_eq_true rfl
theorem vfms (f : VF) : Statement (.vfms f) := fun _ => Nat.le_of_ble_eq_true rfl
theorem vfnma (f : VF) : Statement (.vfnma f) := fun _ => Nat.le_of_ble_eq_true rfl
theorem vwmac (f : VF) : Statement (.vwmac f) := fun _ => Nat.le_of_ble_eq_true rfl
theorem vdotBlk (f : VF) : Statement (.vdotBlk f) := fun _ => Nat.le_of_ble_eq_true rfl
theorem vcvt (f : VF) : Statement (.vcvt f) := fun _ => Nat.le_of_ble_eq_true rfl
theorem vld (f : VF) : Statement (.vld f) := fun _ => Nat.le_of_ble_eq_true rfl
theorem vlds (f : VF) : Statement (.vlds f) := fun _ => Nat.le_of_ble_eq_true rfl
theorem vldx (f : VF) : Statement (.vldx f) := fun _ => Nat.le_of_ble_eq_true rfl
theorem vgl (f : VF) : Statement (.vgl f) := fun _ => Nat.le_of_ble_eq_true rfl
theorem vldIpb (f : VF) : Statement (.vldIpb f) := fun _ => Nat.le_of_ble_eq_true rfl
theorem vldZ (f : VF) : Statement (.vldZ f) := fun _ => Nat.le_of_ble_eq_true rfl
theorem vst (f : VF) : Statement (.vst f) := fun _ => Nat.le_of_ble_eq_true rfl
theorem vsts (f : VF) : Statement (.vsts f) := fun _ => Nat.le_of_ble_eq_true rfl
theorem vstx (f : VF) : Statement (.vstx f) := fun _ => Nat.le_of_ble_eq_true rfl
theorem vstX (f : VF) : Statement (.vstX f) := fun _ => Nat.le_of_ble_eq_true rfl
theorem vsc (f : VF) : Statement (.vsc f) := fun _ => Nat.le_of_ble_eq_true rfl
theorem vamo (f : VF) : Statement (.vamo f) := fun _ => Nat.le_of_ble_eq_true rfl
theorem vwait (f : VF) : Statement (.vwait f) := fun _ => Nat.le_of_ble_eq_true rfl
theorem vsortr (f : VF) : Statement (.vsortr f) := fun _ => Nat.le_of_ble_eq_true rfl
theorem vchk (f : VF) : Statement (.vchk f) := fun _ => Nat.le_of_ble_eq_true rfl
theorem vmerge (f : VF) : Statement (.vmerge f) := fun _ => Nat.le_of_ble_eq_true rfl
theorem vinter (f : VF) : Statement (.vinter f) := fun _ => Nat.le_of_ble_eq_true rfl
theorem vuniq (f : VF) : Statement (.vuniq f) := fun _ => Nat.le_of_ble_eq_true rfl
theorem vrank (f : VF) : Statement (.vrank f) := fun _ => Nat.le_of_ble_eq_true rfl
theorem vpart (f : VF) : Statement (.vpart f) := fun _ => Nat.le_of_ble_eq_true rfl
theorem vmrgs (f : VF) : Statement (.vmrgs f) := fun _ => Nat.le_of_ble_eq_true rfl
theorem vred (f : VF) : Statement (.vred f) := fun _ => Nat.le_of_ble_eq_true rfl
theorem vscan (f : VF) : Statement (.vscan f) := fun _ => Nat.le_of_ble_eq_true rfl
theorem vsegred (f : VF) : Statement (.vsegred f) := fun _ => Nat.le_of_ble_eq_true rfl
theorem vsegscan (f : VF) : Statement (.vsegscan f) := fun _ => Nat.le_of_ble_eq_true rfl
theorem vsegld (f : VF) : Statement (.vsegld f) := fun _ => Nat.le_of_ble_eq_true rfl
theorem vperm (f : VF) : Statement (.vperm f) := fun _ => Nat.le_of_ble_eq_true rfl
theorem vcompress (f : VF) : Statement (.vcompress f) := fun _ => Nat.le_of_ble_eq_true rfl
theorem vexpand (f : VF) : Statement (.vexpand f) := fun _ => Nat.le_of_ble_eq_true rfl
theorem vslide (f : VF) : Statement (.vslide f) := fun _ => Nat.le_of_ble_eq_true rfl
theorem vrev (f : VF) : Statement (.vrev f) := fun _ => Nat.le_of_ble_eq_true rfl
theorem vsin (f : VF) : Statement (.vsin f) := fun _ => Nat.le_of_ble_eq_true rfl
theorem vcos (f : VF) : Statement (.vcos f) := fun _ => Nat.le_of_ble_eq_true rfl
theorem vexp2 (f : VF) : Statement (.vexp2 f) := fun _ => Nat.le_of_ble_eq_true rfl
theorem vlog2 (f : VF) : Statement (.vlog2 f) := fun _ => Nat.le_of_ble_eq_true rfl
theorem vtanh (f : VF) : Statement (.vtanh f) := fun _ => Nat.le_of_ble_eq_true rfl
theorem vsigm (f : VF) : Statement (.vsigm f) := fun _ => Nat.le_of_ble_eq_true rfl
theorem vmmCopy (f : VF) : Statement (.vmmCopy f) := fun _ => Nat.le_of_ble_eq_true rfl
theorem vmmFill (f : VF) : Statement (.vmmFill f) := fun _ => Nat.le_of_ble_eq_true rfl
theorem elementPerform (sel : PerfSel) : Statement (.elementPerform sel) := fun _ => Nat.le_of_ble_eq_true rfl
theorem barrierPhaseComplete (core : CoreId) (b : BitVec 6) : Statement (.barrierPhaseComplete core b) := fun _ => Nat.le_of_ble_eq_true rfl
theorem barTwaitExpiry (core : CoreId) (e : EngId) : Statement (.barTwaitExpiry core e) := fun _ => Nat.le_of_ble_eq_true rfl
theorem vwaitExpiry (core : CoreId) (e : EngId) : Statement (.vwaitExpiry core e) := fun _ => Nat.le_of_ble_eq_true rfl
theorem feedLimitExpiry (core : CoreId) (e : EngId) : Statement (.feedLimitExpiry core e) := fun _ => Nat.le_of_ble_eq_true rfl
theorem shareWindow (core : CoreId) : Statement (.shareWindow core) := fun _ => Nat.le_of_ble_eq_true rfl
theorem matrixGrant (core : CoreId) : Statement (.matrixGrant core) := fun _ => Nat.le_of_ble_eq_true rfl
theorem reelComplete (core : CoreId) : Statement (.reelComplete core) := fun _ => Nat.le_of_ble_eq_true rfl
theorem streamStart (core : CoreId) (port : Fin 8) : Statement (.streamStart core port) := fun _ => Nat.le_of_ble_eq_true rfl
theorem streamEnd (core : CoreId) (port : Fin 8) : Statement (.streamEnd core port) := fun _ => Nat.le_of_ble_eq_true rfl
theorem userInterrupt (core : CoreId) : Statement (.userInterrupt core) := fun _ => Nat.le_of_ble_eq_true rfl
theorem trapEntry (core : CoreId) (e : EngId) : Statement (.trapEntry core e) := fun _ => Nat.le_of_ble_eq_true rfl
theorem factorGateEntry (die : Fin 8) : Statement (.factorGateEntry die) := fun _ => Nat.le_of_ble_eq_true rfl
theorem rowArrival (n : Nat) : Statement (.rowArrival n) := fun _ => Nat.le_of_ble_eq_true rfl
theorem combineRowArrival (n : Nat) : Statement (.combineRowArrival n) := fun _ => Nat.le_of_ble_eq_true rfl
theorem drainMarkerArrival (port : Fin 32) (gen : BitVec 16) : Statement (.drainMarkerArrival port gen) := fun _ => Nat.le_of_ble_eq_true rfl
theorem speculationAbort (core : CoreId) (e : EngId) : Statement (.speculationAbort core e) := fun _ => Nat.le_of_ble_eq_true rfl
theorem sopWaitComplete (core : CoreId) (e : EngId) : Statement (.sopWaitComplete core e) := fun _ => Nat.le_of_ble_eq_true rfl
theorem kvPoolEnable (part : Fin 16) (v : Word) : Statement (.kvPoolEnable part v) := fun _ => Nat.le_of_ble_eq_true rfl
theorem kvPoolDisable (part : Fin 16) : Statement (.kvPoolDisable part) := fun _ => Nat.le_of_ble_eq_true rfl
theorem kvPoolDisableComplete (part : Fin 16) : Statement (.kvPoolDisableComplete part) := fun _ => Nat.le_of_ble_eq_true rfl
theorem preEmption (core : CoreId) : Statement (.preEmption core) := fun _ => Nat.le_of_ble_eq_true rfl
theorem instanceStart (core : CoreId) : Statement (.instanceStart core) := fun _ => Nat.le_of_ble_eq_true rfl
theorem instanceResume (core : CoreId) : Statement (.instanceResume core) := fun _ => Nat.le_of_ble_eq_true rfl
theorem instanceEnd (core : CoreId) : Statement (.instanceEnd core) := fun _ => Nat.le_of_ble_eq_true rfl
theorem launchEnd (id : Nat) : Statement (.launchEnd id) := fun _ => Nat.le_of_ble_eq_true rfl
theorem launchPortSubmit (port : Fin 16) (v : Word) : Statement (.launchPortSubmit port v) := fun _ => Nat.le_of_ble_eq_true rfl
theorem submissionTake : Statement (.submissionTake) := fun _ => Nat.le_of_ble_eq_true rfl
theorem placementRound : Statement (.placementRound) := fun _ => Nat.le_of_ble_eq_true rfl
theorem mailboxPoll : Statement (.mailboxPoll) := fun _ => Nat.le_of_ble_eq_true rfl
theorem submitLaunch : Statement (.submitLaunch) := fun _ => Nat.le_of_ble_eq_true rfl
theorem cancelLaunch : Statement (.cancelLaunch) := fun _ => Nat.le_of_ble_eq_true rfl
theorem attest (written : Bool) : Statement (.attest written) := fun _ => Nat.le_of_ble_eq_true rfl
theorem configurationRecord (read : Bool) : Statement (.configurationRecord read) := fun _ => Nat.le_of_ble_eq_true rfl
theorem runtimeImage (read : Bool) : Statement (.runtimeImage read) := fun _ => Nat.le_of_ble_eq_true rfl
theorem responseRelease : Statement (.responseRelease) := fun _ => Nat.le_of_ble_eq_true rfl
theorem birotteRequest (port : Fin 32) : Statement (.birotteRequest port) := fun _ => Nat.le_of_ble_eq_true rfl
theorem retireCore (target : BitVec 11) : Statement (.retireCore target) := fun _ => Nat.le_of_ble_eq_true rfl
theorem retireLaneGroup (target : BitVec 11) : Statement (.retireLaneGroup target) := fun _ => Nat.le_of_ble_eq_true rfl
theorem retireChannel (target : BitVec 11) : Statement (.retireChannel target) := fun _ => Nat.le_of_ble_eq_true rfl
theorem retirePort (target : BitVec 11) : Statement (.retirePort target) := fun _ => Nat.le_of_ble_eq_true rfl
theorem resetPartition (target : BitVec 11) : Statement (.resetPartition target) := fun _ => Nat.le_of_ble_eq_true rfl
theorem reImagePartition (target : BitVec 11) : Statement (.reImagePartition target) := fun _ => Nat.le_of_ble_eq_true rfl
theorem repairBadOperation (op : BitVec 4) (target : BitVec 11) : Statement (.repairBadOperation op target) := fun _ => Nat.le_of_ble_eq_true rfl
theorem pendingCoreRetirement (core : CoreId) : Statement (.pendingCoreRetirement core) := fun _ => Nat.le_of_ble_eq_true rfl
theorem healthWord (v : Word) : Statement (.healthWord v) := fun _ => Nat.le_of_ble_eq_true rfl
theorem firmwareUpdate (image : List Byte) : Statement (.firmwareUpdate image) := fun _ => Nat.le_of_ble_eq_true rfl
theorem healthTimeout : Statement (.healthTimeout) := fun _ => Nat.le_of_ble_eq_true rfl
theorem notificationPop : Statement (.notificationPop) := fun _ => Nat.le_of_ble_eq_true rfl
theorem unfreezeRegister (master : BitVec 32) : Statement (.unfreezeRegister master) := fun _ => Nat.le_of_ble_eq_true rfl
theorem splitApply (core : CoreId) : Statement (.splitApply core) := fun _ => Nat.le_of_ble_eq_true rfl
theorem trcWrite (core : CoreId) (v : Word) : Statement (.trcWrite core v) := fun _ => Nat.le_of_ble_eq_true rfl
theorem registerWrite (addr : Nat) (bytes : Nat) (v : Word) : Statement (.registerWrite addr bytes v) := fun _ => Nat.le_of_ble_eq_true rfl
theorem bootSequence : Statement (.bootSequence) := fun _ => Nat.le_of_ble_eq_true rfl
theorem enrolmentReport : Statement (.enrolmentReport) := fun _ => Nat.le_of_ble_eq_true rfl
theorem bootRequestRetry : Statement (.bootRequestRetry) := fun _ => Nat.le_of_ble_eq_true rfl
theorem bootFetchRetry : Statement (.bootFetchRetry) := fun _ => Nat.le_of_ble_eq_true rfl
theorem imageData (port : Fin 32) : Statement (.imageData port) := fun _ => Nat.le_of_ble_eq_true rfl
theorem recordOffer (port : Fin 32) : Statement (.recordOffer port) := fun _ => Nat.le_of_ble_eq_true rfl
theorem portComeUp (port : Fin 32) : Statement (.portComeUp port) := fun _ => Nat.le_of_ble_eq_true rfl
theorem dataFrameReceive (port : Fin 32) (frame : List Byte) : Statement (.dataFrameReceive port frame) := fun _ => Nat.le_of_ble_eq_true rfl
theorem acknowledgement (port : Fin 32) (frame : List Byte) : Statement (.acknowledgement port frame) := fun _ => Nat.le_of_ble_eq_true rfl
theorem creditGrant (port : Fin 32) (frame : List Byte) : Statement (.creditGrant port frame) := fun _ => Nat.le_of_ble_eq_true rfl
theorem dataFrameSend (port : Fin 32) (cls : Fin 8) : Statement (.dataFrameSend port cls) := fun _ => Nat.le_of_ble_eq_true rfl
theorem resendTimeout (port : Fin 32) (cls : Fin 8) : Statement (.resendTimeout port cls) := fun _ => Nat.le_of_ble_eq_true rfl
theorem keepAlive (port : Fin 32) : Statement (.keepAlive port) := fun _ => Nat.le_of_ble_eq_true rfl
theorem peerDown (port : Fin 32) : Statement (.peerDown port) := fun _ => Nat.le_of_ble_eq_true rfl
theorem ucieRetrain (a b : Fin 10) : Statement (.ucieRetrain a b) := fun _ => Nat.le_of_ble_eq_true rfl
theorem ucieRetrainingFailure (a b : Fin 10) : Statement (.ucieRetrainingFailure a b) := fun _ => Nat.le_of_ble_eq_true rfl
theorem cxlSurpriseRemoval (port : Fin 8) : Statement (.cxlSurpriseRemoval port) := fun _ => Nat.le_of_ble_eq_true rfl
theorem powerEstimate (amps : Nat) : Statement (.powerEstimate amps) := fun _ => Nat.le_of_ble_eq_true rfl
theorem thermalThrottleEnter (die : Fin 10) (celsius : BitVec 8) : Statement (.thermalThrottleEnter die celsius) := fun _ => Nat.le_of_ble_eq_true rfl
theorem thermalThrottleLeave (die : Fin 10) (celsius : BitVec 8) : Statement (.thermalThrottleLeave die celsius) := fun _ => Nat.le_of_ble_eq_true rfl
theorem thermalHalt (die : Fin 10) (celsius : BitVec 8) : Statement (.thermalHalt die celsius) := fun _ => Nat.le_of_ble_eq_true rfl
theorem debugHalt : Statement (.debugHalt) := fun _ => Nat.le_of_ble_eq_true rfl
theorem debugResume : Statement (.debugResume) := fun _ => Nat.le_of_ble_eq_true rfl
theorem elementGroupIssue (core : CoreId) (g : Fin 4) : Statement (.elementGroupIssue core g) := fun _ => Nat.le_of_ble_eq_true rfl
theorem engineCommandCompletion (unit : UnitSel) : Statement (.engineCommandCompletion unit) := fun _ => Nat.le_of_ble_eq_true rfl
theorem partitionResetComplete (part : Fin 16) : Statement (.partitionResetComplete part) := fun _ => Nat.le_of_ble_eq_true rfl
theorem ucieRetrainingEnd (a b : Fin 10) : Statement (.ucieRetrainingEnd a b) := fun _ => Nat.le_of_ble_eq_true rfl
theorem powerFail (keepOld : Bool) : Statement (.powerFail keepOld) := fun _ => Nat.le_of_ble_eq_true rfl
theorem keepAliveReceipt (port : Fin 32) : Statement (.keepAliveReceipt port) := fun _ => Nat.le_of_ble_eq_true rfl

end Sys2Proof.Laws.Words
end

