-- ==== Sys2Proof/Tests/Slice0.lean ====
section
/-! SUPPORT. Tests: ill-formed terms that the checks refuse, words decoded, one step at a time on small states with results
worked out from the rules, and for every statement with hypotheses a state and operands that meet them. -/

namespace Sys2Proof.Tests

set_option Elab.async false

open Sys2Proof Sys2Proof.Machine Sys2Proof.Claims

/-! ### Small states -/

/-- One instance runs on core 0, and its engine `e` executes at supervisor privilege. -/
def live (e : EngId) : State := State.probe State.reset e []

/-- The Caller executes. -/
def onCaller : State := live callerId

/-- Thread 0 executes. -/
def onThread : State := live 0

/-- A scalar register is given a value. -/
def reg (s : State) (r : SReg) (v : Word) : State := s.updMe (fun g => g.wr r v)

/-- The engine executes at user privilege. -/
def user (s : State) : State := s.updMe (fun g => { g with tr := { g.tr with priv := false } })

/-- The launch's record is changed. -/
def recWith (s : State) (f : LRec → LRec) : State := { s with launches := s.launches.map (fun l => { l with rec_ := f l.rec_ }) }

/-- What a step leaves, read by `f`; `d` where it gives no next state. -/
def after {α : Type} (r : Host.Outcome State Fault Refusal) (d : α) (f : State → α) : α := match r with | .next t => f t | _ => d

/-- A register after an instruction of the executing engine. -/
def got (i : Instr) (s : State) (r : SReg) : Word := after (exec i s) 0 (fun t => t.me.rd r)

/-- The trap code that an instruction leaves. -/
def trapCode (i : Instr) (s : State) : Nat := after (exec i s) 0 (fun t => if t.me.tr.trap then t.me.tr.ecode else 0)

/-! ### Well-formed terms -/

theorem test_wf_predicate_zero : (Instr.cmpEq 0 1 2 0).wf = false ∧ (Instr.pand 0 1 2 0).wf = false ∧ (Instr.por 0 1 2 0).wf = false ∧
    (Instr.pnot 0 1 0).wf = false ∧ (Instr.cmpiLt 0 1 2 0).wf = false := by decide
theorem test_wf_shift : (Instr.shli 1 2 64 0).wf = false ∧ (Instr.shri 1 2 64 0).wf = false ∧ (Instr.srai 1 2 64 0).wf = false ∧
    (Instr.shli 1 2 63 0).wf = true := by decide
theorem test_wf_ldn : (Instr.ldn { r := 1, base := 2, cls := 0, width := 3, sp := false, imm := 0 } 0).wf = false := by decide
theorem test_wf_arrive_mode : (Instr.barArrive 0 1 3 0).wf = false := by decide
theorem test_wf_fence : (Instr.fence 6 1 0).wf = false ∧ (Instr.fence 5 0 0).wf = false ∧ (Instr.fence 5 1 0).wf = true := by decide
theorem test_wf_ident : (Instr.ident 1 9 0).wf = false ∧ (Instr.ident 1 8 0).wf = true := by decide
theorem test_wf_control_register : (Instr.crRd 1 0x16 0).wf = false ∧ (Instr.crWr 1 0x80 0).wf = false ∧
    (Instr.crSet 1 0x3f 0).wf = false ∧ (Instr.crClr 1 0x7f 0).wf = true := by decide
theorem test_wf_slot : (Instr.mclaimX 32 0).wf = false ∧ (Instr.mclaimXScl 32 0).wf = false ∧ (Instr.mreleaseX 32 0).wf = false ∧
    (Instr.mclaimW 63 0).wf = true := by decide
theorem test_wf_priority : (Instr.mqprio 3 0).wf = false := by decide
/-- A product's fields. -/
def prod (fmt : BitVec 4) (n1 : BitVec 6) (gang : BitVec 2) (arrive : Bool) (bar : BitVec 6) : MmaF :=
  { rb := 0, fmt := fmt, q := false, aq := false, rl := false, z := 0, x := 0, w := 0, n1 := n1, gang := gang, arrive := arrive,
    bar := bar }
theorem test_wf_product : (Instr.mma (prod 11 0 0 true 0) 0).wf = false ∧ (Instr.mma (prod 12 1 0 true 0) 0).wf = false ∧
    (Instr.mma (prod 12 0 1 true 0) 0).wf = false ∧ (Instr.mmar (prod 8 63 0 false 1) 0).wf = false ∧
    (Instr.mreel (prod 8 0 0 true 0) 0).wf = false ∧ (Instr.mreel (prod 8 0 3 false 0) 0).wf = false ∧
    (Instr.mreel (prod 8 0 3 true 63) 0).wf = true := by decide
/-- A drain's fields. -/
def dr (fmt : BitVec 4) (rnd : BitVec 3) (arrive : Bool) (bar : BitVec 6) : DrainF :=
  { rs1 := 1, fmt := fmt, q := false, aq := false, rl := false, z := 0, rnd := rnd, sat := false, cls := 0, arrive := arrive, bar := bar }
theorem test_wf_drain : (Instr.mdrain (dr 7 0 true 0) 0).wf = false ∧ (Instr.mdrain (dr 13 5 true 0) 0).wf = false ∧
    (Instr.mdrain (dr 13 4 false 1) 0).wf = false ∧ (Instr.mdrain (dr 13 4 true 1) 0).wf = true := by decide
theorem test_wf_agather : (Instr.agather 1 2 5 false 0).wf = false ∧ (Instr.agather 1 2 7 false 0).wf = true := by decide
theorem test_wf_vconf : (Instr.vcfg { rd := 1, rs1 := 2, fmt := 0, blk := 0, grp := 0, ta := false, ma := false } 0).wf = false ∧
    (Instr.vcfg { rd := 1, rs1 := 2, fmt := 14, blk := 0, grp := 0, ta := false, ma := false } 0).wf = false ∧
    (Instr.vreshape 3 0).wf = false := by decide
/-- No trap stands in the way of a trap of the executing engine, which is in no task. -/
theorem trapFree_of (s : State) (h : s.me.tr.trap = false ∧ s.me.traps = [] ∧ s.me.v.vq = [] ∧ s.me.wait = .none ∧ s.me.task = none ∧
    (s.instAt s.core).stopped = false) : trapFree s :=
  ⟨h.1, h.2.1, h.2.2.1, h.2.2.2.1, fun _ _ k => by simp [h.2.2.2.2.1] at k, h.2.2.2.2.2⟩

/-- A vector word's fields, unmasked. -/
def vf (vd vs1 vs2 : BitVec 5) (form : BitVec 2) (mods : BitVec 24) : VF :=
  { vd := vd, vs1 := vs1, vs2 := vs2, vs3 := 0, mask := 0, neg := false, cls := 0, aq := false, rl := false, form := form, mods := mods }
theorem test_wf_convoy : (Instr.convoy [] 0).wf = false ∧
    (Instr.convoy (List.replicate 5 ⟨.vadd, vf 1 2 3 0 0⟩) 0).wf = false ∧
    (Instr.convoy [⟨.vperm, vf 1 2 3 0 0⟩, ⟨.vadd, vf 1 2 3 0 0⟩] 0).wf = false ∧ (Instr.convoy [⟨.vperm, vf 1 2 3 0 0⟩] 0).wf = true := by
  decide
theorem test_wf_vector_form : (Instr.vadd (vf 1 2 3 3 0)).wf = false ∧ (Instr.vabs (vf 1 2 3 0 0)).wf = false := by decide
theorem test_wf_vector_mods : (Instr.vand (vf 1 2 3 0 0x200000)).wf = false ∧ (Instr.vadd (vf 1 2 3 0 0xa00000)).wf = false := by decide
theorem test_wf_vector_mask : (Instr.vcmp (vf 8 2 3 0 0)).wf = false ∧ (Instr.vcmp (vf 1 2 3 0 0x60000)).wf = false := by decide
theorem test_wf_vector_class : (Instr.vadd { vf 1 2 3 0 0 with cls := 1 }).wf = false ∧ (Instr.vadd (vf 1 2 3 0 0x800000)).wf = true := by
  decide

/-! ### Words, bit by bit (R299 to R318) -/

theorem test_known_words : (knownWords.all fun x =>
    (match decode true (wordBytes x.1) with | .ok (i, []) => i == x.2 | _ => false) && encode x.2 == x.1) = true := by decide
/-- R306: majors 0x13, 0x1e, 0x27 and 0x3a are unassigned; R307: so is func8 0x17. -/
theorem test_unassigned : (([0x4c000000, 0x78000000, 0x9c000000, 0xe8000000, 0x000000b8] : List Word32).all fun w =>
    match decode true (wordBytes [w]) with | .error (.illegal _ _) => true | _ => false) = true := by decide
/-- R299: a header at 0 modulo 8 has its own fault. -/
theorem test_header_place : (match decode false (wordBytes [0xfc000000, 0, 0]) with | .error .headerAlign => true | _ => false) = true := by
  decide
/-- R312, R318: rounding codes 5 to 7 are refused apart. -/
theorem test_rounding_reserved : (match decode true (wordBytes [0xd0010680, 0x02800000]) with | .error (.rounding _ _) => true | _ => false) =
    true := by decide
/-- The table's numbering: bit 0 is the least significant of the first word. -/
theorem test_table_word : decodeTableWord 32 0xb0000000 = some (.nop 0) := by decide

/-! ### Integer instructions (R324 to R328): results worked out by hand -/

theorem test_add_wraps : got (.add 1 2 3 0) (reg (reg onCaller 2 0xffffffffffffffff) 3 2) 1 = 1 := by decide
theorem test_s0_discards : got (.add 0 2 2 0) (reg onCaller 2 5) 0 = 0 := by decide
theorem test_mulh_signed : got (.mulh 1 2 2 0) (reg onCaller 2 0xffffffffffffffff) 1 = 0 := by decide
theorem test_mulhn_unsigned : got (.mulhn 1 2 2 0) (reg onCaller 2 0xffffffffffffffff) 1 = 0xfffffffffffffffe := by decide
theorem test_div_zero : got (.div 1 2 0 0) (reg onCaller 2 7) 1 = 0xffffffffffffffff := by decide
theorem test_div_overflow : got (.div 1 2 3 0) (reg (reg onCaller 2 0x8000000000000000) 3 0xffffffffffffffff) 1 = 0x8000000000000000 := by
  decide
theorem test_rem_sign : got (.rem 1 2 3 0) (reg (reg onCaller 2 0xfffffffffffffff9) 3 2) 1 = 0xffffffffffffffff := by decide
theorem test_sra : got (.sra 1 2 3 0) (reg (reg onCaller 2 0x8000000000000000) 3 127) 1 = 0xffffffffffffffff := by decide
theorem test_clz_zero : got (.clz 1 2 0) onCaller 1 = 64 ∧ got (.ctz 1 2 0) onCaller 1 = 64 := by decide
theorem test_lih : got (.lih 1 3 0x1234 0) (reg onCaller 1 5) 1 = 0x1234000000000005 := by decide
theorem test_sel : got (.sel 1 0 2 3 0) (reg onCaller 2 9) 1 = 9 ∧ got (.sel 1 1 2 3 0) (reg onCaller 2 9) 1 = 0 := by decide
theorem test_cmpi_signed : after (exec (.cmpiLt 2 3 0x1fff 0) onCaller) true (fun t => t.me.rdP 2) = false ∧
    after (exec (.cmpiLtn 2 3 0x1fff 0) onCaller) false (fun t => t.me.rdP 2) = true := by decide
theorem test_call_links : got (.call 4 0) onCaller 31 = 0x1008 ∧ after (exec (.call 0x7fffff 0) onCaller) 0 (fun t => t.me.pc) = 0x1000 := by
  decide
theorem test_jr_misaligned : trapCode (.jr 2 0) (reg onCaller 2 6) = 4 := by decide

/-! ### The system (R265 to R274, R323, R341 to R350) -/

theorem test_trap_vector : after (exec (.trap 7 0) onCaller) 0 (fun t => t.me.pc) = 0x640 ∧
    after (exec (.trap 7 0) onCaller) 0 (fun t => t.me.tr.einfo) = 7 := by decide
theorem test_eret_user : trapCode (.eret 0) (user onCaller) = 3 := by decide
theorem test_trap_eret : after (exec (.trap 7 0) (user onCaller)) 0 (fun t => after (exec (.eret 0) t) 0 (fun u => u.me.pc)) = 0x1004 := by decide
theorem test_ident_caller : got (.ident 1 5 0) onCaller 1 = 4 := by decide
theorem test_cr_user : trapCode (.crRd 1 0x11 0) (user onCaller) = 3 ∧ trapCode (.crRd 1 1 0) onCaller = 1 := by decide
theorem test_cr_epc : got (.crRd 1 0x11 0) (after (exec (.crWr 2 0x11 0) (reg onCaller 2 0x1007)) onCaller id) 1 = 0x1004 := by decide
theorem test_estat : got (.crRd 1 0x12 0) (after (exec (.trap 7 0) (user onCaller)) onCaller id) 1 = 0x3 := by decide

/-! ### States that meet the statements' hypotheses: scalar, memory, barriers, threads -/

theorem witness_integer_results : (∃ r, intRule onCaller.me (.sub 0 31 1 0) = some (0, r)) ∧ (Instr.srai 1 2 63 0).wf = true ∧
    ∃ r, immRule onCaller.me (.srai 1 2 63 0) = some (1, r) := ⟨⟨_, rfl⟩, by decide, _, rfl⟩
theorem witness_predicate_results : predRule onCaller.me (.cmpEq 7 0 0 0) = some (7, true) ∧
    predRule onCaller.me (.pnot 1 0 0) = some (1, false) := by decide
theorem witness_branch_targets : branchRule (reg onCaller 2 0xfffffffffffffffc).me (.jr 2 0) = some (0xfffffffffffffffc, none) ∧
    branchRule onCaller.me (.call 0x400000 0) = some (0xffffffffff001004, some 0x1008) := by decide

theorem witness_bad_target : badTarget (reg onCaller 2 6).me (.jr 2 0) = some 6 ∧ trapFree (reg onCaller 2 6) := ⟨by decide, trapFree_of _ (by decide)⟩

/-- A load of a byte at s2 + 31. -/
def byteLoad : MemF := { r := 1, base := 2, cls := 15, width := 0, sp := false, imm := 31 }
/-- An atomic of eight bytes at s9. -/
def wideAmo : AmoF := { rd := 7, base := 9, rs2 := 1, width := 3, sp := true, cls := 0, ord := 15 }
theorem witness_access_waits : (∃ a, accRule onCaller (.ld byteLoad 0) = some (a, some 1) ∧ a.addr % a.bytes = 0) ∧
    (∃ a, accRule (reg onCaller 9 0xfffffffffffffff8) (.amoOr wideAmo 0) = some (a, some 7) ∧ a.addr % a.bytes = 0) :=
  ⟨⟨_, rfl, by decide⟩, _, rfl, by decide⟩
theorem test_store_waits : after (exec (.st { r := 0, base := 2, cls := 1, width := 3, sp := true, imm := 0x3f } 0) (reg onCaller 2 8)) []
    (fun t => t.me.accs.map (fun a => (a.addr, a.bytes, a.cls))) = [(0, 8, 1)] := by decide

/-- An access at supervisor privilege, in class 0. -/
def accOf (seq : Nat) (k : AccKind) (sp : Space) (addr bytes data cmp : Nat) : Acc :=
  { seq := seq, kind := k, cls := 0, aq := false, rl := false, sp := sp, addr := addr, bytes := bytes, data := data, cmp := cmp,
    pc := 0x1000, sup := true, loc := none, vec := false, skip := 0, faulted := false, gone := false, elem := 0, of_ := 1 }
/-- Accesses wait on the executing engine. -/
def waiting (as : List Acc) (s : State) : State := s.updMe (fun g => { g with accs := as })
/-- Memory holds bytes at 0x2000. -/
def holding (bs : List Byte) (s : State) : State := { s with mem := s.mem.writeBytes 0x2000 bs }
theorem witness_load_performs :
    oneAccess (waiting [accOf 0 (.load 1 true) .g 0x2000 4 0 0] onCaller) 0 callerId (accOf 0 (.load 1 true) .g 0x2000 4 0 0) ∧
    reaches (waiting [accOf 0 (.load 1 true) .g 0x2000 4 0 0] onCaller) 0 (accOf 0 (.load 1 true) .g 0x2000 4 0 0) (.g 0x2000) :=
  ⟨by unfold oneAccess; decide, rfl, rfl, by decide, by decide, by decide⟩
theorem witness_store_performs :
    oneAccess (waiting [accOf 0 .store .s 0x7fff8 8 5 0] onCaller) 0 callerId (accOf 0 .store .s 0x7fff8 8 5 0) ∧
    reaches (waiting [accOf 0 .store .s 0x7fff8 8 5 0] onCaller) 0 (accOf 0 .store .s 0x7fff8 8 5 0) (.s 0 0x7fff8) :=
  ⟨by unfold oneAccess; decide, rfl, rfl, by decide, trivial, by decide⟩
theorem witness_atomic_performs :
    oneAccess (waiting [accOf 0 (.amo 6 1) .g 0x2000 2 5 0] onCaller) 0 callerId (accOf 0 (.amo 6 1) .g 0x2000 2 5 0) ∧
    reaches (waiting [accOf 0 (.amo 6 1) .g 0x2000 2 5 0] onCaller) 0 (accOf 0 (.amo 6 1) .g 0x2000 2 5 0) (.g 0x2000) :=
  ⟨by unfold oneAccess; decide, rfl, rfl, by decide, by decide, by decide⟩
theorem test_load_sign : after (exec (.elementPerform (.acc 0 callerId 0)) (holding [0x01, 0x80] (waiting [accOf 0 (.load 1 true) .g 0x2000 2 0 0] onCaller))) 0
    (fun t => t.me.rd 1) = 0xffffffffffff8001 := by decide
theorem test_amo_min : after (exec (.elementPerform (.acc 0 callerId 0)) (holding [0x01] (waiting [accOf 0 (.amo 1 1) .g 0x2000 1 0xff 0] onCaller))) []
    (fun t => [t.me.rd 1, (t.mem.read 0x2000).zeroExtend 64]) = [1, 0xff] := by decide
theorem test_amo_cas : after (exec (.elementPerform (.acc 0 callerId 0)) (holding [5] (waiting [accOf 0 (.amo 4 1) .g 0x2000 1 9 4] onCaller))) 0
    (fun t => t.mem.read 0x2000) = 5 := by decide

/-- Two accesses of one class wait. -/
def twoWait : State := waiting [accOf 0 .store .s 0 8 1 0, accOf 1 (.load 1 true) .s 0 8 0 0] onCaller
theorem witness_access_ordered : (twoWait.engAt 0 callerId).accs[1]? = some (accOf 1 (.load 1 true) .s 0 8 0 0) ∧
    accOf 0 .store .s 0 8 1 0 ∈ (twoWait.engAt 0 callerId).accs ∧ (accOf 0 .store .s 0 8 1 0).isAccess = true ∧ (accOf 0 .store .s 0 8 1 0).faulted = false ∧
    (accOf 0 .store .s 0 8 1 0).seq < (accOf 1 (.load 1 true) .s 0 8 0 0).seq := by decide
theorem test_ordered : after (exec (.elementPerform (.acc 0 callerId 1)) twoWait) 0 (fun t => t.me.accs.length) = 2 ∧
    after (exec (.elementPerform (.acc 0 callerId 0)) twoWait) 0 (fun t => t.me.accs.length) = 1 := by decide

theorem witness_read_results : (∃ r, readRule onCaller (.ident 1 7 0) = some (1, r)) ∧ (∃ r, readRule onCaller (.ident 0 8 0) = some (0, r)) ∧
    (∃ r, readRule onCaller (.barTest 31 63 0) = some (31, r)) := ⟨⟨_, rfl⟩, ⟨_, rfl⟩, _, rfl⟩
theorem witness_barrier_init : barOperand onCaller (barAt (onCaller.instAt 0) 63) 0xffff 3 ∧
    barOperand onCaller (barAt (onCaller.instAt 0) 0) 0x01010001 2 ∧
    (barAt (onCaller.instAt 0) 63).shut ≠ some onCaller.clk := by unfold barOperand; decide
theorem witness_barrier_arrive : (reg onCaller 1 0).me.rd 1 = 0 ∧ 0 < (onCaller.launchOf 0).rec_.w * (onCaller.launchOf 0).rec_.h ∧
    (onCaller.launchOf 0).coreOf 0 = 0 ∧ (onCaller.instAt 0).live = true ∧ (onCaller.launchOf 0).id = (onCaller.instAt 0).launch ∧
    onCaller.me.accs = [] ∧ onCaller.me.v.vq = [] ∧ twoWait.me.accs ≠ [] := by decide
theorem test_arrive_counts : after (exec (.barArrive 5 0 2 0) onCaller) 0 (fun t => (barAt (t.instAt 0) 5).arr) = 1 := by decide
/-- An initialised barrier that expects one arrival. -/
def expectsOne (cnt : Nat) (doneAt : Option Nat) : Barrier :=
  { init := true, exp := 1, cnt := cnt, phase := true, scope := 0, gw := 0, gh := 0, arr := 0, shut := none, doneAt := doneAt }
/-- A phase of barrier 0 has completed in this ck. -/
def justDone : State := onCaller.updInst 0 (fun n => { n with bars := n.bars.set 0 (expectsOne 0 (some onCaller.clk)) })
theorem witness_barrier_waits : (onCaller.me.inTask = false ∧ (barAt (onCaller.instAt 0) 63).doneAt ≠ some onCaller.clk) ∧
    justDone.me.inTask = false ∧ (barAt (justDone.instAt justDone.core) 0).doneAt = some justDone.clk := by decide

/-- Barrier 3 of core 0 expects one arrival and has two, and the Caller waits there under a limit. -/
def fullBarrier : State :=
  (onCaller.updInst 0 (fun n => { n with bars := n.bars.set 3 (expectsOne 2 none) })).updMe
    (fun g => { g with wait := .twait 3 1 5 })
theorem witness_barrier_phase : (fullBarrier.instAt 0).live = true ∧ (barAt (fullBarrier.instAt 0) 3).init = true ∧
    phaseEnds (barAt (fullBarrier.instAt 0) 3) fullBarrier.clk ∧ fullBarrier.me.uiWait = .none ∧
    fullBarrier.me.wait = .twait 3 1 5 := by unfold phaseEnds; decide
/-- An arrival of the ck that ends no phase. -/
theorem witness_barrier_no_phase : let s := after (exec (.barArrive 5 0 2 0) onCaller) onCaller id
    (s.instAt 0).live = true ∧ 0 < (barAt (s.instAt 0) 5).arr ∧ ¬ phaseEnds (barAt (s.instAt 0) 5) s.clk ∧ s.me.uiWait = .none := by
  unfold phaseEnds; decide
theorem test_phase : after (exec (.barrierPhaseComplete 0 3) fullBarrier) [] (fun t => [t.me.pc, t.me.rd 1, if (barAt (t.instAt 0) 3).phase then 1 else 0,
    BitVec.ofNat 64 (barAt (t.instAt 0) 3).cnt]) = [0x1008, 0, 0, 1] := by decide +kernel

theorem witness_fork : onCaller.eng = callerId ∧ (onCaller.engAt 0 (forked 3)).running = false ∧ (onCaller.recOf 0).det = false := by decide
theorem witness_rendez : onCaller.me.inTask = false ∧
    (∀ t : BitVec 2, (15 : BitVec 4).getLsbD t.toNat = true → (onCaller.engAt 0 (forked t)).running = false) ∧
    (after (exec (.fork 3 0 0 0) onCaller) onCaller id).eng = callerId ∧
    ((after (exec (.fork 3 0 0 0) onCaller) onCaller id).engAt 0 (forked 3)).running = true := by decide
theorem test_fork_registers : after (exec (.fork 2 5 1 0) (reg onCaller 5 9)) [] (fun t => [(t.engAt 0 2).pc, (t.engAt 0 2).regs[3], (t.engAt 0 2).regs[5]]) =
    [0x1008, 9, 0] := by decide
theorem witness_halt : (onThread.me.tr.trap = false ∧ onThread.me.inTask = false ∧ onThread.me.tr.uirq = false ∧ onThread.me.v.vq = [] ∧
    onThread.me.accs = []) ∧ (after (exec (.trap 1 0) onCaller) onCaller id).me.tr.trap = true ∧
    (after (exec (.trap 1 0) onCaller) onCaller id).me.tr.priv = true ∧ onCaller.launches = [probeLaunch] ∧
    probeLaunch.id = (onCaller.instAt 0).launch ∧ probeLaunch.stopping = false := by decide
theorem test_halt_in_trap : after (exec (.trap 1 0) onCaller) [] (fun t => after (exec (.halt 0) t) [] (fun u =>
    u.launches.map (fun l => (l.stopping, l.status, l.ecode)))) = [(true, 1, 0x19)] := by decide
theorem witness_launch : onCaller.eng = callerId ∧ ((reg onCaller 2 0x2000).me.rd 2).toNat % 64 = 0 ∧ (reg onCaller 2 0x2000).me.accs = [] ∧ (reg onCaller 2 0x2000).me.aside = none ∧
    (∃ pa bs, (reg onCaller 2 0x2000).xlate 0 true 0x2000 64 permR = .ok pa ∧ pa < devBase ∧
      (reg onCaller 2 0x2000).readPhys (onCaller.partOf 0) pa 64 0x2000 = .ok bs) := ⟨rfl, by decide, rfl, rfl, _, _, rfl, by decide, rfl⟩


/-! ### States that meet the statements' hypotheses: control registers, traps, interrupts -/

/-- A change of the executing engine's trap registers. -/
def trapRegs (f : TrapRegs → TrapRegs) (s : State) : State := s.updMe (fun g => { g with tr := f g.tr })
/-- The Caller runs the handler of a trap that user code took. -/
def inTrap : State := trapRegs (fun r => { r with ppriv := false, trap := true, epcw := true, epc := 0x2000 }) onCaller

theorem witness_control_register_read : (Instr.crRd 1 0x00 0).wf = true ∧ crCodeNow onCaller 0x00 false = none ∧ crNoWait onCaller ∧
    (Instr.crRd 1 0x7f 0).wf = true ∧ crCodeNow onThread 0x7f false = none ∧ crNoWait onThread := by unfold crNoWait; decide
theorem witness_control_register_write : (Instr.crSet 1 0x11 0).wf = true ∧ crCodeNow onCaller 0x11 true = none ∧ crNoWait onCaller ∧
    (crMask onCaller 0x11).isSome = true ∧ (crNew onCaller 0 (.crSet 1 0x11 0)).isSome = true ∧
    crCodeNow onThread 0x7f true = none ∧ (crMask onThread 0x7f).isSome = true := by unfold crNoWait crMask; decide
theorem witness_control_register_shaped : crCodeNow onThread 0x00 true = none ∧ crShaped onThread 0x00 ∧ crCodeNow onThread 0x04 true = none ∧
    crCodeNow onCaller 0x07 true = none ∧ crCodeNow onThread 0x0e true = none ∧ crShaped onCaller 0x0e ∧
    (crNew onThread 0 (.crWr 1 0x04 0)).isSome = true ∧ crNoWait onThread := by unfold crNoWait crShaped; decide
theorem test_vlcap : got (.crRd 1 0x04 0) (after (exec (.crWr 2 0x04 0) (reg onThread 2 0x1fff)) onThread id) 1 = 0x1000 := by decide +kernel
theorem witness_control_register_ignored : crCodeNow onCaller 0x12 true = none ∧ crIgnored onCaller 0x12 ∧
    crCodeNow (user onThread) 0x01 true = none ∧ crIgnored (user onThread) 0x01 := by unfold crIgnored; decide
theorem witness_double_fault : inTrap.me.tr.trap = true ∧ inTrap.hub.notifs.length < 1024 := by decide
theorem test_double_fault_frozen : after (exec (.trap 1 0) inTrap) false (fun t => t.me.frozen) = true := by decide

/-- The Caller's handler may return: the interrupted code's queue is set aside. -/
def mayReturn : State := inTrap.updMe (fun g => { g with
  aside := some { vq := [], resume := 0x3000, acc := none, seq := 0, fired := 0, skip := 0, tq := none, firstUse := false, late := false, vstart := 0 } })
theorem witness_eret_returns : mayReturn.me.tr.priv = true ∧ mayReturn.me.tr.trap = true ∧ mayReturn.me.aside.isSome = true ∧
    (mayReturn.me.aside.map (fun a => (a.firstUse, a.late, a.tq, a.acc))) = some (false, false, none, none) ∧ mayReturn.me.v.vq = [] ∧
    mayReturn.me.wait = .none ∧ mayReturn.me.uiWait = .none := by decide
theorem test_eret_epc : after (exec (.eret 0) mayReturn) [] (fun t => [t.me.pc, if t.me.tr.priv then 1 else 0]) = [0x2000, 0] := by decide

/-- A user-level interrupt of port 2 is pending on a Caller that lets it in. -/
def uiPending : State := (onCaller.updInst 0 (fun n => { n with ports := n.ports.set 2 { n.ports[2] with irq := some 0x77 } })).updMe
  (fun g => { g with uivec := 0x4001 })
theorem witness_user_interrupt : uiPending.mayUi 0 = true ∧ (uiPending.portAt 0 2).irq = some 0x77 ∧
    ∀ q : Fin 8, q < 2 → (uiPending.portAt 0 q).irq = none := by decide
theorem test_user_interrupt : after (exec (.userInterrupt 0) uiPending) [] (fun t => [t.me.pc, t.me.rd 24, t.me.rd 25, t.me.rd 26]) =
    [0x4000, 0x1004, 0x77, 2] := by decide
theorem witness_ueret : (after (exec (.userInterrupt 0) uiPending) onThread id).me.tr.uirq = true ∧
    (after (exec (.userInterrupt 0) uiPending) onThread id).me.uiWait = .none := by decide
theorem test_ueret : after (exec (.userInterrupt 0) uiPending) 0 (fun t => after (exec (.ueret 0) t) 0 (fun u => u.me.pc)) = 0x1004 := by decide
theorem test_ueret_outside : trapCode (.ueret 0) onCaller = 1 := by decide

/-- Partition 0 holds the cores 0 to 3 of the first row. -/
def part4 : PartDef := { x0 := 0, y0 := 0, w := 4, h := 1, chans := 1, ports := 1 }
/-- With partition 0 defined. -/
def withPart (s : State) : State := { s with parts := s.parts.set 0 { s.parts[0] with pdef := some part4 } }
theorem witness_unfreeze : (reg (withPart onCaller) 1 0x10030000).me.tr.priv = true ∧ (3 : CoreId) ≠ (withPart onCaller).core ∧
    (withPart onCaller).partDef ((withPart onCaller).recOf 0).part = some part4 ∧ part4.hasCore 3 = true ∧ part4.hasCore 4 = false ∧
    (engMaster 3 callerId).toNat = 0x10030000 ∧ (engMaster 0 2).toNat = 2 := by decide
theorem test_unfreeze_outside : got (.unfreeze 2 1 0) (reg (withPart onCaller) 1 (engMaster 4 callerId |>.zeroExtend 64)) 2 = 2 := by decide
theorem witness_psample : ((reg onCaller 1 0x60).me.rd 1).toNat % 32 = 0 ∧ ((reg onCaller 1 0x7fff8).me.rd 1).toNat % 32 ≠ 0 ∧
    trapFree (reg onCaller 1 0x7fff8) := ⟨by decide, by decide, trapFree_of _ (by decide)⟩
theorem test_psample : after (exec (.psample 1 0) (reg onCaller 1 0x60)) 0 (fun t => t.me.accs.length) = 16 := by decide
theorem test_tlbinv_all : after (exec (.tlbinvAll 0) (onCaller.updCore 0 (fun k => { k with
    tlb := [{ parked := true, vpage := 1, bits := 12, ppage := 1, perm := 7, lvl := 0 }] }))) [1] (fun t => (t.coreAt 0).tlb.map (fun x => x.vpage)) = [] := by decide

/-! ### Tile queues, slots and streams -/

theorem witness_tile_command : onCaller.eng = callerId ∧ (tileRule onCaller (.mzero 63 true 0)).isSome = true ∧
    (tileRule (reg onCaller 2 2048) (.rgenOpen 2 3 4 false 0)).isSome = true ∧ (tileRule (reg onCaller 2 2049) (.rgenOpen 2 3 4 false 0)).isNone = true ∧
    (tileRule (reg onCaller 2 64) (.kvalloc 1 3 2 true 0)).isSome = true ∧ (tileRule (reg onCaller 2 65) (.kvalloc 1 3 2 true 0)).isNone = true ∧
    (tileRule (reg onCaller 2 0x40) (.mdrain { dr 13 0 true 0 with rs1 := 2 } 0)).isSome = true ∧
    (tileRule onCaller (.mreel (prod 8 0 0 true 0) 0)).isNone = false := by decide
/-- A queued command. -/
def ent (i : Instr) : TqEnt := 
  { cmd := i, pc := 0x900, seq := 0, a := 0, b := 0, c := 0, begun := false, prog := 0, done := 0, reports := [], flags := 0,
    held := false, back := false }
/-- Commands wait in tile queue 0. -/
def queued (xs : List Instr) (s : State) : State := s.updInst 0 (fun n => { n with tqs := n.tqs.set 0 { n.tqs[0] with ents := xs.map ent } })
theorem witness_tile_command_full : 16 ≤ (((queued (List.replicate 16 (.mzero 0 false 0)) onCaller).instAt 0).tqs[tqBit false]).ents.length ∧
    (((queued (List.replicate 15 (.mzero 0 false 0)) onCaller).instAt 0).tqs[tqBit false]).ents.length < 16 := by decide
theorem test_rtpush_misaligned : trapCode (.rtpush 1 false 0) (reg onCaller 1 16) = 4 := by decide
theorem witness_slot_claimed : (Instr.mclaimW 15 0).wf = true ∧ 15 < slotCount onCaller true ∧ isClaimed onCaller true 15 = false ∧
    (Instr.mclaimXScl 7 0).wf = true ∧ 7 < slotCount onCaller false ∧ isClaimed onCaller false 7 = false ∧ ¬ 8 < slotCount onCaller false := by
  decide
/-- X slot 7 is claimed. -/
def claimed7 : State := after (exec (.mclaimXScl 7 0) onCaller) onThread id
/-- A product that reads X slot 7 waits. -/
def slotWaits : State := queued [.mma { prod 9 0 0 true 0 with x := 7 } 0] claimed7
theorem witness_slot_released : isClaimed claimed7 false 7 = true ∧ ((claimed7.instAt 0).tqs[(0 : Fin 2)]).ents = [] ∧
    ((claimed7.instAt 0).tqs[(1 : Fin 2)]).ents = [] := by decide
theorem witness_slot_release_waits : isClaimed slotWaits false 7 = true ∧ slotRead slotWaits false 7 :=
  ⟨by decide +kernel, 0, ent (.mma { prod 9 0 0 true 0 with x := 7 } 0), by decide +kernel, rfl, _, ⟨0, .inl rfl⟩, rfl⟩
theorem witness_claim_beyond : (Instr.mclaimX 31 0).wf = true ∧ slotCount onCaller false ≤ 31 ∧ isClaimed claimed7 false 7 = true ∧
    7 < slotCount claimed7 false ∧ trapFree claimed7 := ⟨by decide, by decide, by decide, by decide, trapFree_of _ (by decide)⟩
theorem test_claim_twice : trapCode (.mclaimX 7 0) claimed7 = 1 := by decide
theorem test_release_free : trapCode (.mreleaseX 7 0) onCaller = 15 ∧ trapCode (.mreleaseW 7 0) onCaller = 15 := by decide
theorem witness_queue_settings : (Instr.mqprio 2 0).wf = true ∧
    ((queued [.mmodeRed false 0] onCaller).tqHead 0 0).map (fun x => x.cmd) = some (.mmodeRed false 0) ∧
    ((queued [.mmodeStd false 0] onCaller).tqHead 0 0).map (fun x => x.cmd) = some (.mmodeStd false 0) := by decide +kernel
theorem test_mode_red : after (exec (.engineCommandCompletion (.tile 0 0)) (queued [.mmodeRed false 0] onCaller)) false
    (fun t => ((t.instAt 0).tqs[(0 : Fin 2)]).red) = true := by decide +kernel
theorem test_mqprio : after (exec (.mqprio 2 0) onCaller) 0 (fun t => (t.instAt 0).prio) = 2 := by decide
theorem witness_tile_zeroed : ((queued [.mzero 15 false 0] onCaller).tqHead 0 0).map (fun x => x.cmd) = some (.mzero 15 false 0) ∧
    (queued [.mzero 15 false 0] onCaller).tqHead 0 1 = none ∧ ((queued [.mzero 15 false 0] onCaller).coreAt 0).reels = [] ∧
    (((queued [.mzero 15 false 0] onCaller).instAt 0).tqs[(0 : Fin 2)]).red = false ∧
    15 < (((queued [.mzero 15 false 0] onCaller).coreAt 0).winZ ((queued [.mzero 15 false 0] onCaller).fgAt 0)).2 := by decide +kernel

theorem witness_zero_granted : (queued [.mzero 15 false 0] onCaller).tqHead 0 1 = none ∧ arrayIdle (queued [.mzero 15 false 0] onCaller) 0 := by
  unfold arrayIdle; decide +kernel
theorem test_zero_granted : after (exec (.matrixGrant 0) (queued [.mzero 15 false 0] onCaller)) none
    (fun t => (t.coreAt 0).zrun.map (fun r => (r.z, r.puts.length, r.puts.head?.map (fun u => u.1), (t.coreAt 0).bufZ.mem.length))) =
    some (15, 4096, some (63 * 16384), 0) := by decide +kernel
/-- The array of core 0 runs for queue 0: these writes of tile 15 are left. -/
def arrayRuns (leader : Option (CoreId × Nat)) (puts : List (Nat × List Byte)) (s : State) : State :=
  s.updCore 0 (fun k => { k with zrun := some { launch := 1, q := 0, leader := leader, z := 15, red := false, flags := 4, puts := puts } })
/-- The last write of `mzero` is left, and none. -/
def zeroing (puts : List (Nat × List Byte)) : State := arrayRuns none puts (queued [.mzero 15 false 0] onCaller)
theorem witness_zero_writes : ((zeroing [(15 * 16384, [0, 0, 0, 0])]).instAt 0).live = true ∧
    ((zeroing [(15 * 16384, [0, 0, 0, 0])]).coreAt 0).reels = [] ∧ ((zeroing [(15 * 16384, [0, 0, 0, 0])]).coreAt 0).zrun.isSome = true ∧
    (((zeroing []).instAt 0).tqs[(0 : Fin 2)]).ents.head? = some (ent (.mzero 15 false 0)) := by decide +kernel
theorem test_zero_ends : after (exec (.matrixGrant 0) (zeroing [])) none
    (fun t => some ((t.coreAt 0).zrun.isSome, (((t.instAt 0).tqs[(0 : Fin 2)]).ents.length))) = some (false, 0) := by decide +kernel

/-- X slot 1 and W slot 0 are claimed. -/
def claimed : State := after (exec (.mclaimW 0 0) (after (exec (.mclaimX 1 0) onCaller) onCaller id)) onCaller id
/-- A product in FP8. -/
def product : MmaF := { prod 9 0 0 true 63 with x := 1, z := 15 }
theorem witness_product_granted : (claimed.instAt 0).live = true ∧
    (queued [.mma product 0] claimed).tqHead 0 0 = some (ent (.mma product 0)) ∧ (queued [.mma product 0] claimed).tqHead 0 1 = none ∧
    (Instr.mma product 0).wf = true ∧ arrayIdle (queued [.mma product 0] claimed) 0 ∧
    passReady (queued [.mma product 0] claimed) 0 (ent (.mma product 0)) product 64 false := by
  refine ⟨by decide +kernel, by decide +kernel, by decide +kernel, by decide, by unfold arrayIdle; decide +kernel, ?_⟩
  unfold passReady
  exact ⟨by decide +kernel, by decide +kernel, by decide +kernel, by decide +kernel, by decide +kernel, by decide +kernel, by decide +kernel,
    by decide, fun _ h => by simp [ent] at h, by decide +kernel, by decide +kernel, by decide +kernel, by decide +kernel, by decide +kernel,
    by decide +kernel, by decide +kernel⟩
theorem witness_pass_rule : rowVal 9 false (List.replicate 256 0x38) [] 255 = some 1 ∧ floatVal 12 0x3f80 = some 1 ∧ floatVal 13 0 = some 0 := by
  decide +kernel
theorem witness_product_ends : (((arrayRuns none [] (queued [.mma product 0] claimed)).instAt 0).tqs[(0 : Fin 2)]).ents.head? =
      some (ent (.mma product 0)) ∧ passCmd (.mma product 0) = some (product, 64) ∧
    ((arrayRuns (some (0, 0)) [] (queued [.mreel product 0] claimed)).instAt 0).launch = 1 ∧
    (((arrayRuns (some (0, 0)) [] (queued [.mreel product 0] claimed)).instAt 0).tqs[(0 : Fin 2)]).ents = [ent (.mreel product 0)] := by
  decide +kernel
theorem test_product_ends : after (exec (.matrixGrant 0) (arrayRuns none [] (queued [.mma product 0] claimed))) none
    (fun t => some ((t.engAt 0 callerId).vflags.toNat, (barAt (t.instAt 0) 63).arr)) = some (4, 1) := by decide +kernel
/-- All but one element of B have landed. -/
def lastOfB : ReelJob := 
  { launch := 1, leader := 0, m := 0, q := 0, f := product, scales := 0, red := false, word := 0, landed := 2 ^ 2559 - 1, bad := none }
/-- Core 0 waits, as a member of its own gang, for the last element of B. -/
def landing : State := (arrayRuns none [] claimed).updCore 0 (fun k => { k with reels := [lastOfB] })
theorem witness_reel_lands : landsFrom landing 0 lastOfB ∧ ((landing.instAt 0).tqs[(0 : Fin 2)]).ents = [] := by
  unfold landsFrom; decide +kernel
/-- A drain of tile 0 in FP4 has begun, with writes left or none. -/
def draining (done : Nat) : State := onCaller.updInst 0 (fun n => { n with tqs := n.tqs.set 0 { n.tqs[0] with
  ents := [{ ent (.mdrain (dr 8 0 true 63) 0) with begun := true, done := done, flags := 4 }] } })
theorem witness_drains : (draining 1).tqHead 0 0 = some { ent (.mdrain (dr 8 0 true 63) 0) with begun := true, done := 1, flags := 4 } ∧
    (draining (2 ^ 2048 - 1)).tqHead 0 0 = some { ent (.mdrain (dr 8 0 true 63) 0) with begun := true, done := 2 ^ 2048 - 1, flags := 4 } ∧
    (Instr.mdrain (dr 8 0 true 63) 0).wf = true ∧ (1 : Nat).testBit 2047 = false ∧ drainPer (dr 8 0 true 63) = 2 ∧
    (List.range 2048).all (fun k => (2 ^ 2048 - 1).testBit k) = true ∧ ((draining 1).coreAt 0).bufS.poison = [] ∧
    ((draining 1).coreAt 0).bufZ.poison = [] := by decide +kernel
theorem test_drain_ends : after (exec (.engineCommandCompletion (.tile 0 0)) (draining (2 ^ 2048 - 1))) none
    (fun t => some ((t.engAt 0 callerId).vflags.toNat, (barAt (t.instAt 0) 63).arr)) = some (4, 1) := by decide +kernel

/-- A stream of port 3 with ten elements, four of them landed, whose status register is s9. -/
def strm : Strm :=
  { kind := .affine, blk := List.replicate 128 0, off := 0, rd := 9, seq := 0, exp := 10, cvl := 0, landed := 4, next := 4, beat := 0,
    snap := none, flight := [], grips := [], err := 0, susp := false, suspAt := 0, past := false, noted := false }
/-- It runs. -/
def streaming (st : Strm) (s : State) : State :=
  (s.updInst 0 (fun n => { n with ports := n.ports.set 3 { n.ports[3] with run := some st } })).updMe (fun g => { g with pend := 0x200 })
/-- The stream of 8-byte elements from a space to a space, in rows of 16, with these units issued and elements ahead. -/
def strmOf (src dst : Byte) (next : Nat) (flight : List Piece) : Strm :=
  { strm with blk := [0, 3, src, dst] ++ List.replicate 20 0 ++ [16, 0, 0, 0, 1, 0, 0, 0, 1, 0, 0, 0, 1, 0, 0, 0] ++ [8] ++ List.replicate 31 0 ++
      [8] ++ List.replicate 55 0, next := next, flight := flight }
/-- A unit of element 9, at 0x48 or offset 0x4000. -/
def unit9 (got : Option Nat) (dst : Word) : Piece := { elem := 9, src := 0x48, dst := dst, len := 8, got := got, keep := 0 }
theorem witness_stream_issues : streamRuns (streaming (strmOf 1 1 4 []) onCaller) 0 3 (strmOf 1 1 4 []) ∧ (strmOf 1 1 4 []).next < 10 ∧
    countOf (strmOf 1 1 4 []) 0 = 16 ∧ countOf (strmOf 1 1 4 []) 1 = 1 ∧ 2 ^ fieldLE (strmOf 1 1 4 []).blk 1 1 = 8 ∧
    affineAddr (strmOf 1 1 4 []) 8 40 (fun k => if k = 0 then 9 else 0) = 0x48 := by unfold streamRuns; decide +kernel
theorem test_stream_issues : after (exec (.elementPerform (.stream 0 3)) (streaming (strmOf 1 1 4 []) onCaller)) []
    (fun t => ((t.portAt 0 3).run.map (fun st => st.flight.map (fun x => (x.elem, x.src.toNat, x.dst.toNat)))).getD []) =
    [(4, 32, 32), (5, 40, 40), (6, 48, 48), (7, 56, 56), (8, 64, 64), (9, 72, 72)] := by decide +kernel
theorem witness_stream_reads : streamRuns (streaming (strmOf 1 1 10 [unit9 none 0x48]) onCaller) 0 3 (strmOf 1 1 10 [unit9 none 0x48]) ∧
    sourceSpace (strmOf 1 1 10 [unit9 none 0x48]) = 1 ∧
    (streaming (strmOf 1 1 10 [unit9 none 0x48]) onCaller).resolve 0 false .s 0x48 8 true false = .ok (.s 0 0x180048) ∧
    (streaming (strmOf 1 1 10 [unit9 none 0x48]) onCaller).badRead (.s 0 0x180048) 8 = false := ⟨by unfold streamRuns; decide +kernel, rfl, rfl, by decide +kernel⟩
theorem witness_stream_writes : destSpace (strmOf 1 1 10 [unit9 (some 5) 0x48]) = 1 ∧
    (streaming (strmOf 1 1 10 [unit9 (some 5) 0x48]) onCaller).resolve 0 false .s 0x48 8 false true = .ok (.s 0 0x180048) ∧
    (streaming (strmOf 1 1 10 [unit9 (some 5) 0x48]) onCaller).badWrite (.s 0 0x180048) 8 = false ∧
    ((streaming (strmOf 1 1 10 [unit9 (some 5) 0x48]) onCaller).poolOf 0).en = false := ⟨rfl, rfl, by decide +kernel, by decide +kernel⟩
theorem witness_stream_slots : streamRuns (streaming (strmOf 1 3 10 [unit9 (some 5) 0x7ff8]) claimed) 0 3 (strmOf 1 3 10 [unit9 (some 5) 0x7ff8]) ∧
    destSpace (strmOf 1 3 10 []) = 3 ∧ xSlotOf 0x7ff8 = 1 ∧ (claimed.instAt 0).xslot 1 = { claimed := true, scaled := false, wrote := 0 } ∧
    1 < ((claimed.coreAt 0).winX (claimed.fgAt 0)).2 ∧ destSpace (strmOf 1 4 10 []) = 4 ∧ wSlotOf 0x100ff8 = 0 ∧
    (claimed.instAt 0).wslots.getLsbD 0 = true ∧ 0 < ((claimed.coreAt 0).winW (claimed.fgAt 0)).2 := by unfold streamRuns; decide +kernel
theorem test_stream_slot : after (exec (.elementPerform (.stream 0 3)) (streaming (strmOf 1 3 10 [unit9 (some 5) 0x7ff8]) claimed)) none
    (fun t => (t.portAt 0 3).run.map (fun st => (st.landed, (t.coreAt 0).bufX.mem.length))) = some (10, 1) := by decide +kernel
theorem witness_stream_control : ((queued [.skill 3 false 0] (streaming strm onCaller)).tqHead 0 0).map (fun x => x.cmd) = some (.skill 3 false 0) ∧
    ((queued [.skill 3 false 0] (streaming strm onCaller)).portAt 0 3).run = some strm ∧ strm.err = 0 ∧
    ((queued [.ssusp 3 false 0] (streaming strm onCaller)).tqHead 0 0).map (fun x => x.cmd) = some (.ssusp 3 false 0) := by decide +kernel
theorem test_skill : after (exec (.engineCommandCompletion (.tile 0 0)) (queued [.skill 3 false 0] (streaming strm onCaller))) none
    (fun t => (t.portAt 0 3).run.map (fun st => st.err)) = some 6 := by decide +kernel
theorem witness_speek : (streaming strm onCaller).eng = callerId ∧ (streaming strm onCaller).me.held 9 = true ∧
    ((streaming strm onCaller).instAt 0).streamOf 9 = some strm ∧ (streaming strm onCaller).me.held 8 = false := by decide
theorem test_speek : got (.speek 1 9 0) (streaming strm onCaller) 1 = 0xa00000004 := by decide

/-! ### Speculation and the vector threads -/

/-- Tasks exist in the launch. -/
def boosted : State := recWith onCaller (fun r => { r with boost := true })
/-- A task. -/
def task0 : Task := { seq := 5, excl := false, sd := 9, path := 0x5000, committing := false, abort := none }
/-- Its engine is in it, with room for two records in S. -/
def inTask : State := boosted.updMe (fun g => { g with task := some task0, ubase := 0x100, ulimit := 0x140 })
theorem witness_speculation_registered : tasksExist boosted ∧ ((reg boosted 2 0x2004).me.rd 2).toNat % 4 = 0 := by unfold tasksExist; decide
theorem witness_sctab : ((reg boosted 2 0x2008).me.rd 2).toNat % 8 = 0 ∧ boosted.me.task = none ∧ quiet boosted.me ∧ boosted.launches.length = 1 ∧
    (boosted.launches.map (fun l => l.id)) = [(boosted.instAt 0).launch] ∧
    (match boosted.readBlock 0 true 0x2008 520 with | .ok _ => true | _ => false) = true := by unfold quiet; decide +kernel
theorem witness_task_opens : tasksExist (boosted.updMe (fun g => { g with ulimit := 32 })) ∧
    (boosted.updMe (fun g => { g with ulimit := 32 })).me.task = none ∧
    (boosted.updMe (fun g => { g with ulimit := 32 })).me.ubase + 32 ≤ (boosted.updMe (fun g => { g with ulimit := 32 })).me.ulimit ∧
    (boosted.updMe (fun g => { g with ulimit := 32 })).tasksOf ((boosted.updMe (fun g => { g with ulimit := 32 })).launchOf 0) = [] := by
  unfold tasksExist; decide +kernel
theorem test_sbegin : after (exec (.sbegin 9 2 0) (boosted.updMe (fun g => { g with ulimit := 32 }))) none
    (fun t => t.me.task.map (fun k => (k.seq, k.path))) = some (4, 0x100c) := by decide +kernel
/-- A handler is registered for kind 7. -/
def handled : State := inTask.updInst 0 (fun n => { n with handlers := n.handlers.set 7 0x6000 })
theorem witness_operation_recorded : tasksExist handled ∧ handled.me.task = some task0 ∧ task0.excl = false ∧ handled.me.inTask = true ∧
    (handled.instAt 0).handlers[7] ≠ 0 ∧
    (handled.coreAt ((handled.launchOf 0).lockHome 0)).locks = [] ∧
    handled.me.ubase + 32 * (handled.me.udepth + 1) ≤ handled.me.ulimit := by unfold tasksExist; decide +kernel
theorem test_sop_record : after (exec (.sop 7 1 2 3 0) (reg handled 2 0x1234)) []
    (fun t => t.me.accs.map (fun a => (a.addr, a.data))) = [(0x100, 0x6000), (0x108, 0x1234), (0x110, 0), (0x118, 0x700000000)] := by
  decide +kernel
/-- The `sop` at place 0 has entered its hash, and a store of its record waits, or none. -/
def sopWaits (as : List Acc) : State := handled.updMe (fun g => { g with sopSeq := some 0, accs := as })
theorem witness_sop_waits : (∃ a ∈ (sopWaits [accOf 0 .store .s 0x100 8 0 0]).me.accs, a.seq = 0 ∧ a.isAccess = true) ∧
    (∀ a ∈ (sopWaits []).me.accs, a.seq = 0 → a.isAccess = false) ∧ (sopWaits []).me.task = some task0 ∧ (sopWaits []).me.inTask = true := by decide +kernel
theorem test_sop_pushed : after (exec (.sop 7 1 2 3 0) (sopWaits [])) none (fun t => some (t.me.udepth, t.me.pc)) = some (1, 0x1008) ∧
    after (exec (.sop 7 1 2 3 0) (sopWaits [accOf 0 .store .s 0x100 8 0 0])) none (fun t => some (t.me.udepth, t.me.pc)) = some (0, 0x1004) := by
  decide +kernel
theorem witness_task_closes : tasksExist inTask ∧ inTask.me.task = some task0 ∧ inTask.me.inTask = true ∧ quiet inTask.me ∧
    task0.abort = none ∧ task0.committing = false := by unfold tasksExist quiet; decide +kernel
theorem witness_commit_waits : ∃ a ∈ (inTask.updMe (fun g => { g with seq := 5, accs := [accOf 0 .store .s 0 8 1 0] })).me.accs,
    a.isAccess = true ∧ a.faulted = false ∧ a.seq < (inTask.updMe (fun g => { g with seq := 5, accs := [accOf 0 .store .s 0 8 1 0] })).me.seq := by decide
theorem test_scommit : after (exec (.scommit 0) inTask) true (fun t => t.me.task.isSome) = false := by decide +kernel
theorem test_sabort_cause : after (exec (.sabort 0) inTask) none (fun t => (t.me.task.bind (fun k => k.abort)).map (fun a => a.cause)) = some 2 := by
  decide +kernel

/-- A vector thread of one home group with 32 registers of 2,048 bits, whose elements are i32. -/
def vthread : State := onThread.updMe (fun g => { g with
  v := { g.v with homes := [0, 1, 2, 3], vregs := 32, len := 4096, vtype := 5, vl := 100 } })
theorem witness_vcfg : (Instr.vcfg { rd := 1, rs1 := 2, fmt := 8, blk := 5, grp := 0, ta := false, ma := false } 0).wf = true ∧
    vthread.eng ≠ callerId ∧ vthread.me.tr.raw = false ∧ vthread.me.v.len ≠ 0 ∧
    (vthread.coreAt 0).trc.getLsbD 63 = false ∧ vthread.me.v.vq = [] ∧ 4096 * 2 ^ 3 / fmtBits 8 0 < 2 ^ 24 := by decide
theorem test_vcfg_blocks : after (exec (.vcfg { rd := 1, rs1 := 2, fmt := 8, blk := 5, grp := 0, ta := false, ma := false } 0) (reg vthread 2 33)) []
    (fun t => [t.me.rd 1, BitVec.ofNat 64 t.me.v.vl, t.me.v.vtype]) = [64, 64, 0x3e058] := by decide +kernel
theorem witness_vstrip : (reg vthread 2 150).eng ≠ callerId ∧ stripCount (reg vthread 2 150).me.v.stripd 2 = 0 ∧
    (reg vthread 2 150).me.v.vtype.toNat % 16 ≠ 0 ∧ ((reg vthread 2 150).coreAt 0).ssa.getLsbD 63 = false ∧
    ((reg vthread 2 150).coreAt 0).trc.getLsbD 63 = false := by decide
theorem test_vstrip_branches : after (exec (.vstrip 2 0x3ffff 0) (reg vthread 2 150)) [] (fun t => [t.me.rd 2, BitVec.ofNat 64 t.me.v.vl, t.me.pc]) =
    [50, 50, 0x1000] := by decide +kernel
theorem test_vstrip_ends : after (exec (.vstrip 2 0x3ffff 0) (reg vthread 2 100)) [] (fun t => [t.me.rd 2, BitVec.ofNat 64 t.me.v.vl, t.me.pc]) =
    [0, 0, 0x1008] := by decide +kernel
/-- R115: in raw view VL is 1,024, and neither it nor VTYPE changes. -/
theorem test_vstrip_raw : after (exec (.vstrip 2 0x3ffff 0) ((reg vthread 2 1500).updMe (fun g => { g with tr := { g.tr with raw := true } }))) []
    (fun t => [t.me.rd 2, BitVec.ofNat 64 t.me.v.vl, t.me.v.vtype]) = [476, 100, 5] := by decide +kernel
theorem witness_vreshape : (Instr.vreshape 2 0).wf = true ∧ vthread.me.v.vq = [] ∧ vthread.me.tr.raw = false := by decide
theorem test_vreshape : after (exec (.vreshape 2 0) vthread) 0 (fun t => t.me.v.vregs) = 8 ∧
    after (exec (.vreshape 2 0) vthread) 0 (fun t => t.me.v.vtype) = 0 := by decide +kernel
theorem witness_vquad : onCaller.eng = callerId ∧ (onCaller.recOf 0).det = false ∧
    (∀ t : BitVec 2, (onCaller.engAt 0 (forked t)).running = false) ∧ (3 : BitVec 2).toNat ≠ (onCaller.instAt 0).quad := by decide
theorem witness_convoy_queued : mayEnter vthread [⟨.vadd, vf 31 2 3 0 0⟩, ⟨.vwait, vf 1 2 3 0 0⟩] := by unfold mayEnter; decide
/-- A convoy is in the thread's queue. -/
def behind : State := vthread.updMe (fun g => { g with v := { g.v with vq := [g.entry [⟨.vadd, vf 1 2 3 0 0⟩]] } })
theorem witness_vector_queued : loneOf (.vred (vf 31 2 3 0 0)) = some ⟨.vred, vf 31 2 3 0 0⟩ ∧ mayEnter behind [⟨.vred, vf 31 2 3 0 0⟩] ∧
    behind.me.v.vq ≠ [] := by unfold mayEnter; decide
theorem test_vred_holds : after (exec (.vred (vf 31 2 3 0 0)) behind) false (fun t => t.me.held 31) = true := by decide +kernel
/-- R414: with a VL of 0 the sum is the identity, +0, which lands at once. -/
theorem test_vred_none : after (exec (.vred (vf 31 2 3 0 0)) ((reg vthread 31 77).updMe (fun g => { g with v := { g.v with vl := 0 } }))) none
    (fun t => some (t.me.rd 31, t.me.held 31, t.me.v.vq.isEmpty)) = some (0, false, true) := by decide +kernel
theorem witness_abound_queued : vthread.eng ≠ callerId ∧ (30 : VReg).toNat % vtG vthread.me.vtypeNow = 0 ∧
    (30 : VReg).toNat + 2 * vtG vthread.me.vtypeNow ≤ vthread.me.vregsNow ∧ ((reg vthread 2 0x80).me.rd 2).toNat % 128 = 0 ∧
    (vthread.me.v.vq.filter (fun q => !q.isMark)).length < 16 := by decide

/-! ### Traps at issue -/

theorem witness_trap_free : trapFree onCaller ∧ trapFree onThread ∧ trapFree (user onCaller) ∧ trapFree boosted :=
  ⟨trapFree_of _ (by decide), trapFree_of _ (by decide), trapFree_of _ (by decide), trapFree_of _ (by decide)⟩
theorem witness_branch_trap : scalarTrap (reg onCaller 2 6) (.jr 2 0) 0x04 (wordN (6 * 4096 + 4)) ∧
    scalarTrap (reg onCaller 31 1) (.ret 0) 0x04 (wordN (4096 + 4)) := by
  simp only [scalarTrap, misaligned]; decide
theorem witness_access_trap : scalarTrap (reg onCaller 2 1) (.ld { byteLoad with width := 1, imm := 0 } 0) 0x04 (wordN (4096 + 2)) ∧
    scalarTrap (reg onCaller 9 4) (.amoAdd wideAmo 0) 0x04 (wordN (4 * 4096 + 8)) := by
  simp only [scalarTrap, misaligned, accRule]; decide
theorem witness_system_traps : scalarTrap onCaller (.trap 0xffff 0) 0x19 0xffff ∧ scalarTrap (user onCaller) (.eret 0) 0x03 (faultWord (.eret 0)) ∧
    scalarTrap onCaller (.eret 0) 0x01 (faultWord (.eret 0)) ∧ scalarTrap onCaller (.ueret 0) 0x01 (faultWord (.ueret 0)) ∧
    scalarTrap (user onCaller) (.unfreeze 1 2 0) 0x03 (faultWord (.unfreeze 1 2 0)) ∧
    scalarTrap (user onCaller) (.ident 1 7 0) 0x03 (faultWord (.ident 1 7 0)) ∧
    scalarTrap (reg onCaller 2 16) (.psample 2 0) 0x04 (wordN (16 * 4096 + 32)) := by
  simp only [scalarTrap, misaligned]; decide
theorem witness_control_register_trap : scalarTrap onCaller (.crRd 1 0x01 0) 0x01 (faultWord (.crRd 1 0x01 0)) ∧
    scalarTrap (user onCaller) (.crWr 1 0x11 0) 0x03 (faultWord (.crWr 1 0x11 0)) ∧
    scalarTrap onThread (.crRd 1 0x0d 0) 0x01 (faultWord (.crRd 1 0x0d 0)) := by
  simp only [scalarTrap, accRule, crOp]; decide
theorem witness_unit_traps : unitTrap onCaller (.barArrive 0 31 2 0) 0x01 (faultWord (.barArrive 0 31 2 0)) = False ∧
    unitTrap (reg onCaller 31 1) (.barArrive 0 31 2 0) 0x01 (faultWord (.barArrive 0 31 2 0)) ∧
    unitTrap (reg onCaller 2 32) (.launch 1 2 0) 0x04 (wordN (32 * 4096 + 64)) ∧
    unitTrap vthread (.vstrip 0 1 0) 0x01 (faultWord (.vstrip 0 1 0)) ∧
    unitTrap (reg onCaller 2 64) (.rdisp 2 false 0) 0x04 (wordN (64 * 4096 + 128)) ∧
    unitTrap claimed7 (.mclaimX 7 0) 0x01 (faultWord (.mclaimX 7 0)) ∧ unitTrap onCaller (.mreleaseW 15 0) 0x0f 0x10f ∧
    unitTrap onCaller (.scommit 0) 0x01 (faultWord (.scommit 0)) := by
  simp only [unitTrap, misaligned, tileMisaligned, claimOp, releaseOp, isSpec, tasksExist]
  refine ⟨?_, ?_, ?_, ?_, ?_, ?_, ?_, ?_⟩
  · simp; decide
  all_goals first | decide | exact ⟨by decide, by decide, by decide, .inl (by decide)⟩
theorem witness_barrier_operand : ¬ barOperand onCaller (barAt (onCaller.instAt 0) 0) 0 0 ∧
    ¬ barOperand onCaller (barAt (onCaller.instAt 0) 0) 0x02010001 2 ∧ (barAt (onCaller.instAt 0) 0).shut ≠ some onCaller.clk := by
  unfold barOperand; decide
theorem witness_exclusive_abort : unitTrap (inTask.updMe (fun g => { g with task := some { task0 with excl := true } })) (.sabort 0) 0x01
    (faultWord (.sabort 0)) := by
  simp only [unitTrap, tileMisaligned, claimOp, releaseOp, isSpec]
  exact ⟨trivial, trivial, trivial, .inr ⟨_, 0, rfl, rfl, by decide, rfl⟩⟩

/-! ### Vector elements -/

/-- A vector thread with 4 elements of i32, whose v2 holds the largest number in element 1. -/
def vfull : State := (vthread.updCore 0 (fun k => k.vput vthread.me.vmap 2 32 1 0x7fffffff)).updMe (fun g => { g with v := { g.v with vl := 4 } })
theorem witness_vector_elements : elemReady vfull 0 0 .vadds (vf 1 2 0 2 5) 5 ∧ loneOf (.vadds (vf 1 2 0 2 5)) = some ⟨.vadds, vf 1 2 0 2 5⟩ ∧
    vfull.me.v.vq = [] := by
  unfold elemReady placed groupFits; decide +kernel
theorem test_vadds_saturates : after (exec (.vadds (vf 1 2 3 0 0)) (after (exec (.vadds (vf 3 2 2 0 0)) vfull) vfull id)) []
    (fun t => [elemAt t 0 0 1 32 0, elemAt t 0 0 1 32 1, elemAt t 0 0 3 32 1, t.me.vflags.toNat]) = [0, 0x7fffffff, 0x7fffffff, 0x20] := by
  decide +kernel
theorem test_vsub_form : after (exec (.vsub (vf 1 2 4 1 0)) (reg vfull 4 0x100000002)) [] (fun t => [elemAt t 0 0 1 32 0, elemAt t 0 0 1 32 1]) =
    [0xfffffffe, 0x7ffffffd] := by decide +kernel
theorem test_vid : after (exec (.vid (vf 1 0 0 0 0)) vfull) [] (fun t => [elemAt t 0 0 1 32 0, elemAt t 0 0 1 32 3, elemAt t 0 0 1 32 4]) =
    [0, 3, 0] := by decide +kernel
/-- One `vid` of 33 elements in the queue of thread 0. -/
def vidWaits : State := (vfull.updMe (fun g => { g with v := { g.v with vl := 33 } })).updMe (fun g => { g with v := { g.v with vq := [g.entry [⟨.vid, vf 1 0 0 0 0⟩]] } })
theorem witness_lanes_turn : lanesTurn vidWaits 0 0 := ⟨by decide, fun h => absurd h.2 (by decide), fun h hh => absurd hh (Nat.not_lt_zero _)⟩
theorem witness_element_group : elemReady vidWaits 0 0 .vid (vf 1 0 0 0 0) 5 ∧
    (vidWaits.instAt 0).live = true ∧ (vidWaits.instAt 0).ending = false ∧ (vidWaits.engAt 0 0).running = true ∧
    (vidWaits.launchAt (vidWaits.instAt 0).launch).stopping = false ∧ vidWaits.haltedAt 0 = false ∧ (vidWaits.coreAt 0).preReq = false ∧
    (vidWaits.engAt 0 0).v.vq.length = 1 ∧ (∀ d, d ≠ 0 → (vidWaits.engAt 0 d).v.vq = []) := by
  unfold elemReady placed groupFits; decide +kernel
theorem test_group_issue : after (exec (.elementGroupIssue 0 0) vidWaits) [] (fun t => [elemAt t 0 0 1 32 31, elemAt t 0 0 1 32 32,
    ((t.engAt 0 0).v.vq.map (fun q => q.prog)).sum]) = [31, 0, 32] := by decide +kernel

/-! ### Steps of the other agents: states in which each is due -/

theorem witness_twait_expiry : coreStepPre fullBarrier (.barTwaitExpiry 0 callerId) := by
  simp only [coreStepPre]; exact ⟨by decide, by decide, 3, 1, 5, by decide⟩
/-- The head of thread 0's queue waits under a limit that has run out. -/
def overdue (op : VOp) : State := { vthread.updMe (fun g => { g with
  v := { g.v with vq := [{ g.entry [⟨op, vf 1 2 3 0 0⟩] with expiry := some 8 }] } }) with clk := 9 }
theorem witness_limit_expiries : coreStepPre (overdue .vwait) (.vwaitExpiry 0 0) ∧ coreStepPre (overdue .vldIpb) (.feedLimitExpiry 0 0) := by
  simp only [coreStepPre, limitOver]
  exact ⟨⟨_, [], rfl, by decide, ⟨8, rfl, by decide⟩, rfl, by decide, by decide⟩,
    _, [], rfl, by decide, ⟨8, rfl, by decide⟩, rfl, by decide, by decide⟩
theorem witness_share_window : coreStepPre { onCaller with clk := 256 } (.shareWindow 0) := by simp only [coreStepPre]; decide
theorem test_share_window : after (exec (.shareWindow 0) { vthread with clk := 256 }) 0 (fun t => (t.engAt 0 0).v.quota) = 1024 := by decide +kernel
theorem witness_sop_wait : coreStepPre (inTask.updMe (fun g => { g with sopWait := some { kind := 1, hash := 2, on := [] } })) (.sopWaitComplete 0 callerId) := by
  simp only [coreStepPre]; exact ⟨_, rfl, by decide +kernel⟩
/-- An abort of the task stands at a point. -/
def aborting (p : AbortAt) : State := inTask.updMe (fun g => { g with
  task := some { task0 with abort := some { cause := 3, kind := 1, hash := 7, at_ := p, pc := 0x1004, seq := 0, lr := 0x44 } } })
theorem witness_abort : coreStepPre (aborting .aimed) (.speculationAbort 0 callerId) ∧ coreStepPre (aborting .popping) (.speculationAbort 0 callerId) := by
  simp only [coreStepPre, abortAt, quiet]
  exact ⟨⟨_, _, .inl ⟨rfl, rfl, rfl, by decide, by decide, by decide, by decide, by decide, by decide, by decide⟩⟩,
    _, _, .inr ⟨⟨rfl, rfl, rfl, by decide, by decide, by decide, by decide, by decide, by decide, by decide⟩,
      by decide, by decide⟩⟩
theorem test_abort_lands : after (exec (.speculationAbort 0 callerId) (aborting .popping)) []
    (fun t => [t.me.pc, t.me.rd 31, t.me.rd 9 >>> 62, if t.me.nextExcl then 1 else 0]) = [0x5000, 0x44, 3, 1] := by decide +kernel
theorem witness_trap_entry : coreStepPre (onCaller.updMe (fun g => { g with
    traps := [{ code := 9, info := 0, epc := 0x1004, src := 1, conv := true, seq := 0, acc := none, fired := 0, elem := none }] })) (.trapEntry 0 callerId) := by
  simp only [coreStepPre]; exact ⟨_, by decide, by decide, rfl, by decide, by decide, by decide⟩
/-- A stream waits in the list of port 3. -/
def listed : State := onCaller.updInst 0 (fun n => { n with ports := n.ports.set 3 { n.ports[3] with list := [{ strm with blk := [] }] } })
theorem witness_stream_start : coreStepPre listed (.streamStart 0 3) := by
  simp only [coreStepPre]; exact ⟨_, [], by decide, by decide, by decide, rfl, rfl, fun _ => ⟨_, rfl⟩⟩
theorem witness_stream_end : coreStepPre (streaming { strm with landed := 10 } onCaller) (.streamEnd 0 3) ∧
    coreStepPre (streaming { strm with susp := true, landed := 10, past := true } onCaller) (.streamEnd 0 3) ∧
    coreStepPre (streaming { strm with err := 6 } onCaller) (.streamEnd 0 3) := by
  simp only [coreStepPre]
  exact ⟨⟨_, rfl, by decide, by decide, .inl (by decide), by decide, by decide, by decide⟩,
    ⟨_, rfl, by decide, by decide, .inr (.inl (by decide)), by decide, by decide, by decide⟩,
    _, rfl, by decide, by decide, .inr (.inr (by decide)), by decide, by decide, by decide⟩
theorem test_stream_suspended : after (exec (.streamEnd 0 3) (streaming { strm with susp := true, landed := 10, past := true } onCaller)) none
    (fun t => some ((t.portAt 0 3).list.length, (t.engAt 0 callerId).rd 9)) = some (1, 0x8000000a0000000a) := by decide +kernel
theorem test_stream_end : after (exec (.streamEnd 0 3) (streaming { strm with landed := 10 } onCaller)) none (fun t => (t.portAt 0 3).last) =
    some 0x4000000a0000000a := by decide +kernel
/-- A Reel command whose one pass has ended. -/
def reeled : State := onCaller.updInst 0 (fun n => { n with
  tqs := n.tqs.set 0 { n.tqs[0] with ents := [{ ent (.mreel (prod 9 0 0 true 0) 0) with begun := true, done := 1 }] } })
/-- Its arrival on another member's barrier 63 is still to come. -/
def owing : State := onCaller.updCore 0 (fun k => { k with gangArr := [(1, 0, 63)] })
theorem witness_reel_complete : coreStepPre reeled (.reelComplete 0) ∧ coreStepPre owing (.reelComplete 0) := by
  simp only [coreStepPre]
  exact ⟨⟨by decide, .inl ⟨_, prod 9 0 0 true 0, 0, rfl, rfl, rfl, by decide, rfl, by decide⟩⟩, by decide,
    .inr ⟨0, 63, by decide, by decide, by decide⟩⟩
theorem test_reel_arrives : after (exec (.reelComplete 0) owing) 0 (fun t => (barAt (t.instAt 0) 63).arr) = 1 := by decide +kernel

/-! Routing and pools. -/

/-- Die 0 is changed. -/
def die0 (f : Die → Die) (s : State) : State := s.updDie 0 f
/-- An entry of a Factor's gate: one expert, its logit and its record at address 0. -/
def gate0 : GateEnt := { bytes := List.replicate 32 0, launch := 1, core := 0, got := [], puts := [], served := false }
/-- It is the oldest of die 0. -/
def gated (g : GateEnt) (s : State) : State := die0 (fun d => { d with gate := [g] }) s
/-- Its logit has been read. -/
def gateRead : GateEnt := { gate0 with got := [(0, [0, 0])] }
/-- Its records are to be written. -/
def gateWrite : GateEnt := { gate0 with served := true, puts := [{ va := 0, pa := 0, bytes := [1], whole := false }] }
/-- A malformed entry. -/
def gateBad : GateEnt := { gate0 with bytes := List.replicate 32 255 }
theorem witness_gate_entry : routeStepPre (gated gate0 onCaller) (.factorGateEntry 0) ∧ routeStepPre (gated gateWrite onCaller) (.factorGateEntry 0) ∧
    routeStepPre (gated { gate0 with served := true } onCaller) (.factorGateEntry 0) := by simp only [routeStepPre]; decide
/-- The tables at address 0 map the first GiB to itself. -/
def mapped (s : State) : State := { s with mem := (s.mem.writeBytes 0 [0x1d, 0x20]).writeBytes 0x2000 [0x1f] }
theorem witness_gate_clauses : gateBad.bad probeLaunch = true ∧ gateRead.bad probeLaunch = false ∧
    (match (mapped onCaller).factorNext gateRead with | .ok (.write _) => true | _ => false) = true ∧
    (match ({ onCaller with chanOut := BitVec.allOnes 384 } : State).factorNext gateRead with | .error (.freeze _ _, _) => true | _ => false) = true := by
  decide +kernel
theorem test_gate_entry : after (exec (.factorGateEntry 0) (gated gateBad onCaller)) [] (fun t => [t.dies[(0 : Fin 8)].ferr,
    after (exec (.factorGateEntry 0) t) 9 (fun u => u.dies[(0 : Fin 8)].gate.length)]) = [1, 0] := by decide +kernel
/-- A row of generation 6 on its way to die 0. -/
def row6 (combine : Bool) : Row := { die := 0, port := none, beats := 0, combine := combine, gen := 6, launch := 1, core := 0, xbase := 0,
                                     drow := 0, spkg := 0, word0 := 0, chunks := 1, off := 0, total := 128,
                                     data := List.replicate 128 0, scales := [], landing := false, got := [], puts := [], xputs := [] }
/-- It is on its way. -/
def coming (b : Bool) : State := { onCaller with rows := [row6 b] }
/-- It is written whole. -/
def written (b : Bool) : State := { onCaller with rows := [{ row6 b with landing := true }] }
theorem witness_rows : routeStepPre (coming false) (.rowArrival 0) ∧ routeStepPre (coming true) (.combineRowArrival 0) := by
  simp only [routeStepPre, rowDue]
  exact ⟨⟨row6 false, ⟨rfl, by decide, by decide⟩, rfl⟩, row6 true, 0, ⟨rfl, by decide, by decide⟩, rfl, rfl, .inr ⟨rfl, rfl, by decide +kernel⟩⟩
theorem witness_rows_written : routeStepPre (written false) (.rowArrival 0) ∧ routeStepPre (written true) (.combineRowArrival 0) := by
  simp only [routeStepPre, rowDue]
  exact ⟨⟨_, ⟨rfl, by decide, by decide⟩, rfl⟩, _, 0, ⟨rfl, by decide, by decide⟩, rfl, rfl, .inl ⟨rfl, rfl, rfl⟩⟩
/-- Generation 6 takes rows, two of them. -/
def opened (s : State) : State := { s with gens := [{ num := 6, st := .opened, base := 0x4000, nrow := 2, launch := 1, freed := 0, bitmap := some 0,
                                                      drained := 0, marked := 0 }] }
theorem witness_rows_taken : (opened (coming true)).taking 6 ≠ none ∧ (coming true).taking 6 = none ∧
    (match (mapped (opened (coming true))).engMap ((opened (coming true)).launchAt 1) permW 0x4000 128 with | .ok _ => true | _ => false) = true := by
  decide +kernel
theorem test_stale_row : after (exec (.rowArrival 0) (coming false)) 0 (fun t => t.dies[(0 : Fin 8)].stale + 10 * t.rows.length) = 1 ∧
    after (exec (.combineRowArrival 0) (coming true)) 0 (fun t => t.dies[(0 : Fin 8)].stale + 10 * t.rows.length) = 1 := by decide +kernel
/-- Port 0 is up. -/
def portUp (s : State) : State := { s with ports := s.ports.set 0 { s.ports[0] with up := true } }
theorem witness_drain_marker : routeStepPre (portUp onCaller) (.drainMarkerArrival 0 6) := by simp only [routeStepPre]; decide +kernel
theorem witness_pool : routeStepPre onCaller (.kvPoolEnable 15 0x4000) ∧ routeStepPre onCaller (.kvPoolDisable 15) ∧
    routeStepPre { onCaller with parts := onCaller.parts.set 0 { onCaller.parts[0] with pool := { Pool.reset with busy := true, en := true } } }
      (.kvPoolDisableComplete 0) := by simp only [routeStepPre]; decide +kernel
theorem test_pool_bad : after (exec (.kvPoolEnable 0 0x4000) (withPart onCaller)) false (fun t => t.parts[(0 : Fin 16)].pool.err) = true := by decide +kernel

/-! Launches. -/

theorem witness_pre_emption : launchStepPre (onCaller.updCore 0 (fun k => { k with preReq := true })) (.preEmption 0) := by
  unfold launchStepPre; decide +kernel
/-- The launch is assigned to core 3. -/
def assigned : State := onCaller.updCore 3 (fun k => { k with next := some 1 })
theorem witness_instance_start : launchStepPre assigned (.instanceStart 3) := by unfold launchStepPre; exact ⟨1, by decide +kernel⟩
theorem test_instance_start : after (exec (.instanceStart 3) assigned) [] (fun t => [(t.engAt 3 callerId).regs[2], if (t.instAt 3).live then 1 else 0]) =
    [3, 1] := by decide +kernel
/-- The instance of core 0 stands parked and may resume. -/
def mayResume : State := onCaller.updCore 0 (fun k => { k with
  parked := k.inst, inst := Inst.reset, resumeReq := true, imgCrc := some (crc32c k.image) })
theorem witness_instance_resume : launchStepPre mayResume (.instanceResume 0) := by
  unfold launchStepPre
  refine ⟨rfl, rfl, rfl, by decide, rfl, by decide, ?_⟩
  have h : ∀ k : Core, k.imgCrc = some (crc32c k.image) → k.park.bad blkS = [] → k.imageOk = true := by
    intro k h1 h2; simp [Core.imageOk, h1, h2, poisoned]
  exact h _ rfl rfl
/-- The Caller has halted. -/
def halted : State := onCaller.updMe (fun g => { g with wait := .halting })
theorem witness_instance_end : launchStepPre halted (.instanceEnd 0) := by unfold launchStepPre; decide +kernel
theorem witness_launch_end : launchStepPre (after (exec (.instanceEnd 0) halted) onCaller id) (.launchEnd 1) := by
  unfold launchStepPre; decide +kernel
theorem test_launch_end : after (exec (.instanceEnd 0) halted) [] (fun t => after (exec (.launchEnd 1) t) [] (fun u => [(u.launchAt 1).st == .ended,
    (u.instAt 0).live])) = [true, false] := by decide +kernel
/-- Two submissions wait. -/
def submitted : State := { withPart onCaller with subs := [
  { port := none, core := none, parent := 0, addr := 0, recBytes := some (List.replicate 64 0), rd := 0, seq := 0, tag := none, at_ := 5 },
  { port := some 3, core := none, parent := 0, addr := 0x2000, recBytes := none, rd := 0, seq := 0, tag := none, at_ := 4 }], clk := 6 }
theorem witness_submissions : launchStepPre onCaller (.launchPortSubmit 0 0x2040) ∧
    launchStepPre { onCaller with hub := { onCaller.hub with boot := .running } } (.launchPortSubmit 15 0x2040) ∧
    launchStepPre { onCaller with round := 1 } .placementRound := by unfold launchStepPre; decide +kernel
theorem witness_submission_taken : launchStepPre submitted .submissionTake := by
  unfold launchStepPre; exact ⟨by decide, by decide, by decide, by decide, _, List.mem_cons_self, by decide⟩
theorem test_bad_record : after (exec .submissionTake submitted) [] (fun t => [t.hub.lres[3], t.launches.length, t.subs.length]) = [2, 1, 1] := by
  decide +kernel

/-! Requests and repair. -/

/-- The runtime runs. -/
def runtime (s : State) : State := { s with hub := { s.hub with boot := .running, mboxOn := true }, mbox := { s.mbox with st := 1 } }
/-- A request of the host is at hand: the operation, tag 9, then the operands. -/
def asks (op : Byte) (more : List Byte) : State :=
  let s := runtime onCaller
  { s with mbox := { s.mbox with reqs := [{ by_ := .host, bytes := [op, 0, 0, 0, 9] ++ List.replicate 11 0 ++ more }] } }
theorem asks_asked : ∀ op ∈ ([1, 2, 3, 4, 5] : List Byte), asked (asks op (List.replicate 112 0)) op.toNat
    { by_ := .host, bytes := [op, 0, 0, 0, 9] ++ List.replicate 11 0 ++ List.replicate 112 0 } [] := by unfold asked; decide +kernel
theorem witness_requests : requestPre (asks 1 (List.replicate 112 0)) .submitLaunch ∧ requestPre (asks 2 (List.replicate 112 0)) .cancelLaunch ∧
    requestPre (asks 3 (List.replicate 112 0)) (.attest true) ∧ requestPre (asks 4 (List.replicate 112 0)) (.configurationRecord true) ∧
    requestPre (asks 5 (List.replicate 112 0)) (.runtimeImage false) := by
  unfold requestPre
  exact ⟨⟨⟨_, _, asks_asked 1 (by decide)⟩, by decide⟩, ⟨_, _, asks_asked 2 (by decide)⟩, ⟨_, _, asks_asked 3 (by decide)⟩, ⟨_, _, asks_asked 4 (by decide)⟩,
    _, _, asks_asked 5 (by decide)⟩
theorem witness_mailbox_poll : requestPre { runtime onCaller with mbox := { (runtime onCaller).mbox with reqpi := 1 } } .mailboxPoll := by
  unfold requestPre; decide +kernel
theorem witness_response_release : requestPre { onCaller with mbox := { onCaller.mbox with waiting := [List.replicate 32 1] } } .responseRelease := by
  unfold requestPre; decide +kernel
theorem witness_birotte_request : requestPre { runtime onCaller with ports := onCaller.ports.set 31 { onCaller.ports[31] with
    reqs := [(4, List.replicate 128 0)] } } (.birotteRequest 31) := by unfold requestPre; decide +kernel
theorem witness_repair : requestPre onCaller (.retireCore 319) ∧ ¬ requestPre onCaller (.retireCore 320) ∧ requestPre onCaller (.retireLaneGroup 1279) ∧
    requestPre onCaller (.retireChannel 383) ∧ requestPre onCaller (.retirePort 31) ∧ requestPre onCaller (.repairBadOperation 7 0) ∧
    requestPre onCaller (.repairBadOperation 0 0) := by unfold requestPre repairFree; decide +kernel
theorem witness_partition_reset : requestPre (withPart onCaller) (.resetPartition 0) ∧ requestPre (withPart onCaller) (.reImagePartition 0) := by
  unfold requestPre repairFree; exact ⟨⟨by decide, by decide, part4, rfl⟩, by decide, by decide, part4, rfl⟩
theorem witness_pending_retirement : requestPre (State.reset.updCore 5 (fun k => { k with retirePend := true })) (.pendingCoreRetirement 5) := by
  unfold requestPre; decide +kernel
theorem witness_reset_complete : requestPre { State.reset with parts := State.reset.parts.set 0 { State.reset.parts[0] with
    pdef := some part4, resetting := some true } } (.partitionResetComplete 0) := by
  unfold requestPre; exact ⟨true, part4, rfl, rfl, by decide +kernel⟩
theorem test_retire_core : after (exec (.retireCore 319) onCaller) [] (fun t => [(t.coreAt 319).retired, t.hub.repBusy]) = [true, false] := by
  decide +kernel
theorem test_retire_held : after (exec (.retireCore 0) onCaller) 9 (fun t => t.hub.repStatus) = 1 := by decide +kernel
theorem test_repair_bad : after (exec (.repairBadOperation 7 1) onCaller) 9 (fun t => t.hub.repStatus) = 3 := by decide +kernel

/-! The hub. -/

theorem witness_hub_steps : hubStepPre onCaller (.healthWord 7) ∧ hubStepPre onCaller .notificationPop ∧ hubStepPre onCaller (.trcWrite 0 1) ∧
    hubStepPre onCaller .debugHalt ∧ hubStepPre onCaller .debugResume ∧ hubStepPre onCaller (.powerEstimate 9) ∧
    hubStepPre onCaller (.powerFail true) := by unfold hubStepPre; decide
theorem witness_health : hubStepPre { onCaller with hub := { onCaller.hub with switchAt := some 0, health := 1 } } .healthTimeout ∧
    hubStepPre { onCaller with clk := 8500000000, hub := { onCaller.hub with switchAt := some 0 } } .healthTimeout := by
  unfold hubStepPre; exact ⟨⟨0, rfl, by decide⟩, 0, rfl, by decide⟩
theorem witness_registers : hubStepPre onCaller (.unfreezeRegister (engMaster 319 callerId)) ∧
    hubStepPre onCaller (.registerWrite (0xf000001000000 + 0x1000 * 319 + 8) 8 0) := by
  unfold hubStepPre; exact ⟨⟨rfl, 319, callerId, rfl⟩, rfl, 319, by decide⟩
theorem witness_split : hubStepPre (onCaller.updCore 1 (fun k => { k with splitNew := some 0x08081010 })) (.splitApply 1) := by
  unfold hubStepPre; decide +kernel
/-- Die 2 is hot. -/
def hot : State := { onCaller with hub := { onCaller.hub with temps := onCaller.hub.temps.set 2 110, hots := onCaller.hub.hots.set 2 true } }
theorem witness_thermal : hubStepPre onCaller (.thermalThrottleEnter 2 105) ∧ ¬ hubStepPre onCaller (.thermalThrottleEnter 2 104) ∧
    hubStepPre hot (.thermalThrottleLeave 2 104) ∧ hubStepPre hot (.thermalHalt 2 115) ∧ ¬ hubStepPre hot (.thermalHalt 2 114) := by
  unfold hubStepPre; exact ⟨by decide, by decide, by decide, ⟨by decide, .inl (by decide)⟩, fun h => absurd h.1 (by decide)⟩
theorem test_thermal_halt : after (exec (.thermalHalt 2 115) hot) [] (fun t => t.hub.notifs.map (fun n => (n.kind, n.addr))) = [(7, 0x373)] := by
  decide +kernel
theorem test_notification_pop : after (exec .notificationPop hot) 1 (fun t => t.hub.popped) = 0 := by decide +kernel
theorem test_trc_mask : after (exec (.trcWrite 0 0xffffffffffffffff) onCaller) 0 (fun t => (t.coreAt 0).trc) = 0xc00fffffffffffff := by decide +kernel

/-! Links: frames of class 6 and 7 to package 0xffff, their check computed outside the model. -/

/-- A data frame with nothing in it. -/
def dataFrame : List Byte := bytesLE 64 0xee8285030000000000000000000000000000000000000000000000000000000000000000ffffffff000000000001ffff0610b588000000000000000000000000
/-- An acknowledgement of sequence number 0. -/
def ackFrame : List Byte := bytesLE 64 0x40253ba000000000000000000000000000000000000000000000000000000000000000000000000000000000001ffff0611b588000000000000000000000000
/-- A grant of 9 beats. -/
def creditFrame : List Byte := bytesLE 64 0xa049ab970000000000000000000000000000000000000000000000000000000000000009ffffffff000000000001ffff0712b588000000000000000000000000
/-- What each says. -/
def said (ty : Nat) (cls : Fin 8) (ack : BitVec 32) (credit : Nat) : FrameIn :=
  { ty := ty, cls := cls, dpkg := 0xffff, spkg := 1, seq := 0, ack := ack, credit := credit, payload := [] }
/-- A check is computed piece by piece. -/
theorem crc_append (a b : List Byte) (p c : BitVec 32) : crcFrom p c (a ++ b) = crcFrom p (crcFrom p c a) b := by
  induction a generalizing c with
  | nil => rfl
  | cons x xs ih => exact ih _
theorem data_said : parseFrame 0x88b5 dataFrame = some (said 0 6 0xffffffff 0) := by
  have h : crc32e (dataFrame.take (dataFrame.length - 4)) = 0xee828503 := by
    rw [show dataFrame.take (dataFrame.length - 4) = cut dataFrame 0 20 ++ (cut dataFrame 20 20 ++ cut dataFrame 40 20) from by decide +kernel, crc32e, crc_append, crc_append,
      show crcFrom 0xedb88320 0xffffffff (cut dataFrame 0 20) = 0xf7a96e7c from by decide +kernel,
      show crcFrom 0xedb88320 0xf7a96e7c (cut dataFrame 20 20) = 0x5c5615f from by decide +kernel]
    decide +kernel
  unfold parseFrame; simp only [h]; decide +kernel
theorem ack_said : parseFrame 0x88b5 ackFrame = some (said 1 6 0 0) := by
  have h : crc32e (ackFrame.take (ackFrame.length - 4)) = 0x40253ba := by
    rw [show ackFrame.take (ackFrame.length - 4) = cut ackFrame 0 20 ++ (cut ackFrame 20 20 ++ cut ackFrame 40 20) from by decide +kernel, crc32e, crc_append, crc_append,
      show crcFrom 0xedb88320 0xffffffff (cut ackFrame 0 20) = 0x3cf5bdd9 from by decide +kernel,
      show crcFrom 0xedb88320 0x3cf5bdd9 (cut ackFrame 20 20) = 0xf19c7362 from by decide +kernel]
    decide +kernel
  unfold parseFrame; simp only [h]; decide +kernel
theorem credit_said : parseFrame 0x88b5 creditFrame = some (said 2 7 0xffffffff 9) := by
  have h : crc32e (creditFrame.take (creditFrame.length - 4)) = 0xa049ab97 := by
    rw [show creditFrame.take (creditFrame.length - 4) = cut creditFrame 0 20 ++ (cut creditFrame 20 20 ++ cut creditFrame 40 20) from by decide +kernel, crc32e, crc_append, crc_append,
      show crcFrom 0xedb88320 0xffffffff (cut creditFrame 0 20) = 0x8701e6c7 from by decide +kernel,
      show crcFrom 0xedb88320 0x8701e6c7 (cut creditFrame 20 20) = 0x28ad80af from by decide +kernel]
    decide +kernel
  unfold parseFrame; simp only [h]; decide +kernel
theorem witness_frames : frameAt (portUp onCaller) 0 0 dataFrame (said 0 6 0xffffffff 0) ∧
    frameAt (portUp onCaller) 0 1 ackFrame (said 1 6 0 0) ∧ frameAt (portUp onCaller) 0 2 creditFrame (said 2 7 0xffffffff 9) :=
  ⟨⟨by decide, by decide, data_said, rfl⟩, ⟨by decide, by decide, ack_said, rfl⟩, by decide, by decide, credit_said, rfl⟩
theorem test_short_frame : parseFrame 0x88b5 (dataFrame.take 63) = none ∧ parseFrame 0x88b6 dataFrame = none := by decide +kernel
/-- A frame of one beat, sent or not. -/
def beat (sent : Bool) : TxFrame := { die := 8, seq := 0, dpkg := 2, payload := List.replicate 64 0, sentAt := 0, sent := sent }
/-- It waits in class 6 of port 0. -/
def framing (sent : Bool) : State := { onCaller with
  clk := 17000
  ports := onCaller.ports.set 0 { onCaller.ports[0] with
    up := true
    cls := onCaller.ports[0].cls.set 6 { TClass.reset with credit := 1, frames := [beat sent] } } }
theorem witness_frame_send : linkStepPre (framing false) (.dataFrameSend 0 6) := by
  unfold linkStepPre; exact ⟨by decide, by decide, by decide, beat false, rfl, by decide, by decide⟩
theorem witness_resend : linkStepPre (framing true) (.resendTimeout 0 6) := by
  unfold linkStepPre; exact ⟨by decide, by decide, by decide, beat true, [], rfl, rfl, by decide⟩
/-- Boot stands at a point. -/
def booting (b : BootSt) (s : State) : State := { s with hub := { s.hub with boot := b } }
theorem witness_come_up : linkStepPre (booting .running onCaller) (.portComeUp 31) ∧ linkStepPre (booting (.step 5) onCaller) (.portComeUp 0) ∧
    linkStepPre (booting (.fetch 2 [] 0) onCaller) (.portComeUp 31) := by
  unfold linkStepPre
  exact ⟨⟨by decide, by decide, (fun n h => by cases h), .inr (.inl rfl)⟩,
    ⟨by decide, by decide, (fun n h => by cases h), .inr (.inr (.inr ⟨.inl rfl, by decide⟩))⟩,
    by decide, by decide, (fun n h => by cases h), .inr (.inr (.inr ⟨.inr ⟨_, _, rfl⟩, by decide⟩))⟩
theorem witness_links : linkStepPre { portUp onCaller with clk := 8500 } (.keepAlive 0) ∧
    linkStepPre (portUp onCaller) (.keepAliveReceipt 0) ∧ linkStepPre { portUp onCaller with clk := 68000 } (.peerDown 0) ∧
    ¬ linkStepPre { portUp onCaller with clk := 67999 } (.peerDown 0) ∧
    linkStepPre { onCaller with cxl := onCaller.cxl.set 7 (some 4096) } (.cxlSurpriseRemoval 7) := by
  unfold linkStepPre; decide +kernel
theorem witness_edges : linkStepPre onCaller (.ucieRetrain 0 1) ∧ linkStepPre onCaller (.ucieRetrainingEnd 1 0) ∧
    linkStepPre { onCaller with edges := [(0, 1)] } (.ucieRetrainingFailure 1 0) := by
  unfold linkStepPre; exact ⟨⟨(0, 1), by decide⟩, ⟨(0, 1), by decide⟩, (0, 1), by decide, by decide⟩
/-! Boot. -/

theorem witness_boot : bootStepPre (booting (.step 1) State.reset) .bootSequence ∧ bootStepPre (booting (.step 6) State.reset) .bootSequence ∧
    bootStepPre { booting .enrol State.reset with clk := 850000000 } .enrolmentReport := by
  unfold bootStepPre; exact ⟨⟨by decide, .inl ⟨1, by decide⟩⟩, ⟨by decide, .inl ⟨6, by decide⟩⟩, by decide⟩
theorem witness_boot_fetch : bootStepPre (portUp { booting (.fetch 2 [] 0) State.reset with clk := 850000 }) .bootRequestRetry ∧
    bootStepPre (portUp { booting (.fetch 2 [] 0) State.reset with clk := 25500000000 }) .bootFetchRetry := by
  unfold bootStepPre; exact ⟨⟨by decide, by decide, by decide, 2, [], 0, rfl⟩, by decide, by decide, .inr ⟨[], 0, rfl⟩⟩
/-- A boot message of a kind has arrived on port 0. -/
def message (kind : Byte) (b : BootSt) : State := { booting b State.reset with ports := State.reset.ports.set 0 { State.reset.ports[0] with
  boots := [[0x56, 0x58, 0x42, 0x54, kind, if kind == 2 then 1 else 0] ++ List.replicate 58 0] } }
theorem witness_boot_messages : bootStepPre (message 2 (.fetch 1 [] 0)) (.imageData 0) ∧ bootStepPre (message 4 (.recovery 2)) (.recordOffer 0) := by
  unfold bootStepPre
  exact ⟨⟨by decide, _, [], 1, [], 0, rfl, by decide, by decide, rfl⟩, by decide, _, [], 2, rfl, by decide, by decide, rfl⟩
theorem test_boot_enrols : after (exec .bootSequence State.reset) (.recovery 1) (fun t => t.hub.boot) = .enrol := by decide +kernel

/-! Landing entries, routing commands and KV commands. -/

/-- A token row of generation 6 whose X slot is claimed has read its landing entry: `w1` is the entry's second word. -/
def judged (w1 : Nat) : State := { mapped (opened (after (exec (.mclaimX 0 0) onCaller) onCaller id)) with
  rows := [{ row6 false with got := [(0x4000, bytesLE 8 0), (0x4008, bytesLE 8 w1)] }] }
theorem witness_row_judged : [0, 0x10000006, 0x10010006, 0x20000000].all (fun w1 =>
    (judged w1).taking 6 != none && (judged w1).instFor 1 0 == some false && (judged w1).rowFits 0 false (row6 false) &&
      ((judged w1).gens.all (fun g => !(judged w1).entryTaken 0 g (row6 false))) && !(judged w1).guarded ((judged w1).launchAt 1) 0x4000 16 &&
      (match (judged w1).engMap ((judged w1).launchAt 1) (permR + permW) 0x4000 16 with | .ok ps => ps == [(0x4000, 0x4000, 16)] | .error _ => false) &&
      (match readSoFar [(0x4000, bytesLE 8 0), (0x4008, bytesLE 8 w1)] (unitsOf 8 16 0x4000 16) with
        | .ok old => fieldLE old 8 8 == w1 | .error _ => false)) = true := by decide +kernel
theorem test_row_lands : [0, 0x10000006, 0x10010006, 0x20000000].map (fun w1 => after (exec (.rowArrival 0) (judged w1)) []
    (fun t => (t.rows.map (fun r => if r.landing then 100 else 10)) ++ [t.dies[(0 : Fin 8)].dup, t.dies[(0 : Fin 8)].conflict, t.dies[(0 : Fin 8)].refused])) =
    [[100, 0, 0, 0], [1, 0, 0], [0, 1, 0], [0, 0, 1]] := by decide +kernel
/-- A row lands: a unit of G is left, or one of X. -/
def landingRow (puts : List Put) (xputs : List (Nat × List Byte)) : State :=
  { judged 0 with rows := [{ row6 false with landing := true, puts := puts, xputs := xputs }] }
theorem witness_row_units : (landingRow [{ va := 0x4000, pa := 0x4000, bytes := [7], whole := false }] []).gen 6 ≠ none ∧
    (landingRow [] [(0, [7])]).gen 6 ≠ none ∧ (landingRow [] [(0, [7])]).instFor 1 0 = some false ∧
    (landingRow [] []).putHit ((landingRow [] []).launchAt 1) { va := 0x4000, pa := 0x4000, bytes := [7], whole := false } = false := by decide +kernel
theorem witness_combine_row : (mapped (opened (coming true))).guarded ((mapped (opened (coming true))).launchAt 1) 0x4000 128 = false ∧
    (0 : Nat) < 64 * 2 ∧ poisoned (mapped (opened (coming true))).poison 32 0x4000 128 = false ∧
    poisoned ({ mapped (opened (coming true)) with poison := [0x4060] } : State).poison 32 0x4000 128 = true := by decide +kernel
theorem witness_factor_read : (match (mapped onCaller).factorNext gate0 with
    | .ok (.read x) => (match (mapped onCaller).getG ((mapped onCaller).launchAt 1) [] x with | .ok _ => true | .error _ => false) | _ => false) = true ∧
    (mapped onCaller).putHit ((mapped onCaller).launchAt 1) { va := 0, pa := 0, bytes := [1], whole := false } = false := by decide +kernel

/-- The head of tile queue 0 with its operands. -/
def headed (i : Instr) (a b c : Word) (begun : Bool) (prog : Nat) (s : State) : State := s.updInst 0 (fun n => { n with
  tqs := n.tqs.set 0 { n.tqs[0] with ents := [{ ent i with a := a, b := b, c := c, begun := begun, prog := prog }] } })
theorem witness_rtpush : ((headed (.rtpush 2 false 0) 0x7ffe0 0 0 false 0 onCaller).tqHead 0 0).isSome = true ∧
    ((headed (.rtpush 2 false 0) 0xffe0 0 0 false 0 onCaller).tqHead 0 0).all (fun x => onCaller.tqMay 0 x 15 false) = true ∧
    (match onCaller.readBlock 0 false 0xffe0 32 with | .ok bs => bs.length == 32 | .error _ => false) = true ∧
    (onCaller.dies[dieOf 0].gate).length = 0 := by decide +kernel
theorem test_rtpush : after (exec (.engineCommandCompletion (.tile 0 0)) (headed (.rtpush 2 false 0) 0xffe0 0 0 false 0 onCaller)) 9
    (fun t => (t.dies[dieOf 0].gate).length + 10 * (t.tqAt 0 0).ents.length) = 1 := by decide +kernel
theorem witness_route_accept : routeKind (.rdisp 2 false 0) = some 0 ∧ routeKind (.rcombPart 2 false 0) = some 1 ∧
    (match onCaller.readBlock 0 false 0xff80 128 with | .ok bs => bs.length == 128 | .error _ => false) = true ∧
    ((headed (.rdisp 2 false 0) 0xff80 0 0 false 0 onCaller).tqHead 0 0).all (fun x => onCaller.tqMay 0 x 0 false) = true ∧
    (onCaller.dies[dieOf 0].route).length < 32 := by decide +kernel
theorem test_rdisp_accepted : after (exec (.engineCommandCompletion (.tile 0 0)) (headed (.rdisp 2 false 0) 0xff80 0 0 false 0 onCaller)) []
    (fun t => t.dies[dieOf 0].route.map (fun k => (k.kind, k.off, k.stage))) = [(0, 0xff80, 0)] := by decide +kernel
theorem witness_generations : (opened onCaller).taking 6 ≠ none ∧ onCaller.taking 6 = none ∧ callerFree onCaller 0 ∧
    ((headed (.rgenOpen 1 2 3 false 0) 2048 0 6 false 0 onCaller).tqHead 0 0).all (fun x => onCaller.tqMay 0 x 15 false) = true ∧
    (opened onCaller).gens.all (fun g => g.num = 6 && g.st = .opened) = true ∧ (opened onCaller).rows = [] ∧
    (∀ d : Fin 8, (opened onCaller).dies[d].route = []) ∧
    (headed (.rgenRetire 1 false 0) 0 0 6 true 0 (opened onCaller)).issuedOf 0 0 6 = false ∧ (∀ p : Fin 32, onCaller.ports[p].live = false) := by
  unfold callerFree; decide +kernel
theorem test_generation_twice : after (exec (.engineCommandCompletion (.tile 0 0)) (headed (.rgenOpen 1 2 3 false 0) 2 0 6 false 0 (opened onCaller))) []
    (fun t => [t.me.tr.ecode, t.me.tr.einfo.toNat, t.me.tr.src]) = [0x13, 0x900, 2] := by decide +kernel
theorem test_retiring : after (exec (.engineCommandCompletion (.tile 0 0)) (headed (.rgenRetire 1 false 0) 0 0 6 true 0 (opened onCaller))) []
    (fun t => t.gens.map (fun g => g.st)) = [.retiring] ∧
    after (exec (.engineCommandCompletion (.tile 0 0)) (headed (.rgenRetire 1 false 0) 0 0 6 true 1 (opened onCaller))) []
    (fun t => t.gens.map (fun g => g.st)) = [.free] := by decide +kernel

/-- A dispatch of one record at 0x6000 on package 5, whose expert 0 takes `cap` rows in slot 0 of core 0, or another command, at its stage. -/
def routeCmd (kind stage cap : Nat) : RouteCmd :=
  { kind := kind, off := 0x100, core := 0, launch := 1, stage := stage, r := 0, table := [5 + cap * 2 ^ 44], counts := [0], ndrop := 0, code := 0,
    faddr := 0, puts := [], ents := [{ spkg := 5, token := 3, kslot := 1, expert := 0, weight := 0x3f80, row := [0x80, 0x3f, 0, 0x40] }],
    blk := bytesLE 4 (if kind = 0 then 1 else 0) ++ bytesLE 4 1 ++ (if kind = 0 then bytesLE 8 0x6000 else [6, 0, 2, 0, 12, 0, 0, 0]) ++
      bytesLE 8 0x7000 ++ bytesLE 8 0 ++ bytesLE 8 0 ++ bytesLE 8 0x8000 ++ bytesLE 8 0x9000 ++ bytesLE 8 0 ++ [1, 4, 63, 1] ++ List.replicate 60 0,
    got := (0x6000, bytesLE 8 0) :: (0x6008, bytesLE 8 6) :: (List.range 32).map (fun i => (0x7000 + 8 * i, bytesLE 8 i)) }
/-- The routing engine of die 0 works on it. -/
def routing (k : RouteCmd) : State :=
  let s := mapped onCaller
  { s with dies := s.dies.set 0 { s.dies[0] with route := [k] }, hub := { s.hub with pkg := 5 } }
theorem witness_route_oldest : routeOldest (routing (routeCmd 0 1 1)) 0 (routeCmd 0 1 1) [] ∧ routeOldest (routing (routeCmd 1 1 0)) 0 (routeCmd 1 1 0) [] ∧
    routeOldest (routing (routeCmd 0 3 1)) 0 (routeCmd 0 3 1) [] :=
  ⟨⟨rfl, rfl, rfl, rfl, false, by decide⟩, ⟨rfl, rfl, rfl, rfl, false, by decide⟩, rfl, rfl, rfl, rfl, false, by decide⟩
theorem witness_dispatch : [(0x6000, permR + permW, 16), (0x9000, permW, 8), (0x8008, permW, 8)].all (fun x =>
      match (routing (routeCmd 0 1 1)).engMap ((routing (routeCmd 0 1 1)).launchAt 1) x.2.1 x.1 x.2.2 with
        | .ok ps => ps == [(x.1, x.1, x.2.2)] | .error _ => false) = true ∧
    (match (routeCmd 0 1 1).readG 8 0x6000 16 with | .ok bs => bs == bytesLE 8 0 ++ bytesLE 8 6 | .error _ => false) = true ∧
    (match (routeCmd 0 1 1).readG 8 0x7000 256 with | .ok bs => bs.length == 256 | .error _ => false) = true ∧
    (routeCmd 0 1 1).table.getD 0 0 % 2 ^ 12 = 5 ∧ (routing (routeCmd 0 1 1)).hub.pkg.toNat = 5 ∧
    (routeCmd 0 1 1).table.getD 0 0 / 2 ^ 44 % 2 ^ 12 = 1 ∧ (routeCmd 0 1 0).table.getD 0 0 / 2 ^ 44 % 2 ^ 12 = 0 ∧
    fieldLE (routeCmd 0 1 1).blk 64 1 = 1 ∧ fieldLE (routeCmd 0 1 1).blk 24 8 = 0 ∧ ¬ reservedSet 0 6 := by unfold reservedSet; decide +kernel
theorem test_dispatch : [1, 0].map (fun cap => after (exec (.engineCommandCompletion (.route 0)) (routing (routeCmd 0 1 cap))) []
    (fun t => t.rows.map (fun r => r.drow) ++ (t.dies[(0 : Fin 8)].route.flatMap (fun k => [k.r, k.ndrop, k.counts.sum, k.puts.length])))) =
    [[0, 1, 0, 1, 3], [1, 1, 1, 4]] := by decide +kernel
theorem witness_combine : (routeCmd 1 1 0).ents ≠ [] ∧ (∀ x ∈ (routeCmd 1 1 0).ents, x.spkg = 5 ∧ x.token = 3) ∧
    fieldLE (routeCmd 1 1 0).blk 0 4 ≤ (routeCmd 1 1 0).r ∧ fieldLE (routeCmd 1 1 0).blk 10 2 = 2 := by decide +kernel
/-- R231: 1 times 1 and 1 times 2. -/
theorem test_combine : after (exec (.engineCommandCompletion (.route 0)) (routing (routeCmd 1 1 0))) []
    (fun t => t.rows.map (fun r => (r.drow, r.data))) = [(13, [0, 0, 0x80, 0x3f, 0, 0, 0, 0x40])] := by decide +kernel
theorem witness_route_ends : (routing (routeCmd 0 3 1)).rowsDone 0 = true ∧ ((routing (routeCmd 0 3 1)).instAt 0).launch = 1 ∧
    0x100 + 128 ≤ (((routing (routeCmd 0 3 1)).coreAt 0).winS ((routing (routeCmd 0 3 1)).fgAt 0)).2 ∧
    ((routing (routeCmd 0 3 1)).launchAt 1).id = 1 := by decide +kernel
theorem test_route_ends : after (exec (.engineCommandCompletion (.route 0)) (routing (routeCmd 0 3 1))) 0 (fun t => (barAt (t.instAt 0) 63).arr) = 1 := by
  decide +kernel

/-- A pool of two frames of 4 KiB behind 0x400000. -/
def pool2 (frames : List Frame) (cmds : List KvCmd) : Pool := { State.reset.parts[0].pool with
  en := true, base := 0x400000, nch := 1, fshift := 12, fmt := 13, dh := 64, nh := 1, hstride := 1024, vofs := 256, nfr := 2, chans := [0],
  frames := frames, cmds := cmds }
/-- A KV command of the Caller of core 0. -/
def kvOf (i : Instr) (a b : Word) : KvCmd :=
  { cmd := i, a := a, b := b, core := 0, launch := 1, seq := 0, list := [], got := 0, waiting := false, hold := [], frame := none, src := [],
    dst := [], copied := 0, puts := [], res := 7, ent := ent i, tq := 0 }
/-- Its allocator serves it; the entry at 0x5000 names frame 0. -/
def kvServes (frames : List Frame) (k : KvCmd) : State :=
  let s := mapped onCaller
  { s with mem := s.mem.writeBytes 0x5000 [1, 0, 0x40], parts := s.parts.set 0 { s.parts[0] with pool := pool2 frames [k] } }
/-- A frame of slot 0. -/
def frameOf (num pins : Nat) (evicting : Bool) : Frame := { slot := 0, num := num, pins := pins, evicting := evicting, wrote := 0 }
theorem witness_kv_command : oneCommand (kvServes [frameOf 0 1 false] (kvOf (.kvpin 3 4 false 0) 0x5000 0)) 0 (kvOf (.kvpin 3 4 false 0) 0x5000 0) ∧
    oneCommand (kvServes [frameOf 0 0 false] (kvOf (.kvevict 3 4 5 false 0) 0x6000 1)) 0 (kvOf (.kvevict 3 4 5 false 0) 0x6000 1) := by
  unfold oneCommand; decide +kernel
theorem witness_kv_entries : [permR, permW, permR + permW].all (fun need =>
      match (kvServes [] (kvOf (.kvpin 3 4 false 0) 0x5000 0)).engMap ((kvServes [] (kvOf (.kvpin 3 4 false 0) 0x5000 0)).launchAt 1) need 0x5000 8 with
        | .ok ps => ps == [(0x5000, 0x5000, 8)] | .error _ => false) = true ∧
    numLE ((kvServes [] (kvOf (.kvpin 3 4 false 0) 0x5000 0)).engGet [(0x5000, 0x5000, 8)]) = 0x400001 ∧
    (pool2 [frameOf 0 1 false] []).entryKv 0x400001 = .frame 0 0 ∧ (pool2 [] []).entryKv 0x400001 ≠ .frame 0 0 ∧
    (pool2 [] []).entryKv 0 ≠ .bad ∧ (pool2 [] []).frameVa 0 1 = 0x401000 := by decide +kernel
theorem witness_kv_frames : [(permW, 0x401000), (permW + permRaw, 0x800000), (permR + permRaw, 0x400000)].all (fun x =>
      match (kvServes [frameOf 0 0 false] (kvOf (.kvpin 3 4 false 0) 0 0)).engMap
          ((kvServes [frameOf 0 0 false] (kvOf (.kvpin 3 4 false 0) 0 0)).launchAt 1) x.1 x.2 4096 with
        | .ok ps => ps == [(x.2, x.2, 4096)] | .error _ => false) = true ∧
    (kvServes [frameOf 0 0 false] (kvOf (.kvpin 3 4 false 0) 0 0)).refs 0 = [] := by decide +kernel
/-- What the allocator leaves: the result register and the frames' numbers, pins and evicting bits. -/
def kvLeaves (frames : List Frame) (k : KvCmd) : List Nat := after (exec (.engineCommandCompletion (.alloc 0)) (kvServes frames k)) []
  (fun t => (t.me.rd 3).toNat :: t.parts[(0 : Fin 16)].pool.frames.flatMap (fun x => [x.num, x.pins, if x.evicting then 1 else 0]))
theorem test_kvpin : kvLeaves [frameOf 0 1 false] (kvOf (.kvpin 3 4 false 0) 0x5000 0) = [0, 0, 2, 0] ∧
    kvLeaves [frameOf 0 255 false] (kvOf (.kvpin 3 4 false 0) 0x5000 0) = [0x300000000000000, 0, 255, 0] := by decide +kernel
theorem test_kvunpin_zero : kvLeaves [frameOf 0 0 false] (kvOf (.kvunpin 3 4 false 0) 0x5000 0) = [0x400000000000000, 0, 0, 0] := by decide +kernel
theorem test_kvfree_ends : kvLeaves [frameOf 0 0 false] { kvOf (.kvfree 3 4 false 0) 0x5000 0 with waiting := true, frame := some (0, 0) } = [7] := by
  decide +kernel
theorem test_kvalloc : kvLeaves [frameOf 0 0 false] (kvOf (.kvalloc 3 4 5 false 0) 0x6000 2) = [0, 0, 0, 0, 1, 0, 0] ∧
    kvLeaves [frameOf 0 0 false, frameOf 1 0 false] { kvOf (.kvalloc 3 4 5 false 0) 0x6000 2 with got := 1 } = [0x500000000000001, 0, 0, 0, 1, 0, 0] := by
  decide +kernel
theorem test_kvevict : kvLeaves [frameOf 0 0 false] { kvOf (.kvevict 3 4 5 false 0) 0x6000 1 with list := bytesLE 8 0x5000 ++ bytesLE 8 0x800000 } =
    [0, 0, 0, 1] ∧ kvLeaves [] { kvOf (.kvevict 3 4 5 false 0) 0x6000 1 with got := 1 } = [0x100000000000000] := by decide +kernel
theorem witness_kv_no_pool : ((headed (.kvpin 3 4 false 0) 0x5000 0 0 false 0 onCaller).tqHead 0 0).map (fun x => kvRd x.cmd) = some 3 ∧
    (onCaller.poolOf 0).en = false := by decide +kernel

/-! The end and the placement of a launch. -/

/-- A launch of the host's whose instance has ended and which has a completion word at 0x8000. -/
def completes : State := { recWith (mapped (after (exec (.instanceEnd 0) halted) onCaller id)) (fun r => { r with cmpl := 0x8000, tag := 9 }) with
  launches := (recWith (mapped (after (exec (.instanceEnd 0) halted) onCaller id)) (fun r => { r with cmpl := 0x8000, tag := 9 })).launches.map
    (fun l => { l with by_ := .host }) }
theorem witness_completion : launchStepPre completes (.launchEnd 1) ∧ ringFree completes ∧ (completes.launchAt 1).by_ = .host ∧
    (completes.launchAt 1).rec_.cmpl ≠ 0 ∧ (match completes.walkRoot 0 0 0x8000 with
      | .ok page => (match judgePage page 0x8000 permW with | .ok pa => pa == 0x8000 | .error _ => false) | .error _ => false) = true ∧
    completes.populated 0 0x8000 8 = true := by unfold launchStepPre ringFree; decide +kernel
theorem test_completion : after (exec (.launchEnd 1) completes) [] (fun t => [numLE ((List.range 8).map (fun k => t.mem.read (0x8000 + k))),
    fieldLE (t.mbox.rings.readBytes 0x9000 16) 0 1, t.mbox.rsppi.toNat]) = [9, 1, 1] := by decide +kernel
/-- A launch of one core waits for its placement in partition 0. -/
def waitsPlace : State := { withPart State.reset with launches := [{ probeLaunch with st := .queued }], round := 1 }
theorem witness_placement : (waitsPlace.launches.all fun l => l.st == .queued && decide (l.rec_.queue < 8)) = true ∧ waitsPlace.partOpen 0 = some part4 ∧
    (candidates part4 1 1).find? (fun o => (rectCores o 1 1).all (fun c => (waitsPlace.coreAt c).free)) = some (0, 0) := by decide +kernel
theorem test_placement : after (exec .placementRound waitsPlace) [] (fun t => t.round :: t.launches.map (fun l => l.ox) ++
    [((t.coreAt 0).next).getD 9, ((t.coreAt 1).next).getD 9]) = [0, 0, 1, 9] := by decide +kernel
/-- A well-formed record of one core, of no image. -/
def goodRecord64 (w : Byte) : List Byte := List.replicate 32 0 ++ [w, 0, 1, 0] ++ List.replicate 7 0 ++ [1] ++ List.replicate 20 0
theorem witness_record : recordMalformed (goodRecord64 1) = false ∧ recordMalformed (List.replicate 64 0) = true := by decide +kernel
/-- R76: accepted; larger than its partition; malformed; no partition. -/
theorem test_submission_status : [(goodRecord64 1, withPart State.reset), (goodRecord64 5, withPart State.reset), (goodRecord64 21, withPart State.reset),
    (goodRecord64 1, State.reset)].map (fun x => submissionStatus x.2
      { port := none, core := none, parent := 0, addr := 0, recBytes := none, rd := 0, seq := 0, tag := none, at_ := 5 } (some x.1)) = [0, 3, 2, 4] := by decide +kernel

/-! ### Vector results: states that can run, and results worked out by hand -/

/-- A thread with registers of 1,024 bits in four home groups, under a VTYPE and a VL. -/
def vecs (vtype : Word) (vl : Nat) : State := onThread.updMe (fun g => { g with
  v := { g.v with homes := [0, 1, 2, 3], vregs := 32, len := 1024, vtype := vtype, vl := vl } })
/-- Elements of `w` bits at the start of a register. -/
def puts (s : State) (r w : Nat) (xs : List Nat) : State := s.updCore 0 (fun k => xs.zipIdx.foldl (fun k x => k.vput s.me.vmap r w x.2 x.1) k)
/-- The tag word of a register. -/
def tagOf (s : State) (r : Nat) (x : BitVec 32) : State := s.updMe (fun g => { g with v := { g.v with tags := Tags.upd g.v.tags r (fun _ => x) } })
/-- Elements of a register after an instruction. -/
def elems (i : Instr) (s : State) (r : VReg) (w n : Nat) : List Nat := after (exec i s) [] (fun t => (List.range n).map (fun k => elemAt t 0 0 r w k))
/-- A mask register is given bits. -/
def masked (s : State) (m : Fin 8) (x : Nat) : State := s.updMe (fun g => { g with v := { g.v with masks := g.v.masks.set m x } })

/-- `canRun` is decided part by part. -/
def canRunDec (s : State) (v : VSlot) : Decidable (canRun s v) := by delta canRun canStart placed; exact inferInstance
theorem canRun_of (s : State) (v : VSlot) (h : (canRunDec s v).decide = true) : canRun s v := @of_decide_eq_true _ (canRunDec s v) h
/-- So is `groupsFit`. -/
def groupsFitDec (g : Eng) (b : Bool) (ds ss : List (Nat × Nat)) : Decidable (groupsFit g b ds ss) := by
  delta groupsFit inFile apart; exact inferInstance
theorem groupsFit_of (g : Eng) (b : Bool) (ds ss : List (Nat × Nat)) (h : (groupsFitDec g b ds ss).decide = true) : groupsFit g b ds ss :=
  @of_decide_eq_true _ (groupsFitDec g b ds ss) h
/-- And `sortFits`. -/
def sortFitsDec (g : Eng) (d : Nat × Nat) (e : List (Nat × Nat)) (ss : List (Nat × Nat)) : Decidable
    (inFile g d ∧ (∀ x ∈ e, inFile g x) ∧ (∀ x ∈ d :: e, ∀ y ∈ ss, apart x y) ∧ (∀ x ∈ e, apart d x) ∧
      ∀ x ∈ ss, x.1 % vG g = 0 ∧ x.1 + x.2 ≤ g.v.vregs) := by delta inFile apart; exact inferInstance
theorem sortFits_of (g : Eng) (d : Nat × Nat) (e ss : List (Nat × Nat)) (h : (sortFitsDec g d e ss).decide = true) : sortFits g (d :: e) ss :=
  have k := @of_decide_eq_true _ (sortFitsDec g d e ss) h
  ⟨fun x hx => (List.mem_cons.mp hx).elim (fun e => e ▸ k.1) (k.2.1 x), k.2.2.1, fun _ y hy => by
    obtain ⟨rfl, rfl⟩ := List.cons.inj hy; exact k.2.2.2.1 y (List.mem_singleton.mpr rfl), k.2.2.2.2⟩
/-- And `sortedSrc`. -/
def sortedSrcDec (g : Eng) (r : VReg) : Decidable (sortedSrc g r) := by delta sortedSrc; exact inferInstance
theorem sortedSrc_of (g : Eng) (r : VReg) (h : (sortedSrcDec g r).decide = true) : sortedSrc g r := @of_decide_eq_true _ (sortedSrcDec g r) h

/-- Two f32 sources, 1 and 2 in v4, 2 and 0.5 in v5. -/
def floats : State := puts (puts (vecs 13 2) 4 32 [0x3f800000, 0x40000000]) 5 32 [0x40000000, 0x3f000000]
theorem witness_vector_results : canRun floats ⟨.vadd, vf 6 4 5 0 0⟩ ∧ resultFmt floats.me ⟨.vadd, vf 6 4 5 0 0⟩ = some 13 ∧
    groupsFit floats.me true [vGroup floats.me 6 13] (sourcesOf floats.me ⟨.vadd, vf 6 4 5 0 0⟩) ∧
    resultFmt floats.me ⟨.vwmac, vf 6 4 5 0 0⟩ = some 13 ∧ groupsFit floats.me false [vGroup floats.me 6 13] (sourcesOf floats.me ⟨.vwmac, vf 6 4 5 0 0⟩) := 
  ⟨canRun_of _ _ (by decide +kernel), by decide +kernel, groupsFit_of _ _ _ _ (by decide +kernel), by decide +kernel, groupsFit_of _ _ _ _ (by decide +kernel)⟩
theorem witness_vector_immediate : immOf floats.me (vf 6 4 0 2 0x4000) 0x40000000 ∧ computed floats.me ⟨.vadd, vf 6 4 5 0 0⟩ 1 = true := ⟨rfl, by decide +kernel⟩
/-- A source of bf16 that `vcvt` narrows to FP8 under block scales in v8. -/
def narrows : State := puts (puts (vecs 12 4) 4 16 [0x3f80, 0xc000, 0x4040, 0x7fc0]) 8 8 [0x60]
theorem witness_conversion : canRun narrows ⟨.vcvt, { vf 6 4 8 0 0x90000 with vs3 := 0 }⟩ ∧ resultFmt narrows.me ⟨.vcvt, vf 6 4 8 0 0x90000⟩ = some 9 ∧
    scalesFit narrows.me ⟨.vcvt, vf 6 4 8 0 0x90000⟩ 9 ∧
    groupsFit narrows.me false [vGroup narrows.me 6 9] (sourcesOf narrows.me ⟨.vcvt, vf 6 4 8 0 0x90000⟩) := 
  ⟨canRun_of _ _ (by decide +kernel), by decide +kernel, by unfold scalesFit inFile apart; decide +kernel, groupsFit_of _ _ _ _ (by decide +kernel)⟩
theorem test_vector_floats : elems (.vadd (vf 6 4 5 0 0)) floats 6 32 2 = [0x40400000, 0x40200000] ∧
    elems (.vdiv (vf 6 4 5 0 0)) floats 6 32 2 = [0x3f000000, 0x40800000] ∧ elems (.vmax (vf 6 4 5 0 0)) floats 6 32 2 = [0x40000000, 0x40000000] ∧
    elems (.vadd (vf 6 4 0 2 0x4000)) floats 6 32 2 = [0x40400000, 0x40800000] := by decide +kernel
theorem test_vsqrt : elems (.vsqrt (vf 6 4 0 0 0)) (puts floats 4 32 [0x40800000, 0x80000000]) 6 32 2 = [0x40000000, 0x80000000] := by decide +kernel
theorem test_vfma : elems (.vfma { vf 6 4 5 0 0 with vs3 := 4 }) floats 6 32 2 = [0x40400000, 0x40400000] := by decide +kernel
theorem test_vcvt_narrow : elems (.vcvt (vf 6 4 8 0 0x90000)) narrows 6 8 4 = [0x38, 0xc0, 0x44, 0x7f] := by decide +kernel
theorem test_vcvt_integer : elems (.vcvt (vf 6 4 0 0 0x250000)) (puts floats 4 32 [0x40200000, 0xbf800000]) 6 32 2 = [2, 0xffffffff] := by decide +kernel
theorem test_vclass : elems (.vclass (vf 6 4 0 0 0)) (puts floats 4 32 [0xff800000, 0x00000001]) 6 32 2 = [0, 5] := by decide +kernel
theorem test_vsel : elems (.vsel { vf 6 4 5 0 0 with mask := 3 }) (masked floats 3 2) 6 32 2 = [0x40000000, 0x40000000] := by decide +kernel
theorem test_vexp2 : elems (.vexp2 (vf 6 4 0 0 0)) (puts floats 4 32 [0x40400000, 0x7f800000]) 6 32 2 = [0x41000000, 0x7f800000] := by decide +kernel

theorem witness_vector_masks : canRun floats ⟨.vcmp, vf 3 4 5 0 0x20000⟩ ∧ groupsFit floats.me true [] (sourcesOf floats.me ⟨.vcmp, vf 3 4 5 0 0x20000⟩) ∧
    (joinOf (vTag floats.me 4) (fmtB2 floats.me (vf 3 4 5 0 0x20000))).isSome = true ∧ canRun floats ⟨.vmnot, vf 3 4 0 0 0⟩ ∧
    groupsFit floats.me true [] (sourcesOf floats.me ⟨.vmnot, vf 3 4 0 0 0⟩) := 
  ⟨canRun_of _ _ (by decide +kernel), groupsFit_of _ _ _ _ (by decide +kernel), by decide +kernel, canRun_of _ _ (by decide +kernel), groupsFit_of _ _ _ _ (by decide +kernel)⟩
theorem test_vcmp : after (exec (.vcmp (vf 3 4 5 0 0x20000)) floats) [] (fun t => (List.range 3).map (maskOf t.me 3)) = [true, false, false] := by
  decide +kernel

/-- Four i32 elements in v4. -/
def ints : State := puts (vecs 5 4) 4 32 [5, 0xfffffffe, 7, 1]
theorem witness_vector_folds : canRun ints ⟨.vred, vf 9 4 0 3 0⟩ ∧ redFits ints.me ⟨.vred, vf 9 4 0 3 0⟩ ∧
    groupsFit ints.me false [] (sourcesOf ints.me ⟨.vred, vf 9 4 0 3 0⟩) ∧ canRun ints ⟨.vscan, vf 8 4 0 0 0⟩ ∧
    groupsFit ints.me false [vGroup ints.me 8 5] (sourcesOf ints.me ⟨.vscan, vf 8 4 0 0 0⟩) ∧ canRun ints ⟨.vsegscan, vf 8 4 0 0 0⟩ ∧
    canRun ints ⟨.vrev, vf 8 4 0 0 0⟩ ∧ canRun ints ⟨.vperm, vf 8 4 5 0 0⟩ ∧ isIn (vTag ints.me 5) = true ∧ (ints.recOf 0).det = false := 
  ⟨canRun_of _ _ (by decide +kernel), by unfold redFits; decide +kernel, groupsFit_of _ _ _ _ (by decide +kernel), canRun_of _ _ (by decide +kernel), groupsFit_of _ _ _ _ (by decide +kernel), canRun_of _ _ (by decide +kernel), canRun_of _ _ (by decide +kernel), canRun_of _ _ (by decide +kernel), by decide +kernel, by decide +kernel⟩
/-- SEG is 0, 2, and 4 from there on. -/
def segs : State := ints.updMe (fun g => { g with v := { g.v with seg := ((Vector.replicate 64 (4 : Word)).set 0 0).set 1 2 } })
theorem witness_segments : (List.range 63).all (fun j => decide ((segs.me.v.seg.toList.getD j 0).toNat ≤ (segs.me.v.seg.toList.getD (j + 1) 0).toNat)) = true := by
  decide +kernel
theorem witness_segments_reduce : canRun (segs.updMe (fun g => { g with v := { g.v with vtype := 0x105 } })) ⟨.vsegred, vf 16 8 0 0 0⟩ ∧
    64 ≤ 1024 * vRegs (segs.updMe (fun g => { g with v := { g.v with vtype := 0x105 } })).me 64 / 64 ∧
    groupsFit (segs.updMe (fun g => { g with v := { g.v with vtype := 0x105 } })).me false [(16, 8)]
      (sourcesOf (segs.updMe (fun g => { g with v := { g.v with vtype := 0x105 } })).me ⟨.vsegred, vf 16 8 0 0 0⟩) := 
  ⟨canRun_of _ _ (by decide +kernel), by decide +kernel, groupsFit_of _ _ _ _ (by decide +kernel)⟩
/-- Two blocks of 32 FP8 elements of 1 in v4 and of 2 in v8, the first under scales of 1 and 2 in v5 and v9, and 0.5 in v10. -/
def blocks : State := puts (puts (puts (puts (puts (vecs 0x59 64) 4 8 (List.replicate 64 0x38)) 8 8 (List.replicate 64 0x40)) 5 8 (List.replicate 8 0x60 ++ List.replicate 8 0x80)) 9 8 (List.replicate 16 0x60))
  10 32 [0x3f000000, 0]
theorem witness_block_product : canRun blocks ⟨.vdotBlk, vf 10 4 8 0 0⟩ ∧
    groupsFit blocks.me false [(10, 1)] (sourcesOf blocks.me ⟨.vdotBlk, vf 10 4 8 0 0⟩ ++ dotScales blocks.me ⟨.vdotBlk, vf 10 4 8 0 0⟩) := 
  ⟨canRun_of _ _ (by decide +kernel), groupsFit_of _ _ _ _ (by decide +kernel)⟩
theorem test_block_product : elems (.vdotBlk (vf 10 4 8 0 0)) blocks 10 32 2 = [0x42810000, 0x43000000] := by decide +kernel
theorem test_vred_sum : after (exec (.vred (vf 9 4 0 3 0)) ints) none (fun t => some (t.me.rd 9, t.me.held 9)) = some (11, false) := by decide +kernel
theorem test_vscan : elems (.vscan (vf 8 4 0 0 0)) ints 8 32 4 = [5, 3, 10, 11] := by decide +kernel
theorem test_vsegscan : elems (.vsegscan (vf 8 4 0 0 0)) segs 8 32 4 = [5, 3, 7, 8] := by decide +kernel
theorem test_permutes : elems (.vrev (vf 8 4 0 0 0)) ints 8 32 4 = [1, 7, 0xfffffffe, 5] ∧
    elems (.vslide (vf 8 4 0 2 1)) ints 8 32 4 = [0, 5, 0xfffffffe, 7] ∧
    elems (.vcompress { vf 8 4 0 0 0 with mask := 2 }) (masked ints 2 0xa) 8 32 2 = [0xfffffffe, 1] := by decide +kernel

/-- Keys of FP16 in v4 with i16 payloads in v6, unsorted. -/
def keys : State := tagOf (puts (puts (vecs 11 4) 4 16 [0x4400, 0x3c00, 0xbc00, 0x4400]) 6 16 [40, 10, 9, 41]) 6 3
/-- The keys sorted in v8 with payloads in v10, and others in v12 with v14. -/
def runs : State := after (exec (.vsortr { vf 12 16 14 0 0 with vs3 := 18 }) (tagOf (puts (puts
    (after (exec (.vsortr { vf 8 4 10 0 0 with vs3 := 6 }) keys) keys id) 16 16 [0x4400, 0x0000, 0x4000, 0x3c00]) 18 16 [50, 51, 52, 53]) 18 3)) keys id
theorem witness_vector_sorts : canRun keys ⟨.vsortr, { vf 8 4 10 0 0 with vs3 := 6 }⟩ ∧ sortFits keys.me [(8, 1), (10, 1)] [(4, 1), (6, 1)] ∧
    canRun runs ⟨.vmerge, { vf 20 8 12 0 0 with vs3 := 22 }⟩ ∧ sortedSrc runs.me 8 ∧ sortedSrc runs.me 12 ∧ spanOf runs.me 8 = 1 ∧ spanOf runs.me 12 = 1 ∧
    linkOf runs.me 8 = 10 ∧ linkOf runs.me 12 = 14 ∧ sortFits runs.me [(20, 2), (22, 2)] [(8, 1), (12, 1), (10, 1), (14, 1)] ∧
    tgPlv (Tags.at_ runs.me.v.tags 8) = true ∧ tgPlv (Tags.at_ runs.me.v.tags 12) = true := 
  ⟨canRun_of _ _ (by decide +kernel), sortFits_of _ _ _ _ (by decide +kernel), canRun_of _ _ (by decide +kernel), sortedSrc_of _ _ (by decide +kernel), sortedSrc_of _ _ (by decide +kernel), by decide +kernel, by decide +kernel, by decide +kernel, by decide +kernel, sortFits_of _ _ _ _ (by decide +kernel), by decide +kernel, by decide +kernel⟩
theorem witness_sort_others : canRun runs ⟨.vchk, vf 0 8 0 0 0⟩ ∧ sortFits runs.me [] [(8, 1)] ∧
    canRun runs ⟨.vinter, { vf 20 8 12 0 0 with vs3 := 22 }⟩ ∧ canRun runs ⟨.vuniq, vf 20 8 0 0 0⟩ ∧ sortFits runs.me [(20, 1)] [(8, 1)] ∧
    canRun runs ⟨.vrank, vf 20 8 4 0 0⟩ ∧ sortFits runs.me [(20, vRegs runs.me 32)] [(8, 1), (4, 1)] ∧ canRun runs ⟨.vpart, vf 20 4 3 1 0⟩ := 
  ⟨canRun_of _ _ (by decide +kernel), ⟨by simp, by simp, by simp, by decide +kernel⟩, canRun_of _ _ (by decide +kernel), canRun_of _ _ (by decide +kernel), sortFits_of _ _ _ _ (by decide +kernel), canRun_of _ _ (by decide +kernel), sortFits_of _ _ _ _ (by decide +kernel), canRun_of _ _ (by decide +kernel)⟩
theorem test_vsortr : elems (.vsortr { vf 8 4 10 0 0 with vs3 := 6 }) keys 8 16 4 = [0xbc00, 0x3c00, 0x4400, 0x4400] ∧
    elems (.vsortr { vf 8 4 10 0 0 with vs3 := 6 }) keys 10 16 4 = [9, 10, 40, 41] := by decide +kernel
/-- R212, R406: a merge of two runs of one register each marks both registers of its output and links each to its payloads. -/
theorem test_vmerge : elems (.vmerge { vf 20 8 12 0 0 with vs3 := 22 }) runs 20 16 4 = [0xbc00, 0x0000, 0x3c00, 0x3c00] ∧
    elems (.vmerge { vf 20 8 12 0 0 with vs3 := 22 }) runs 23 16 4 = [52, 40, 41, 50] ∧
    after (exec (.vmerge { vf 20 8 12 0 0 with vs3 := 22 }) runs) [] (fun t => [20, 21].map (fun r => (Tags.at_ t.me.v.tags r).toNat % 2 ^ 18)) =
      [0x1685b, 0x1695b] := by decide +kernel
theorem test_vinter : elems (.vinter { vf 20 8 12 0 0 with vs3 := 22 }) runs 20 16 4 = [0x3c00, 0x4400, 0x7e00, 0x7e00] := by decide +kernel
theorem test_vrank : elems (.vrank (vf 20 8 4 0 0)) runs 20 32 4 = [2, 1, 0, 2] := by decide +kernel

/-! #### Vector memory: in the core's S, at supervisor privilege -/

/-- Four i32 elements whose base in S is s1 = 0x40, with indices 3, 0, 3, 1 of i32 in v6, data in v4 and bytes in S. -/
def inS : State := { (puts (puts (reg (reg (vecs 5 4) 1 0x40) 2 8) 6 32 [3, 0, 3, 1]) 4 32 [11, 12, 13, 14]).updCore 0 (fun k =>
    { k with bufS := k.bufS.writeBytes blkS 0x40 (bytesLE 16 0x00000404000003030000020200000101) }) with turn := 0 }
/-- A slot word of vector memory: S, and an index scale of 4. -/
def vm (vd vs2 vs3 : BitVec 5) (mods : BitVec 24) : VF := { vf vd 1 vs2 0 (0x100000 + mods) with vs3 := vs3 }
/-- Where an element goes. -/
def placed? (s : State) (v : VSlot) (rd wr : Bool) (n addr i : Nat) : Option Loc :=
  match SlotX.place { c := s.core, e := s.eng, q := s.me.entry [v], j := 0, v := v } s i (if v.f.mods.getLsbD 20 then .s else .g) addr n rd wr with
  | .ok (.g pa) => if pa < devBase then some (.g pa) else none
  | .ok l => some l
  | .error _ => none
theorem goesTo_of (s : State) (v : VSlot) (rd wr : Bool) (n addr i : Nat) (l : Loc) (h : placed? s v rd wr n addr i = some l) :
    goesTo s v i addr n rd wr l := by
  unfold placed? at h; unfold goesTo
  split at h
  · next pa e => split at h <;> cases h; exact ⟨e, by assumption⟩
  · next l' no e => cases h; exact ⟨e, by cases l <;> first | trivial | exact absurd rfl (no _)⟩
  · cases h
/-- The place of an element, for a witness. -/
def placeFor (s : State) (v : VSlot) (rd wr : Bool) (u : Nat) : Loc := (placed? s v rd wr (eBytes s.me) (vAddr s v u) u).getD (.g 0)
theorem allGo_of (s : State) (v : VSlot) (rd wr : Bool) (h : (s.poolOf (s.recOf s.core).part).en = false) (k : (List.range (vReal s.me)).all (fun i =>
    (placed? s v rd wr (eBytes s.me) (vAddr s v (unitOf s.me i)) (unitOf s.me i)).isSome) = true) : allGo s v rd wr (placeFor s v rd wr) :=
  ⟨h, fun i hi => goesTo_of _ _ _ _ _ _ _ _ (by
    have hi : i < vReal s.me := by simp [takes] at hi; exact hi.1
    obtain ⟨l, e⟩ := Option.isSome_iff_exists.mp (List.all_eq_true.mp k i (List.mem_range.mpr hi))
    simp [placeFor, e])⟩
/-- `memFits` is decided part by part. -/
def memFitsDec (g : Eng) (v : VSlot) : Decidable (memFits g v) := by delta memFits inFile apart; exact inferInstance
theorem memFits_of (g : Eng) (v : VSlot) (h : (memFitsDec g v).decide = true) : memFits g v := @of_decide_eq_true _ (memFitsDec g v) h
/-- `canStart` is decided part by part. -/
def canStartDec (s : State) (v : VSlot) : Decidable (canStart s v) := by delta canStart placed; exact inferInstance
theorem canStart_of (s : State) (v : VSlot) (h : (canStartDec s v).decide = true) : canStart s v := @of_decide_eq_true _ (canStartDec s v) h

theorem witness_vector_loads : canRun inS ⟨.vldx, vm 8 6 0 0x1000⟩ ∧ memFits inS.me ⟨.vldx, vm 8 6 0 0x1000⟩ ∧
    allGo inS ⟨.vldx, vm 8 6 0 0x1000⟩ true false (placeFor inS ⟨.vldx, vm 8 6 0 0x1000⟩ true false) :=
  ⟨canRun_of _ _ (by decide +kernel), memFits_of _ _ (by decide +kernel), allGo_of _ _ _ _ (by decide +kernel) (by decide +kernel)⟩
theorem witness_vector_stores : canRun inS ⟨.vstx, vm 4 6 0 0x1000⟩ ∧ memFits inS.me ⟨.vstx, vm 4 6 0 0x1000⟩ ∧
    allGo inS ⟨.vstx, vm 4 6 0 0x1000⟩ false true (placeFor inS ⟨.vstx, vm 4 6 0 0x1000⟩ false true) :=
  ⟨canRun_of _ _ (by decide +kernel), memFits_of _ _ (by decide +kernel), allGo_of _ _ _ _ (by decide +kernel) (by decide +kernel)⟩
theorem witness_vector_conditionals : canRun inS ⟨.vsc, vm 4 6 2 0x1000⟩ ∧ memFits inS.me ⟨.vsc, vm 4 6 2 0x1000⟩ ∧
    allGo inS ⟨.vsc, vm 4 6 2 0x1000⟩ false true (placeFor inS ⟨.vsc, vm 4 6 2 0x1000⟩ false true) :=
  ⟨canRun_of _ _ (by decide +kernel), memFits_of _ _ (by decide +kernel), allGo_of _ _ _ _ (by decide +kernel) (by decide +kernel)⟩
theorem witness_vector_atomics : isIn (vF inS.me) = true ∧ canRun inS ⟨.vamo, vm 8 6 4 0x1000⟩ ∧ memFits inS.me ⟨.vamo, vm 8 6 4 0x1000⟩ ∧
    allGo inS ⟨.vamo, vm 8 6 4 0x1000⟩ true true (placeFor inS ⟨.vamo, vm 8 6 4 0x1000⟩ true true) ∧
    inFile inS.me (vGroup inS.me 4 (vF inS.me)) ∧ tgFmt (Tags.at_ inS.me.v.tags 4) = 0 :=
  ⟨by decide +kernel, canRun_of _ _ (by decide +kernel), memFits_of _ _ (by decide +kernel), allGo_of _ _ _ _ (by decide +kernel) (by decide +kernel),
    by unfold inFile; decide +kernel, by decide +kernel⟩
theorem witness_vector_waits : canRun inS ⟨.vwait, vm 8 6 0 0x5000⟩ ∧ memFits inS.me ⟨.vwait, vm 8 6 0 0x5000⟩ ∧
    allGo inS ⟨.vwait, vm 8 6 0 0x5000⟩ true false (placeFor inS ⟨.vwait, vm 8 6 0 0x5000⟩ true false) ∧
    ∀ k, takes inS.me ⟨.vwait, vm 8 6 0 0x5000⟩ k = true →
      waitMet 1 32 (numAt inS (placeFor inS ⟨.vwait, vm 8 6 0 0x5000⟩ true false k) 4) (elemAt inS inS.core inS.eng 8 32 k) :=
  ⟨canRun_of _ _ (by decide +kernel), memFits_of _ _ (by decide +kernel), allGo_of _ _ _ _ (by decide +kernel) (by decide +kernel), fun k hk => by
    have hk : k < 4 := by simp [takes] at hk; exact hk.1
    have h : ∀ j : Fin 4, ¬ numAt inS (placeFor inS ⟨.vwait, vm 8 6 0 0x5000⟩ true false j) 4 = elemAt inS inS.core inS.eng 8 32 j := by decide +kernel
    exact h ⟨k, hk⟩⟩
/-- `vmm.fill` of two words at s1 with the value of s2. -/
def fills : State := reg inS 3 16
theorem witness_vector_fill : canStart fills ⟨.vmmFill, vm 0 2 3 0x10000⟩ ∧ (fills.poolOf (fills.recOf fills.core).part).en = false ∧
    ∀ k, k < (fills.me.rd 3).toNat / 8 → goesTo fills ⟨.vmmFill, vm 0 2 3 0x10000⟩ k (vAddr fills ⟨.vmmFill, vm 0 2 3 0x10000⟩ k) 8 false true
      ((placed? fills ⟨.vmmFill, vm 0 2 3 0x10000⟩ false true 8 (vAddr fills ⟨.vmmFill, vm 0 2 3 0x10000⟩ k) k).getD (.g 0)) :=
  ⟨canStart_of _ _ (by decide +kernel), by decide +kernel, fun k hk => goesTo_of _ _ _ _ _ _ _ _ (by
    have h : ∀ j : Fin 2, (placed? fills ⟨.vmmFill, vm 0 2 3 0x10000⟩ false true 8 (vAddr fills ⟨.vmmFill, vm 0 2 3 0x10000⟩ j) j).isSome = true := by decide +kernel
    obtain ⟨l, e⟩ := Option.isSome_iff_exists.mp (h ⟨k, hk⟩)
    rw [show placed? fills _ false true 8 _ k = some l from e]; rfl)⟩
/-- The four words in S at s1. -/
def wordsS (t : State) : List Nat := (List.range 4).map (fun k => numAt t (.s 0 (0x40 + 4 * k)) 4)
theorem test_vector_memory : elems (.vldx (vm 8 6 0 0x1000)) inS 8 32 4 = [0x404, 0x101, 0x404, 0x202] ∧
    after (exec (.vstx (vm 4 6 0 0x1000)) inS) [] wordsS = [12, 14, 0x303, 13] ∧
    elems (.vamo (vm 8 6 4 0x1000)) inS 8 32 4 = [0x404, 0x101, 0x40f, 0x202] ∧
    after (exec (.vamo (vm 8 6 4 0x1000)) inS) [] wordsS = [0x10d, 0x210, 0x303, 0x41c] := by decide +kernel
theorem test_vector_others : elems (.vwait (vm 8 6 0 0x5000)) inS 8 32 4 = [0x404, 0x101, 0x404, 0x202] ∧
    after (exec (.vsc (vm 4 6 2 0x1000)) inS) [] wordsS = [0x101, 0x202, 0x303, 0x404] ∧
    after (exec (.vsc (vm 4 6 2 0x1000)) (after (exec (.vgl (vm 8 6 0 0x1000)) inS) inS id)) [] wordsS = [12, 14, 0x303, 13] ∧
    after (exec (.vmmFill (vm 0 2 3 0x10000)) fills) [] wordsS = [8, 0, 8, 0] := by decide +kernel

/-- `vwait` for a zero that does not come, past its limit. -/
def waits : State := { after (exec (.vwait (vm 8 6 0 0x1000)) (inS.updMe (fun g => { g with twait := 10 }))) inS id with clk := 100 }
/-- A bundle header in S that names the feed, and a load past its limit. -/
def feeds : State := { after (exec (.vldIpb (vf 8 1 0 0 0)) ((inS.updMe (fun g => { g with twait := 10 })).updCore 0 (fun k =>
    { k with bufS := k.bufS.writeBytes blkS 0x40 (1 :: List.replicate 63 0) }))) inS id with clk := 100 }
/-- The head of thread 0's queue. -/
def headOf (s : State) : QConvoy := s.me.v.vq.headD (clearMark 0 0)
/-- Its group in flight. -/
def flyOf (s : State) : Fly := (headOf s).fly.headD { lo := 0, hi := 0, lg := 0, got := [], cut := none, stage := 0, locs := [] }
/-- `limitOut` is decided part by part. -/
def limitOutDec (s : State) (v : VSlot) (x : Nat) : Decidable (let g := s.engAt 0 0; let q := headOf s; let f := flyOf s
    g.v.vq = [q] ∧ q.slots = [v] ∧ q.abound = none ∧ q.start.isSome = true ∧ q.fly = [f] ∧ f.lo = q.prog ∧ f.cut = none ∧ f.stage = 0 ∧
    q.prog < q.vl - q.vtype.toNat / 2 ^ 13 % 2 ^ 7 ∧ q.tot = q.vl ∧ (q.expiry = some x ∧ x < s.clk) ∧ (s.instAt 0).live = true ∧
    g.frozen = false ∧ g.accs = [] ∧ placed g ∧ (s.coreAt 0).laneErr = none ∧ (s.coreAt 0).errinj.getLsbD 63 = false ∧
    (s.coreAt 0).trc.getLsbD 62 = false) := by
  delta placed; exact inferInstance
theorem limitOut_of (s : State) (v : VSlot) (x : Nat) (h : (limitOutDec s v x).decide = true) : limitOut s 0 0 v (headOf s) (flyOf s) [] :=
  have ⟨a, b, c, d, e, f, g, h, i, j, k, l⟩ := @of_decide_eq_true _ (limitOutDec s v x) h
  ⟨a, b, c, d, e, f, g, h, i, j, ⟨x, k⟩, l⟩
theorem witness_limits_end : limitOut waits 0 0 ⟨.vwait, vm 8 6 0 0x1000⟩ (headOf waits) (flyOf waits) [] ∧ (flyOf waits).hi = (headOf waits).prog + 1 ∧
    (waits.engAt 0 0).v.active (vm 8 6 0 0x1000) (headOf waits).prog = true ∧ ((headOf waits).latest 0 (headOf waits).prog).isSome = true :=
  ⟨limitOut_of _ _ 10 (by decide +kernel), by decide +kernel, by decide +kernel, by decide +kernel⟩
theorem witness_feeds_end : limitOut feeds 0 0 ⟨.vldIpb, vf 8 1 0 0 0⟩ (headOf feeds) (flyOf feeds) [] ∧ ((headOf feeds).blk.headD 0).toNat = 1 ∧
    (headOf feeds).staged = false ∧ feeds.me.tr.trap = false ∧ feeds.me.traps = [] ∧ feeds.me.wait = .none ∧ feeds.me.task = none ∧
    (feeds.instAt 0).stopped = false ∧ ((feeds.instAt 0).feeds.toList.getD 0 []).length < 4 ∧ (flyOf feeds).lo < (flyOf feeds).hi :=
  ⟨limitOut_of _ _ 10 (by decide +kernel), by decide +kernel, by decide +kernel, by decide +kernel, by decide +kernel, by decide +kernel, by decide +kernel,
    by decide +kernel, by decide +kernel, by decide +kernel⟩
theorem test_limits_end : after (exec (.vwaitExpiry 0 0) waits) 0 (fun t => elemAt t 0 0 8 32 0) = 0x404 ∧
    after (exec (.feedLimitExpiry 0 0) feeds) (false, 0, 0) (fun t => (t.me.tr.trap, t.me.tr.ecode, t.me.tr.einfo)) = (true, 0x13, 0xd07) := by decide +kernel

/-! ### Encodings and the step -/

theorem witness_decode_encode : (Instr.lih 31 3 0xffff 7).wf = true ∧ encode (.lih 31 3 0xffff 7) ≠ [] ∧
    (Instr.convoy (List.replicate 4 ⟨.vadd, vf 31 30 29 0 0⟩) 7).wf = true := by decide
theorem witness_encode_decode : decode false (wordBytes [0xb0000000, 0xffffffff]) = .ok (.nop 0, [0xff, 0xff, 0xff, 0xff]) := rfl
/-- Core 0's Caller is about to issue `nop`. -/
def fetched : State := State.reset.withFetchWord 32 0xb0000000
theorem witness_step_issue : fetched.agenda = [.issue 0 callerId] ∧ ({ fetched with agenda := [] } : State).mayIssue 0 callerId = true ∧
    (match (({ fetched with agenda := [] } : State).select 0 callerId).fetchInstr with
      | .error _ => false
      | .ok (bs, u) =>
        (match decode (u.me.pc.toNat % 8 == 4) bs with | .ok (i, _) => i == .nop 0 | .error _ => false) && u.breakpoint.isNone &&
          (u.headerFault bs).isNone && (u.engineFault (.nop 0)).isNone && (u.accessFault (.nop 0)).isNone &&
          (u.me.early u.clk (instrReads u.me.v.stripd (.nop 0) ++ instrPeeks (.nop 0))).isNone &&
          (u.me.badStatus (instrReads u.me.v.stripd (.nop 0))).isNone) = true ∧ instrReads 0 (.nop 0) ++ instrWrites 0 (.nop 0) = [] := by
  decide +kernel
theorem test_step_fetched : (match step (State.reset.withFetchWord 32 0xb0000000) with | .next t => t.me.pc | _ => 0) = 0x1008 := by decide +kernel
theorem witness_step_event : ({ State.reset with agenda := [.ev .debugHalt] } : State).agenda = .ev .debugHalt :: [] := rfl
theorem witness_invariant : ({ State.reset with agenda := [.ev .debugHalt] } : State).Inv ∧
    (match step { State.reset with agenda := [.ev .debugHalt] } with | .next t => t.hub.halted | _ => false) = true := by
  unfold State.Inv; decide +kernel
theorem test_mailbox_outside : step { State.reset with agenda := [.hostWrite 0x10000 [1]] } = .fault .outsideMailbox := rfl

/-! ### An image of boot firmware that is valid -/

/-- An image of boot firmware, signed outside the model with the private scalar 0x1234567 (R49). -/
def goodImage : List Byte := bytesLE 320 0x3f3e3d3c3b3a393837363534333231302f2e2d2c2b2a292827262524232221201f1e1d1c1b1a191817161514131211100f0e0d0c0b0a09080706050403020100000000000000000000000000000000000000000000000000000000000000000000000000000000000000000000000000000000000000000000000000000000000000000000000000000000000000000028d2b0a68f38da98deb5cc3b11b7d406275f0dcb8f620b2abc23c62e9ac308da7bbe93083471d817c02980b321e0eff420c7d572eb189d1a2577a2db02b0215846a85bb7dea131a3a68e755ecd870e4909d43ab902aa1ed956790616a7a92d445c4126fca30b172db82961cc70e3deaa7b89ba77c66fc8741a29ab22ffb98b08081115d9d17c448c3a601198cf7f759c8f9ea2c9cd5826bd620371f3acb9eafd0000000400000040000300014d495856
/-- A record whose first owner is its signer (R46). -/
def goodRecord : List Byte := bytesLE 40 0x446203fb4e554ebd953937b164a697e256f6e801ae7a54c38750084f2d218a0f0000000152435856
theorem goodImage_key : keyAllowed (some goodRecord) (cut goodImage 48 64) = true := by
  unfold keyAllowed; simp only [Bool.or_eq_true]; exact .inr (by decide +kernel)
theorem goodImage_signature : verifyP256 (cut goodImage 48 64) (cut goodImage 0 112) (cut goodImage 112 64) = true := by
  decide +kernel
theorem goodImage_ok : imageOk (some goodRecord) 1 goodImage = true := by
  simp only [imageOk, goodImage_key, goodImage_signature, Bool.and_true]; decide +kernel
theorem badImage_refused : imageOk (some goodRecord) 2 goodImage = false := by decide +kernel
theorem witness_firmware_update : hubStepPre (booting .running onCaller) (.firmwareUpdate goodImage) ∧
    hubStepPre (booting .running onCaller) (.firmwareUpdate []) := ⟨⟨rfl, rfl⟩, rfl, rfl⟩

end Sys2Proof.Tests
end

/-! ## Writes of control registers (O14: R4, R98 to R100, R115, R258, R265, R342, R343)

A write of a control register ends in `State.crStore`, followed by the completion of the instruction. Three facts about `crStore`
carry the proof: the written register reads the stored value (`crStore_reads`, `crStore_shapes`), everything behind another control
register stays (`crStore_stored`), and an ignored write changes nothing (`crStore_ignored`). -/

namespace Sys2Proof.ControlRegisters

open Sys2Proof Sys2Proof.Machine Sys2Proof.Claims Sys2Proof.Laws

/-! ### What a write leaves as it is -/

/-- Of an engine, what a write of control register `num` leaves: the scalar registers and predicates, and each field behind a control
register other than `num`. VLCAP also moves the register length and the tags (R98, R99), and EPC also sets EPCW (R265). The defaults
prove a field that a record update does not touch, or that belongs to `num` itself. -/
structure CrEng (num : Nat) (g h : Eng) : Prop where
  regs : regsKept g h := by exact ⟨rfl, rfl⟩
  preds : h.preds = g.preds := by rfl
  running : h.running = g.running := by rfl
  raw : h.tr.raw = g.tr.raw := by rfl
  homes : h.v.homes = g.v.homes := by rfl
  vregs : h.v.vregs = g.v.vregs := by rfl
  vl : 0x00 ≠ num → h.v.vl = g.v.vl := by simp
  vtype : 0x01 ≠ num → h.v.vtype = g.v.vtype := by simp
  vstart : 0x02 ≠ num → h.v.vstart = g.v.vstart := by simp
  len : 0x04 ≠ num → h.v.len = g.v.len := by simp
  tags : 0x04 ≠ num → h.v.tags = g.v.tags := by simp
  inval : 0x04 ≠ num → h.v.inval = g.v.inval := by simp
  vlcap : 0x04 ≠ num → h.v.vlcap = g.v.vlcap := by simp
  lslip : 0x08 ≠ num → h.v.lslip = g.v.lslip := by simp
  stripd : 0x09 ≠ num → h.v.stripd = g.v.stripd := by simp
  stripn : 0x0a ≠ num → h.v.stripn = g.v.stripn := by simp
  vflags : 0x0b ≠ num → h.vflags = g.vflags := by simp
  sbchk : 0x0c ≠ num → h.sbchk = g.sbchk := by simp
  uivec : 0x0d ≠ num → h.uivec = g.uivec := by simp
  ustk : 0x0e ≠ num → h.ustk = g.ustk := by simp [Eng.ustk]
  ecode : 0x0f ≠ num → h.tr.ecode = g.tr.ecode := by simp
  einfo : 0x10 ≠ num → h.tr.einfo = g.tr.einfo := by simp
  epc : 0x11 ≠ num → h.tr.epc = g.tr.epc := by simp
  estat : 0x11 ≠ num → h.tr.word = g.tr.word := by simp [TrapRegs.word]
  twait : 0x14 ≠ num → h.twait = g.twait := by simp
  seg : ∀ j, 0x40 + j ≠ num → h.v.seg.toList.getD j 0 = g.v.seg.toList.getD j 0 := by simp

/-- Of the whole state, what stands behind the control registers other than `num`. -/
structure CrRest (num : Nat) (s t : State) : Prop where
  eng : CrEng num s.me t.me
  dirty : 0x04 ≠ num → t.vdirty = s.vdirty
  ven : 0x07 ≠ num → (t.instAt t.core).venWord = (s.instAt s.core).venWord
  errinj : 0x13 ≠ num → (t.coreAt t.core).errinj = (s.coreAt s.core).errinj
  param : (t.recOf t.core).param = (s.recOf s.core).param

/-- What a write of control register `num` leaves before its instruction completes: also the pc and every byte of memory. -/
structure CrStored (num : Nat) (s t : State) : Prop extends CrRest num s t where
  pc : t.me.pc = s.me.pc
  bytes : bytesKept s t

theorem crAssigned_iff (n : Nat) : crAssigned n = true ↔ n ≤ 0x15 ∨ (0x40 ≤ n ∧ n < 0x80) := by
  simp [crAssigned]

/-- A control register reads as before where only what belongs to another one has changed. -/
theorem crValue_of_rest {num n : Nat} {s t : State} (h : CrRest num s t) (ha : crAssigned n = true) (hn : n ≠ num)
    (h4 : ¬ (num = 0x04 ∧ (n = 0x03 ∨ n = 0x06))) (h11 : ¬ (num = 0x11 ∧ n = 0x12)) : t.crValue n = s.crValue n := by
  have e := h.eng
  unfold State.crValue
  split
  · simp only [Eng.vlNow, e.raw, e.vl hn]
  · simp only [Eng.vtypeNow, e.raw, e.vtype hn]
  · simp only [e.vstart hn]
  · simp only [e.len (fun x => h4 ⟨x.symm, .inl rfl⟩)]
  · simp only [e.vlcap hn]
  · simp only [e.vregs]
  · exact h.dirty (fun x => h4 ⟨x.symm, .inr rfl⟩)
  · exact h.ven hn
  · simp only [e.lslip hn]
  · exact e.stripd hn
  · simp only [e.stripn hn]
  · exact e.vflags hn
  · simp only [e.sbchk hn]
  · exact e.uivec hn
  · exact e.ustk hn
  · simp only [e.ecode hn]
  · exact e.einfo hn
  · exact e.epc hn
  · exact e.estat (fun x => h11 ⟨x.symm, rfl⟩)
  · exact h.errinj hn
  · simp only [e.twait hn]
  · simp only [h.param]
  · have h40 : 0x40 ≤ n := by
      have hr := (crAssigned_iff n).mp ha
      simp only [imp_false] at *
      omega
    have hseg := e.seg (n - 0x40) (by rw [Nat.add_sub_cancel' h40]; exact hn)
    simp only [hseg]

/-! ### Changes of the executing engine -/

theorem me_updV (s : State) (w : VSt → VSt) : (s.updV s.core s.eng w).me = { s.me with v := w s.me.v } := State.me_updMe _ _

theorem updV_updMe (s : State) (f : Eng → Eng) (w : VSt → VSt) :
    (s.updMe f).updV s.core s.eng w = s.updMe (fun g => { f g with v := w (f g).v }) :=
  State.updMe_updMe s f _

/-- What a change of one engine leaves alone in it, it leaves alone in all engines. -/
theorem engs_updEng_proj {α : Type} (p : Eng → α) (n : Inst) (e : EngId) (f : Eng → Eng) (h : p (f n.engs[e]) = p n.engs[e])
    (i : Nat) (hi : i < 5) : p ((n.updEng e f).engs[i]) = p n.engs[i] := by
  by_cases hei : e = ⟨i, hi⟩
  · subst hei
    exact (congrArg p (Inst.engs_updEng n ⟨i, hi⟩ f)).trans h
  · exact congrArg p (Inst.engs_updEng_ne n e ⟨i, hi⟩ f (Ne.symm hei))

theorem venWord_updEng (n : Inst) (e : EngId) (f : Eng → Eng) (h : (f n.engs[e]).running = n.engs[e].running) :
    (n.updEng e f).venWord = n.venWord := by
  unfold Inst.venWord
  simp only [engs_updEng_proj Eng.running n e f h]
  rfl

theorem loadBits_updEng (k : Core) (e : EngId) (f : Eng → Eng) (hi : (f k.inst.engs[e]).v.inval = k.inst.engs[e].v.inval)
    (hh : (f k.inst.engs[e]).v.homes = k.inst.engs[e].v.homes) :
    ({ k with inst := k.inst.updEng e f } : Core).loadBits = k.loadBits := by
  unfold Core.loadBits VSt.homeBits
  simp only [engs_updEng_proj (fun g => g.v.inval) k.inst e f hi, engs_updEng_proj (fun g => g.v.homes) k.inst e f hh]
  rfl

theorem coreAt_updMe (s : State) (f : Eng → Eng) :
    (s.updMe f).coreAt s.core = { s.coreAt s.core with inst := (s.instAt s.core).updEng s.eng f } := by
  simp [State.updMe, State.updEng, State.updInst, State.instAt]

theorem vdirty_updMe (s : State) (f : Eng → Eng) (hr : (f s.me).tr.raw = s.me.tr.raw) (ht : (f s.me).v.tags = s.me.v.tags)
    (hi : (f s.me).v.inval = s.me.v.inval) (hh : (f s.me).v.homes = s.me.v.homes) : (s.updMe f).vdirty = s.vdirty := by
  unfold State.vdirty
  simp only [State.me_updMe, State.updMe_core, coreAt_updMe, hr, ht]
  rw [show s.instAt s.core = (s.coreAt s.core).inst from rfl, loadBits_updEng _ _ _ hi hh]
  rfl

theorem recOf_updMe (s : State) (f : Eng → Eng) : (s.updMe f).recOf s.core = s.recOf s.core := by
  have hlaunch : ((s.updMe f).instAt s.core).launch = (s.instAt s.core).launch := by
    rw [State.instAt, coreAt_updMe]; rfl
  simp only [State.recOf, State.launchOf, State.launchAt, hlaunch, State.updMe_launches]

theorem crRest_updMe {num : Nat} (s : State) (f : Eng → Eng) (h : CrEng num s.me (f s.me)) : CrRest num s (s.updMe f) where
  eng := by rw [State.me_updMe]; exact h
  dirty hn := vdirty_updMe s f h.raw (h.tags hn) (h.inval hn) h.homes
  ven _ := by
    rw [State.updMe_core, State.instAt, coreAt_updMe]
    exact venWord_updEng _ _ _ h.running
  errinj _ := by rw [State.updMe_core, coreAt_updMe]
  param := by rw [State.updMe_core, recOf_updMe]

theorem crStored_updMe {num : Nat} (s : State) (f : Eng → Eng) (h : CrEng num s.me (f s.me))
    (hpc : (f s.me).pc = s.me.pc := by rfl) : CrStored num s (s.updMe f) :=
  ⟨crRest_updMe s f h, by rw [State.me_updMe, hpc], bytesKept_of_onlyMe (updMe_onlyMe s f)⟩

theorem crStored_refl (num : Nat) (s : State) : CrStored num s s :=
  ⟨⟨{}, fun _ => rfl, fun _ => rfl, fun _ => rfl, rfl⟩, rfl, fun _ => rfl, fun _ _ => rfl⟩

/-! ### Changes of the core beside its engines -/

/-- Of a core, what a write of control register `num` leaves: its engines, S, and what VDIRTY, VEN and ERRINJ read. -/
structure CrCore (num : Nat) (k l : Core) : Prop where
  engs : l.inst.engs = k.inst.engs := by rfl
  launch : l.inst.launch = k.inst.launch := by rfl
  bufS : l.bufS = k.bufS := by rfl
  save : l.saveBits = k.saveBits := by rfl
  load : 0x04 ≠ num → l.loadBits = k.loadBits := by simp [Core.loadBits]
  ven : 0x07 ≠ num → l.inst.ven = k.inst.ven := by simp [Core.zeroSlices]
  errinj : 0x13 ≠ num → l.errinj = k.errinj := by simp [Core.zeroSlices]

theorem me_updCore (s : State) (F : Core → Core) (h : (F (s.coreAt s.core)).inst.engs = (s.coreAt s.core).inst.engs) :
    (s.updCore s.core F).me = s.me := by
  simp only [State.me, State.engAt, State.instAt, State.updCore_core, State.updCore_eng, State.coreAt_updCore, h]

theorem crStored_updCore {num : Nat} {s u : State} (h : CrStored num s u) (F : Core → Core)
    (hF : CrCore num (u.coreAt u.core) (F (u.coreAt u.core))) : CrStored num s (u.updCore u.core F) where
  eng := by rw [me_updCore u F hF.engs]; exact h.eng
  dirty hn := by
    rw [← h.dirty hn]
    unfold State.vdirty
    rw [me_updCore u F hF.engs, State.updCore_core, State.coreAt_updCore, hF.load hn, hF.save]
  ven hn := by
    rw [← h.ven hn, State.updCore_core, State.instAt, State.coreAt_updCore]
    simp only [Inst.venWord, hF.ven hn, hF.engs]
    rfl
  errinj hn := by rw [← h.errinj hn, State.updCore_core, State.coreAt_updCore]; exact hF.errinj hn
  param := by
    rw [← h.param]
    simp only [State.recOf, State.launchOf, State.launchAt, State.instAt, State.updCore_core, State.updCore_launches,
      State.coreAt_updCore, hF.launch]
  pc := by rw [me_updCore u F hF.engs]; exact h.pc
  bytes := by
    refine ⟨h.bytes.1, fun c a => ?_⟩
    rw [← h.bytes.2 c a]
    by_cases hc : c = u.core
    · rw [hc, State.coreAt_updCore, hF.bufS]
    · rw [State.coreAt_updCore_ne _ _ _ _ hc]

/-! ### VLCAP: the register length anew, and the tags (R98, R99) -/

/-- After a change that belongs to VLCAP, invalidating the registers touches nothing behind another control register. -/
theorem crStored_invalidate {s : State} (f : Eng → Eng) (h : CrEng 0x04 s.me (f s.me)) (hpc : (f s.me).pc = s.me.pc) :
    CrStored 0x04 s ((s.updMe f).invalidate s.core s.eng) := by
  have hcleared : ∀ b, CrStored 0x04 s
      (s.updMe (fun g => { f g with v := { (f g).v with tags := Vector.replicate 32 0, inval := b || (f g).v.inval } })) := fun b =>
    crStored_updMe s _ { h with tags := fun hn => absurd rfl hn, inval := fun hn => absurd rfl hn } hpc
  unfold State.invalidate State.unhold State.updInst
  simp only [updV_updMe]
  split
  · refine crStored_updCore (crStored_updCore (hcleared _) _ ?_) _ ?_
    · exact {}
    · exact {}
  · exact hcleared _

theorem crStored_reLen {s : State} (f : Eng → Eng) (h : CrEng 0x04 s.me (f s.me)) (hpc : (f s.me).pc = s.me.pc) :
    CrStored 0x04 s ((s.updMe f).reLen s.core s.eng) := by
  unfold State.reLen
  simp only [updV_updMe]
  split
  · exact crStored_updMe s f h hpc
  · exact crStored_invalidate _ { h with len := fun hn => absurd rfl hn } hpc

theorem me_invalidate (s : State) : ∃ b, (s.invalidate s.core s.eng).me =
    { s.me with v := { s.me.v with tags := Vector.replicate 32 0, inval := b } } := by
  refine ⟨!(s.coreAt s.core).owns || s.me.v.inval, ?_⟩
  unfold State.invalidate State.unhold State.updInst
  dsimp only
  split
  · exact (me_updCore _ _ rfl).trans ((me_updCore _ _ rfl).trans (me_updV s _))
  · exact me_updV s _

/-- `reLen` sets the length by R98, and clears the tags exactly where the length changes. -/
theorem v_reLen {u : State} {c : CoreId} {e : EngId} {g : VSt} (hv : u.me.v = g) (hc : u.core = c) (he : u.eng = e) :
    (u.reLen c e).me.v.vlcap = g.vlcap ∧ (u.reLen c e).me.v.len = regLen g.homes.length g.vregs g.vlcap ∧
      (u.reLen c e).me.v.tags = if regLen g.homes.length g.vregs g.vlcap = g.len then g.tags else Vector.replicate 32 0 := by
  subst hc he hv
  rw [show u.reLen u.core u.eng =
    if regLen u.me.v.homes.length u.me.v.vregs u.me.v.vlcap == u.me.v.len then u
    else (u.updV u.core u.eng (fun v =>
      { v with len := regLen u.me.v.homes.length u.me.v.vregs u.me.v.vlcap })).invalidate u.core u.eng
    from rfl]
  generalize regLen u.me.v.homes.length u.me.v.vregs u.me.v.vlcap = l
  by_cases hl : l = u.me.v.len
  · rw [if_pos (beq_iff_eq.mpr hl), if_pos hl]
    exact ⟨rfl, hl.symm, rfl⟩
  · rw [if_neg (fun h => hl (beq_iff_eq.mp h)), if_neg hl]
    obtain ⟨b, hb⟩ := me_invalidate (u.updV u.core u.eng (fun v => { v with len := l }))
    rw [me_updV] at hb
    have hcap := congrArg (fun g => g.v.vlcap) hb
    have hlen := congrArg (fun g => g.v.len) hb
    have htags := congrArg (fun g => g.v.tags) hb
    exact ⟨hcap, hlen, htags⟩

theorem v_crStore_vlcap (s : State) (v : Word) :
    (s.crStore 0x04 v).me.v.vlcap = storeCap v.toNat ∧
      (s.crStore 0x04 v).me.v.len = regLen s.me.v.homes.length s.me.v.vregs (storeCap v.toNat) ∧
      (s.crStore 0x04 v).me.v.tags =
        if regLen s.me.v.homes.length s.me.v.vregs (storeCap v.toNat) = s.me.v.len then s.me.v.tags else Vector.replicate 32 0 := by
  have hstore : s.crStore 0x04 v = (s.updV s.core s.eng (fun x => { x with vlcap := storeCap v.toNat })).reLen s.core s.eng := rfl
  have h := v_reLen (congrArg Eng.v (me_updV s (fun x => { x with vlcap := storeCap v.toNat })))
    (State.updV_core ..) (State.updV_eng ..)
  rw [hstore]
  exact h

theorem crStore_vlcap (s : State) (v : Word) :
    (s.crStore 0x04 v).me.v.len = regLen s.me.v.homes.length s.me.v.vregs (s.crStore 0x04 v).me.v.vlcap ∧
      if (s.crStore 0x04 v).me.v.len = s.me.v.len then (s.crStore 0x04 v).me.v.tags = s.me.v.tags
      else ∀ r : Fin 32, (s.crStore 0x04 v).me.v.tags[r] = 0 := by
  obtain ⟨hcap, hlen, htags⟩ := v_crStore_vlcap s v
  rw [htags, hlen, hcap]
  refine ⟨rfl, ?_⟩
  split
  · rfl
  · intro r; simp

/-! ### `crStore` leaves the rest -/

theorem getD_set_ne {n i j : Nat} (v : Vector Word n) (x : Word) (hi : i < n) (h : i ≠ j) :
    (v.set i x hi).toList.getD j 0 = v.toList.getD j 0 := by
  simp [List.getD_eq_getElem?_getD, Vector.getElem?_set_ne, h]

theorem getD_set_same {n i j : Nat} (v : Vector Word n) (x : Word) (hi : i < n) (h : i = j) :
    (v.set i x hi).toList.getD j 0 = x := by
  subst h
  simp [List.getD_eq_getElem?_getD, hi]

theorem crStore_stored (s : State) {num : Nat} (hnum : crAssigned num = true) (v : Word) : CrStored num s (s.crStore num v) := by
  have hself (num : Nat) : CrStored num s s := crStored_refl num s
  unfold State.crStore
  dsimp only
  split
  · split
    · exact hself _
    split
    · exact crStored_updMe s _ {}
    split
    · exact crStored_updMe s _ {}
    · exact hself _
  · split
    · exact crStored_updMe s _ {}
    · exact hself _
  · split
    · exact crStored_updMe s _ {}
    · exact hself _
  · exact crStored_reLen _ {} rfl
  · exact crStored_updCore (hself _) _ {}
  · split
    · exact hself _
    · exact crStored_updMe s _ {}
  iterate 9
    · exact crStored_updMe s _ {}
  · exact crStored_updCore (hself _) _ {}
  · exact crStored_updMe s _ {}
  iterate 5
    · exact hself _
  · have hrange : 0x40 ≤ num ∧ num < 0x80 := by
      have hr := (crAssigned_iff num).mp hnum
      simp only [imp_false] at *
      omega
    exact crStored_updMe s _ { seg := fun j hj => getD_set_ne _ _ (Nat.mod_lt _ (by decide)) (by omega) }

/-- A write that R4, R343 or R115 ignores stores nothing. -/
theorem crStore_ignored {s : State} {num : Nat} (h : crIgnored s num) (v : Word) : s.crStore num v = s := by
  rcases h with rfl | rfl | rfl | rfl | rfl | ⟨hc, hs, rfl | rfl | rfl⟩ | ⟨rfl, hd⟩
  iterate 5
    · rfl
  · have hc' : s.isCaller = false := beq_false_of_ne hc
    rcases hs with hs | hs <;> simp [State.crStore, State.sup, hc', hs]
  · rcases hs with hs | hs <;> simp [State.crStore, State.sup, hs]
  · rcases hs with hs | hs <;> simp [State.crStore, State.sup, hs]
  · simp only [State.crStore, hd, if_true]

/-! ### The written register reads the bits that exist (R4) -/

theorem toNat_wordN (n : Nat) : (wordN n).toNat = n % 2 ^ 64 := BitVec.toNat_ofNat n 64

/-- A field that begins at bit 0 is the word under the mask of its bits. -/
theorem wordN_fieldW_low (v : Word) (n : Nat) (h : n < 64) : wordN (fieldW v n 0) = v &&& wordN (2 ^ (n + 1) - 1) := by
  have hpos := Nat.two_pow_pos (n + 1)
  have hpow : 2 ^ (n + 1) ≤ 2 ^ 64 := Nat.pow_le_pow_right (by decide) h
  have hfield : fieldW v n 0 = v.toNat % 2 ^ (n + 1) := by simp [fieldW, bitsOf]
  apply BitVec.eq_of_toNat_eq
  rw [BitVec.toNat_and, hfield, toNat_wordN, toNat_wordN, Nat.mod_eq_of_lt (show 2 ^ (n + 1) - 1 < 2 ^ 64 by omega),
    Nat.and_two_pow_sub_one_eq_mod, Nat.mod_eq_of_lt (Nat.lt_of_lt_of_le (Nat.mod_lt _ hpos) hpow)]

theorem ite_getLsbD_zero (v : Word) : (if v.getLsbD 0 = true then 1 else 0 : Word) = v &&& 1 := by
  rw [show v &&& 1 = v &&& 1#64 from rfl, BitVec.and_one_eq_setWidth_ofBool_getLsbD]
  cases v.getLsbD 0 <;> rfl

theorem crStore_seg {num : Nat} (h : 0x40 ≤ num) (s : State) (v : Word) : s.crStore num v =
    s.updV s.core s.eng (fun x => { x with seg := x.seg.set ((num - 0x40) % 64) v (Nat.mod_lt _ (by decide)) }) := by
  unfold State.crStore
  split
  case h_23 => rfl
  all_goals contradiction

theorem crValue_seg {num : Nat} (h : 0x40 ≤ num) (s : State) : s.crValue num = s.me.v.seg.toList.getD (num - 0x40) 0 := by
  unfold State.crValue
  split
  case h_23 => rfl
  all_goals contradiction

theorem crStore_reads {s : State} {num : Nat} {m : Word} (hm : crMask s num = some m) (v : Word) :
    (s.crStore num v).crValue num = v &&& m := by
  have hlow := wordN_fieldW_low v
  unfold crMask at hm
  dsimp only at hm
  split at hm
  case h_1 =>
    obtain ⟨⟨hc, hr⟩, rfl⟩ : (s.eng = callerId ∧ s.me.tr.raw = false) ∧ 0xffffff = m := by simpa using hm
    have hcaller : s.isCaller = true := beq_iff_eq.mpr hc
    simp only [State.crStore, State.crValue, Eng.vlNow, hcaller, hr, if_true, Bool.false_eq_true, if_false, me_updV]
    exact hlow 23 (by decide)
  case h_2 =>
    obtain ⟨⟨-, hp, hr⟩, rfl⟩ : (s.eng ≠ callerId ∧ s.me.tr.priv = true ∧ s.me.tr.raw = false) ∧ 0xfffff = m := by
      simpa using hm
    simp only [State.crStore, State.crValue, State.sup, hp, hr, Bool.not_false, Bool.and_self, if_true, me_updV, Eng.vtypeNow,
      Bool.false_eq_true, if_false]
  case h_3 =>
    obtain ⟨⟨-, hp, hr⟩, rfl⟩ : (s.eng ≠ callerId ∧ s.me.tr.priv = true ∧ s.me.tr.raw = false) ∧ 0xffffff = m := by
      simpa using hm
    simp only [State.crStore, State.crValue, State.sup, hp, hr, Bool.not_false, Bool.and_self, if_true, me_updV]
    exact hlow 23 (by decide)
  case h_4 =>
    obtain ⟨⟨-, hd⟩, rfl⟩ : (s.eng ≠ callerId ∧ (s.recOf s.core).det = false) ∧ 0xf = m := by simpa using hm
    simp only [State.crStore, State.crValue, hd, Bool.false_eq_true, if_false, me_updV]
    exact hlow 3 (by decide)
  case h_15 =>
    obtain ⟨⟨h40, h80⟩, rfl⟩ : (0x40 ≤ num ∧ num < 0x80) ∧ 0xffffffffffffffff = m := by simpa using hm
    rw [crStore_seg h40, crValue_seg h40, me_updV]
    have hget := getD_set_same s.me.v.seg v (Nat.mod_lt (num - 0x40) (by decide)) (Nat.mod_eq_of_lt (by omega))
    exact hget.trans (BitVec.and_allOnes (x := v)).symm
  all_goals
    obtain rfl := Option.some.inj hm
    simp only [State.crStore, State.crValue, me_updV, State.me_updMe, State.updCore_core, State.coreAt_updCore]
  case h_6 | h_14 => exact hlow 31 (by decide)
  case h_8 => exact ite_getLsbD_zero v
  case h_10 => exact hlow 7 (by decide)
  case h_11 => exact (BitVec.and_allOnes (x := v)).symm

/-! ### VL of a thread, VLCAP, VEN and USTK (R100, R258, R343) -/

theorem floorPow2_bounds {n : Nat} (h : n ≠ 0) : floorPow2 n ≤ n ∧ n < 2 * floorPow2 n := by
  unfold floorPow2 lg
  rw [if_neg h, ← Nat.pow_succ']
  exact ⟨Nat.log2_self_le h, Nat.lt_log2_self⟩

/-- VLCAP is the written value rounded down to a power of two, and at least 1,024 (R100). -/
theorem storeCap_eq (n : Nat) : ∃ k ≤ 18, storeCap n = 2 ^ k ∧
    if n % 2 ^ 19 < 1024 then k = 10 else storeCap n ≤ n % 2 ^ 19 ∧ n % 2 ^ 19 < 2 * storeCap n := by
  have hlt : n % 2 ^ 19 < 2 ^ 19 := Nat.mod_lt _ (by decide)
  rw [show storeCap n = max 1024 (min 262144 (floorPow2 (n % 2 ^ 19))) from rfl]
  generalize n % 2 ^ 19 = m at *
  by_cases h : m < 1024
  · have hsmall : floorPow2 m ≤ 1024 := by
      by_cases h0 : m = 0
      · subst h0; decide
      · have := (floorPow2_bounds h0).1
        omega
    exact ⟨10, by decide, by omega, by rw [if_pos h]⟩
  · have h0 : m ≠ 0 := by omega
    have hk : floorPow2 m = 2 ^ Nat.log2 m := if_neg h0
    have hlow : 10 ≤ Nat.log2 m := (Nat.le_log2 h0).mpr (by omega)
    have hhigh : Nat.log2 m < 19 := (Nat.log2_lt h0).mpr hlt
    have h1 : 2 ^ 10 ≤ floorPow2 m := hk ▸ Nat.pow_le_pow_right (by decide) hlow
    have h2 : floorPow2 m ≤ 2 ^ 18 := hk ▸ Nat.pow_le_pow_right (by decide) (by omega)
    have hcap : max 1024 (min 262144 (floorPow2 m)) = floorPow2 m := by omega
    rw [hcap]
    exact ⟨Nat.log2 m, by omega, hk, by rw [if_neg h]; exact floorPow2_bounds h0⟩

/-- The run bit of thread `t` as VEN shows it. -/
def runBit (n : Inst) (t : Nat) : Nat := if (n.engs[t % 5]'(Nat.mod_lt _ (by decide))).running then 1 else 0

theorem runBit_le (n : Inst) (t : Nat) : runBit n t ≤ 1 := by
  unfold runBit; split <;> decide

/-- The read-only half of VEN. -/
def runBits (n : Inst) : Nat := runBit n 0 + runBit n 1 * 2 + runBit n 2 * 4 + runBit n 3 * 8

/-- VEN field by field: four weights of a byte, and the run bits above them (R100). -/
theorem venWord_toNat (n : Inst) : n.venWord.toNat =
    n.ven[0] % 256 + n.ven[1] % 256 * 2 ^ 8 + n.ven[2] % 256 * 2 ^ 16 + n.ven[3] % 256 * 2 ^ 24 + runBits n * 2 ^ 32 := by
  have hbit (t : Nat) : (if (n.engs[t % 5]'(Nat.mod_lt _ (by decide))).running then 2 ^ (32 + t) else 0) =
      runBit n t * 2 ^ (32 + t) := by
    unfold runBit; split <;> simp
  have hget (i : Nat) (hi : i < 4) : n.ven.toList.getD i 0 = n.ven[i] := by simp [List.getD_eq_getElem?_getD, hi]
  have h0 := runBit_le n 0
  have h1 := runBit_le n 1
  have h2 := runBit_le n 2
  have h3 := runBit_le n 3
  unfold Inst.venWord runBits
  simp only [hbit, toNat_wordN, hget 0 (by decide), hget 1 (by decide), hget 2 (by decide), hget 3 (by decide)]
  omega

theorem venWord_high {n m : Inst} (h : m.engs = n.engs) : m.venWord.toNat / 2 ^ 32 = n.venWord.toNat / 2 ^ 32 := by
  have hbits : runBits m = runBits n := by unfold runBits runBit; rw [h]
  rw [venWord_toNat, venWord_toNat, hbits]
  omega

theorem venWord_weight (n : Inst) (t : Fin 4) : n.venWord.toNat / 2 ^ (8 * t.val) % 2 ^ 8 = n.ven[t] % 256 := by
  have hword := venWord_toNat n
  match t with
  | ⟨0, _⟩ => show n.venWord.toNat / 2 ^ 0 % 2 ^ 8 = n.ven[0] % 256; omega
  | ⟨1, _⟩ => show n.venWord.toNat / 2 ^ 8 % 2 ^ 8 = n.ven[1] % 256; omega
  | ⟨2, _⟩ => show n.venWord.toNat / 2 ^ 16 % 2 ^ 8 = n.ven[2] % 256; omega
  | ⟨3, _⟩ => show n.venWord.toNat / 2 ^ 24 % 2 ^ 8 = n.ven[3] % 256; omega

theorem storeWeight_mod {x : Nat} (h : x < 256) : storeWeight x % 256 = max 1 x := by
  unfold storeWeight; split <;> omega

theorem crStore_shapes {s : State} {num : Nat} (h : crShaped s num) (w : Word) :
    crShape s num w ((s.crStore num w).crValue num) := by
  rcases h with ⟨rfl, hc, hp, hr⟩ | rfl | rfl | rfl
  · have hcaller : s.isCaller = false := beq_false_of_ne hc
    have hval : (s.crStore 0x00 w).crValue 0x00 = wordN (min (fieldW w 23 0) (grantable s.me.v.vtype s.me.v.len)) := by
      simp only [State.crStore, State.crValue, State.sup, hcaller, hp, hr, Bool.false_eq_true, if_false, if_true, me_updV, Eng.vlNow]
    rw [hval]
    simp [crShape, toNat_wordN, fieldW, bitsOf, grantable, vtG, vtGrp, vtBits, vtFmt, vtBw]
  · obtain ⟨k, hle, hk, hbound⟩ := storeCap_eq w.toNat
    have hval : (s.crStore 0x04 w).crValue 0x04 = wordN (storeCap w.toNat) := congrArg wordN (v_crStore_vlcap s w).1
    have hnat : (wordN (storeCap w.toNat)).toNat = storeCap w.toNat := by
      rw [toNat_wordN, hk]
      exact Nat.mod_eq_of_lt (Nat.pow_lt_pow_right (by decide) (by omega))
    rw [hval]
    refine ⟨k, hnat.trans hk, ?_⟩
    rw [hnat]
    exact hbound
  · simp only [State.crStore, State.crValue, State.updInst_core, State.instAt_updInst]
    refine ⟨venWord_high rfl, fun t => ?_⟩
    rw [venWord_weight]
    simp only [Fin.getElem_fin, Vector.getElem_ofFn, fieldW, bitsOf]
    rw [show 8 * t.val + 7 + 1 - 8 * t.val = 8 by omega]
    exact storeWeight_mod (Nat.mod_lt _ (by decide))
  · simp only [State.crStore, State.crValue, State.me_updMe, crShape, Eng.ustk, toNat_wordN, fieldW, bitsOf]
    omega

/-! ### Completion (R304) -/

theorem me_finish (s : State) (n : Nat) (stl : Stl) (outs : List (Nat × Nat)) :
    (s.finish n stl outs).me = finished s.clk n stl outs s.me := State.me_updMe _ _

theorem crEng_finished (num clk n : Nat) (stl : Stl) (outs : List (Nat × Nat)) (g : Eng) :
    CrEng num g (finished clk n stl outs g) := by
  unfold finished
  exact {}

theorem crValue_finish (s : State) {n : Nat} (ha : crAssigned n = true) (bytes : Nat) (stl : Stl) (outs : List (Nat × Nat)) :
    (s.finish bytes stl outs).crValue n = s.crValue n := by
  have h : CrRest (n + 0x12) s (s.finish bytes stl outs) :=
    crRest_updMe s (finished s.clk bytes stl outs) (crEng_finished _ _ _ _ _ _)
  exact crValue_of_rest h ha (by omega) (by omega) (by omega)

theorem finish_completed (s : State) (n : Nat) (stl : Stl) (outs : List (Nat × Nat)) : completed s (s.finish n stl outs) :=
  updMe_completed s (finished s.clk n stl outs) rfl

/-- The frame of a write: its instruction completes with no scalar register and no byte of memory changed. -/
theorem finish_of_stored {num : Nat} {s u : State} (h : CrStored num s u) (stl : Stl) :
    regsKept s.me (u.finish 4 stl []).me ∧ (u.finish 4 stl []).me.preds = s.me.preds ∧
      (u.finish 4 stl []).me.pc = s.me.pc + 4 ∧ bytesKept s (u.finish 4 stl []) := by
  obtain ⟨hmem, hbuf⟩ : bytesKept u (u.finish 4 stl []) := bytesKept_of_onlyMe (updMe_onlyMe u _)
  rw [me_finish]
  refine ⟨h.eng.regs, h.eng.preds, ?_, fun a => (hmem a).trans (h.bytes.1 a), fun c a => (hbuf c a).trans (h.bytes.2 c a)⟩
  rw [← h.pc]; rfl

/-! ### The instructions (R342 to R344) -/

theorem exec_crWr (r : SReg) (num : BitVec 12) (stl : Stl) (s : State) :
    exec (.crWr r num stl) s = s.crWrite (.crWr r num stl) num (fun _ => s.rg r) stl := rfl

theorem exec_crSet (r : SReg) (num : BitVec 12) (stl : Stl) (s : State) :
    exec (.crSet r num stl) s = s.crWrite (.crSet r num stl) num (fun old => old ||| s.rg r) stl := rfl

theorem exec_crClr (r : SReg) (num : BitVec 12) (stl : Stl) (s : State) :
    exec (.crClr r num stl) s = s.crWrite (.crClr r num stl) num (fun old => old &&& ~~~ s.rg r) stl := rfl

theorem crAssigned_of_control {i : Instr} {num : BitVec 12} (hwf : i.wf = true) (hop : crOp i = some (num, true)) :
    crAssigned num.toNat = true := by
  unfold crOp at hop
  split at hop <;> cases hop <;> exact hwf

/-- The codes of the statement are those of the model: which of them applies hangs on the engine's kind and its privilege. -/
theorem crFault_none {s : State} {num : BitVec 12} (ha : crAssigned num.toNat = true) (h : crCodeNow s num true = none) :
    s.crFault num.toNat true = none := by
  have hrange := (crAssigned_iff _).mp ha
  unfold crCodeNow crCode at h
  unfold State.crFault crThreadOnly crPriv State.isCaller State.sup Eng.taskOpen
  generalize num.toNat = n at *
  generalize (s.eng == callerId) = c at *
  generalize s.me.tr.priv = p at *
  cases c <;> cases p <;> grind

/-- An allowed write that need not wait stores the new value and completes. -/
theorem exec_controlWrite {i : Instr} {s : State} {num : BitVec 12} (hwf : i.wf = true) (hop : crOp i = some (num, true))
    (hcode : crCodeNow s num true = none) (hwait : crNoWait s) :
    ∃ v stl, crNew s (s.crValue num.toNat) i = some v ∧ exec i s = .next ((s.crStore num.toNat v).finish 4 stl []) := by
  have hgo : (!s.isCaller && crWaits num.toNat true && !s.me.v.vq.isEmpty) = false := by
    rcases hwait with h | h
    · simp [State.isCaller, h]
    · simp [h]
  have hwrite (j : Instr) (f : Word → Word) (stl : Stl) :
      s.crWrite j num f stl = .next ((s.crStore num.toNat (f (s.crValue num.toNat))).finish 4 stl []) := by
    unfold State.crWrite
    rw [crFault_none (crAssigned_of_control hwf hop) hcode]
    simp only [hgo, Bool.false_eq_true, if_false]
  unfold crOp at hop
  split at hop <;> cases hop
  · exact ⟨_, _, rfl, (exec_crWr _ _ _ _).trans (hwrite _ _ _)⟩
  · exact ⟨_, _, rfl, (exec_crSet _ _ _ _).trans (hwrite _ _ _)⟩
  · exact ⟨_, _, rfl, (exec_crClr _ _ _ _).trans (hwrite _ _ _)⟩

/-- Every other control register reads as before once the write has completed. -/
theorem crValue_write_ne {s : State} {num n : BitVec 12} (hnum : crAssigned num.toNat = true) (hn : crAssigned n.toNat = true)
    (hne : n ≠ num) (h4 : ¬ (num.toNat = 0x04 ∧ (n.toNat = 0x03 ∨ n.toNat = 0x06)))
    (h11 : ¬ (num.toNat = 0x11 ∧ n.toNat = 0x12)) (v : Word) (stl : Stl) :
    ((s.crStore num.toNat v).finish 4 stl []).crValue n.toNat = s.crValue n.toNat :=
  (crValue_finish _ hn _ _ _).trans
    (crValue_of_rest (crStore_stored s hnum v).toCrRest hn (fun h => hne (BitVec.eq_of_toNat_eq h)) h4 h11)

/-- Settles O14: `crStore` stores the bits that exist and leaves what stands behind every other control register. -/
theorem controlRegisterWrite : Obligations.control_register_write := by
  unfold Obligations.control_register_write
  intro i s num hwf hop hcode hwait
  have hnum := crAssigned_of_control hwf hop
  obtain ⟨v, stl, hnew, hexec⟩ := exec_controlWrite hwf hop hcode hwait
  obtain ⟨hregs, hpreds, hpc, hbytes⟩ := finish_of_stored (crStore_stored s hnum v) stl
  refine ⟨fun m w hm hw => ?_, fun w hs hw => ?_, fun hi => ?_⟩
  · obtain rfl := Option.some.inj (hnew.symm.trans hw)
    have h4 : num.toNat ≠ 0x04 := fun h => by rw [h] at hm; cases hm
    refine ⟨_, hexec, (crValue_finish _ hnum _ _ _).trans (crStore_reads hm v), fun n hn hne h11 => ?_, hregs, hpreds, hpc, hbytes⟩
    exact crValue_write_ne hnum hn hne (fun h => h4 h.1) h11 v stl
  · obtain rfl := Option.some.inj (hnew.symm.trans hw)
    have h11 : num.toNat ≠ 0x11 := fun h => by
      rw [h] at hs; rcases hs with ⟨h, -⟩ | h | h | h <;> cases h
    refine ⟨_, hexec, ?_, fun n hn hne h4 => ?_, fun h => ?_, hregs, hpreds, hpc, hbytes⟩
    · rw [crValue_finish _ hnum]
      exact crStore_shapes hs v
    · exact crValue_write_ne hnum hn hne h4 (fun h => h11 h.1) v stl
    · have hv : ((s.crStore num.toNat v).finish 4 stl []).me.v = (s.crStore num.toNat v).me.v := by rw [me_finish]; rfl
      rw [hv, h]
      exact crStore_vlcap s v
  · refine ⟨_, hexec, hregs, hpreds, hpc, ?_⟩
    rw [crStore_ignored hi]
    exact finish_completed s 4 stl []

end Sys2Proof.ControlRegisters

/-! ## Launches (O47: R75 to R78, R81, R83, R87, R93, R107, R108, R153, R274)

A step of a launch's life is one operation of the dispatcher or of a core. For each there is a lemma `exec_…` that says which state it
answers when it is due, lemmas that say what that state leaves alone (the structures `VectorOnly`, `SameMemory`, `RespondFrame`,
`RoundKept`), and a lemma `…_step` that draws the statement's clause from them. -/

namespace Sys2Proof.LaunchSteps

open Sys2Proof Sys2Proof.Machine Sys2Proof.Claims Sys2Proof.Laws

/-! ### Fields of records, and what is read back from where it was written (R1) -/

@[simp] theorem bytesLE_length (k n : Nat) : (bytesLE k n).length = k := by
  induction k generalizing n with
  | zero => rfl
  | succ k ih => simp [bytesLE, ih]

theorem numLE_bytesLE (k n : Nat) : numLE (bytesLE k n) = n % 256 ^ k := by
  induction k generalizing n with
  | zero => simp [bytesLE, numLE, Nat.mod_one]
  | succ k ih =>
    have hbyte : (BitVec.ofNat 8 n).toNat = n % 256 := BitVec.toNat_ofNat n 8
    rw [bytesLE, numLE, ih, hbyte, Nat.pow_succ', Nat.mod_mul]

theorem bytesLE_getElem (k n i : Nat) (h : i < (bytesLE k n).length) : (bytesLE k n)[i].toNat = n / 256 ^ i % 256 := by
  induction k generalizing n i with
  | zero => simp at h
  | succ k ih =>
    cases i with
    | zero => simp [bytesLE]
    | succ i =>
      have hi : i < (bytesLE k (n / 256)).length := by simpa using h
      have hstep : (bytesLE (k + 1) n)[i + 1].toNat = (bytesLE k (n / 256))[i].toNat := rfl
      rw [hstep, ih _ _ hi, Nat.div_div_eq_div_mul, ← Nat.pow_succ']

/-- A number written as bytes among others is the field at its offset. -/
theorem fieldLE_append {off : Nat} (pre post : List Byte) (k n : Nat) (h : pre.length = off) :
    fieldLE (pre ++ bytesLE k n ++ post) off k = n % 256 ^ k := by
  subst h
  unfold fieldLE
  rw [List.append_assoc, List.drop_left, List.take_left' (bytesLE_length k n), numLE_bytesLE]

theorem numLE_lt (bs : List Byte) : numLE bs < 256 ^ bs.length := by
  induction bs with
  | nil => simp [numLE]
  | cons b bs ih =>
    have hb : b.toNat < 256 := b.isLt
    rw [numLE, List.length_cons, Nat.pow_succ']
    omega

theorem fieldLE_lt (bs : List Byte) (off len : Nat) : fieldLE bs off len < 256 ^ len :=
  Nat.lt_of_lt_of_le (numLE_lt _) (Nat.pow_le_pow_right (by decide) (List.length_take_le _ _))

/-- A field is 0 where all its bytes are. -/
theorem numLE_eq_zero (bs : List Byte) : numLE bs = 0 ↔ bs.all (· == 0) = true := by
  induction bs with
  | nil => simp [numLE]
  | cons b bs ih =>
    have hb : b.toNat = 0 ↔ b = 0 := ⟨fun h => BitVec.eq_of_toNat_eq h, fun h => by rw [h]; rfl⟩
    simp only [numLE, List.all_cons, Bool.and_eq_true, beq_iff_eq, ← ih, ← hb]
    omega

/-- What has been written is read back whole. -/
theorem readBytes_writeBytes (m : Memory) (a : Nat) (bs : List Byte) : (m.writeBytes a bs).readBytes a bs.length = bs := by
  induction bs generalizing m a with
  | nil => rfl
  | cons b bs ih =>
    rw [Memory.writeBytes, List.length_cons, Memory.readBytes, ih, Memory.read_writeBytes_out (.inl (Nat.lt_succ_self a)),
      Memory.read_write_same]

/-! ### Responses (R68, R70) -/

theorem responseBytes_length (op status : Nat) (tag : BitVec 32) (word : Word) : (responseBytes op status tag word).length = 32 := by
  simp [responseBytes]

theorem responseBytes_fields (op status : Nat) (tag : BitVec 32) (word : Word) :
    let bs := responseBytes op status tag word
    fieldLE bs 0 1 = op % 256 ∧ fieldLE bs 1 1 = status % 256 ∧ fieldLE bs 4 4 = tag.toNat ∧ fieldLE bs 8 8 = word.toNat := by
  have htag : tag.toNat % 256 ^ 4 = tag.toNat := Nat.mod_eq_of_lt tag.isLt
  have hword : word.toNat % 256 ^ 8 = word.toNat := Nat.mod_eq_of_lt word.isLt
  refine ⟨?_, ?_, ?_, ?_⟩
  · simp [responseBytes, bytesLE, fieldLE, numLE]
  · have hstatus : (op % 256 + status % 256 * 256) / 256 % 256 = status % 256 := by omega
    simpa [responseBytes, bytesLE, fieldLE, numLE] using hstatus
  · rw [← htag]
    unfold responseBytes
    rw [List.append_assoc _ (bytesLE 8 _)]
    exact fieldLE_append _ _ _ _ (bytesLE_length _ _)
  · rw [← hword]
    exact fieldLE_append _ _ _ _ (by simp)

/-- A response for which the ring has room stands in it. -/
theorem pushRsp_responded (s : State) (h : ringFree s) (op status : Nat) (tag : BitVec 32) (word : Word) :
    responded s (s.pushRsp (responseBytes op status tag word)) op status tag ∧
      fieldLE ((s.pushRsp (responseBytes op status tag word)).mbox.rings.readBytes
        (0x9000 + s.mbox.rsppi.toNat % 256 * 32) 32) 8 8 = word.toNat := by
  obtain ⟨hwaiting, hroom⟩ := h
  obtain ⟨hop, hstatus, htag, hword⟩ := responseBytes_fields op status tag word
  have hgo : (s.mbox.waiting.isEmpty && decide (s.mbox.rsppi.toNat < s.mbox.rspci.toNat + 256)) = true := by
    simp [hwaiting, hroom]
  have hread : ∀ a, (s.mbox.rings.writeBytes a (responseBytes op status tag word)).readBytes a 32 = responseBytes op status tag word :=
    fun a => responseBytes_length op status tag word ▸ readBytes_writeBytes _ a _
  simp only [responded, State.pushRsp, hgo, if_true, hread, true_and]
  exact ⟨⟨hop, hstatus, htag⟩, hword⟩

/-- What answering a submitter leaves alone. -/
structure RespondFrame (s t : State) : Prop where
  mem : t.mem = s.mem
  cores : t.cores = s.cores
  launches : t.launches = s.launches
  nextId : t.nextId = s.nextId
  round : t.round = s.round
  subs : t.subs = s.subs
  hub : t.hub = s.hub

theorem RespondFrame.refl (s : State) : RespondFrame s s := ⟨rfl, rfl, rfl, rfl, rfl, rfl, rfl⟩

theorem respond_frame (s : State) (who : Submitter) (op status : Nat) (tag : BitVec 32) (word : Word) :
    RespondFrame s (s.respond who op status tag word) := by
  cases who with
  | host =>
    show RespondFrame s (s.pushRsp _)
    unfold State.pushRsp
    dsimp only
    split <;> exact ⟨rfl, rfl, rfl, rfl, rfl, rfl, rfl⟩
  | pkg port spkg => exact ⟨rfl, rfl, rfl, rfl, rfl, rfl, rfl⟩
  | core c => exact .refl s
  | runtime port => exact .refl s

/-! ### Pre-emption and resuming (R107, R108, R113, R117, R274) -/

/-- `h` keeps the scalar registers, predicates and pc of `g`, and its trap registers with EPC as a stop at the points of R107 sets it. -/
structure StoppedEng (g h : Eng) : Prop where
  regs : h.regs = g.regs := by rfl
  preds : h.preds = g.preds := by rfl
  pc : h.pc = g.pc := by rfl
  tr : h.tr = { g.tr with epc := stopEpc g }
  frozen : h.frozen = g.frozen := by rfl
  thaw : h.thaw = g.thaw := by rfl

theorem stoppedEng_atStop (g : Eng) : StoppedEng g g.atStop := by
  unfold Eng.atStop
  split
  next hvq => exact { tr := by rw [stopEpc, hvq] }
  next q rest hvq =>
    cases hstart : q.start with
    | none => exact { tr := by simp [stopEpc, hvq, hstart] }
    | some i => exact { tr := by simp [stopEpc, hvq, hstart] }

theorem getElem_map_engs (n : Inst) (f : Eng → Eng) (e : EngId) : (n.engs.map f)[e] = f n.engs[e] := by simp

/-! A core that is retired changes in its two marks alone. -/

theorem endParkedOn_frame (s : State) (c : CoreId) : (s.endParkedOn c).cores = s.cores ∧ (s.endParkedOn c).mem = s.mem := by
  unfold State.endParkedOn
  dsimp only
  split <;> exact ⟨rfl, rfl⟩

theorem endNextOn_frame (s : State) (c : CoreId) : (s.endNextOn c).cores = s.cores ∧ (s.endNextOn c).mem = s.mem := by
  unfold State.endNextOn
  split <;> exact ⟨rfl, rfl⟩

theorem retireNow_frame (s : State) (c : CoreId) :
    (s.retireNow c).cores = (s.updCore c (fun k => { k with retired := true, retirePend := false })).cores ∧
      (s.retireNow c).mem = s.mem := by
  unfold State.retireNow
  obtain ⟨hcores, hmem⟩ := endNextOn_frame ((s.updCore c (fun k => { k with retired := true, retirePend := false })).endParkedOn c) c
  obtain ⟨hcores', hmem'⟩ := endParkedOn_frame (s.updCore c (fun k => { k with retired := true, retirePend := false })) c
  exact ⟨hcores.trans hcores', hmem.trans hmem'⟩

theorem onlyCore_updCore (s : State) (c : CoreId) (f : Core → Core) : onlyCore s (s.updCore c f) c := by
  unfold onlyCore
  rw [State.coreAt_updCore]
  rfl

theorem coreAt_of_cores {s t : State} (h : t.cores = s.cores) (c : CoreId) : t.coreAt c = s.coreAt c := by
  unfold State.coreAt; rw [h]

/-- A pre-emption that is due parks what runs on the core (`Core.parkInst`); the core may then be retired besides, and nothing else of the
cores changes. -/
theorem exec_preEmption {s : State} {c : CoreId} (hreq : (s.coreAt c).preReq = true) (hhalt : s.haltedAt c = false)
    (hlive : (s.instAt c).live = true) (hstop : s.atStops c = true) :
    ∃ t r p, exec (.preEmption c) s = .next t ∧ t.mem = s.mem ∧
      t.cores = (s.updCore c (fun k => { k.parkInst s.clk s.freeCtr with retired := r, retirePend := p })).cores := by
  have hlive' : (s.coreAt c).inst.live = true := hlive
  show ∃ t r p, execPreEmption c s = .next t ∧ _
  unfold execPreEmption
  simp only [hreq, hhalt, hlive', hstop, Bool.not_true, Bool.or_self, Bool.false_eq_true, if_false]
  split
  · obtain ⟨hcores, hmem⟩ := retireNow_frame
      { s.free.2.updCore c (fun k => k.parkInst s.clk s.freeCtr) with
        links := s.links.map (fun l => if l.core == c then { l with parkedInst := true } else l) } c
    exact ⟨_, true, false, rfl, hmem, hcores.trans (by simp [State.updCore, State.free])⟩
  · split <;> exact ⟨_, (s.coreAt c).retired, (s.coreAt c).retirePend, rfl, rfl, rfl⟩

theorem preEmption_step (s : State) (c : CoreId) (h : launchStepPre s (.preEmption c)) :
    ∃ t, exec (.preEmption c) s = .next t ∧ launchStepPost s t (.preEmption c) := by
  obtain ⟨hreq, hhalt, hlive, hstop⟩ := h
  obtain ⟨t, r, p, hexec, hmem, hcores⟩ := exec_preEmption hreq hhalt hlive hstop
  have hcore := (coreAt_of_cores hcores c).trans (State.coreAt_updCore _ _ _)
  have hinst : t.instAt c = Inst.reset := congrArg Core.inst hcore
  have hparked : (t.coreAt c).parked = (s.instAt c).park s.clk := congrArg Core.parked hcore
  have heng : ∀ e : EngId, StoppedEng (s.engAt c e) ((t.coreAt c).parked.engs[e]) := fun e => by
    obtain ⟨regs, preds, pc, tr, frozen, thaw⟩ := stoppedEng_atStop (s.engAt c e)
    have hpark : (t.coreAt c).parked.engs[e] = (s.engAt c e).park := by
      rw [hparked]; exact getElem_map_engs (s.instAt c) Eng.park e
    rw [hpark]
    exact ⟨regs, preds, pc, tr, frozen, thaw⟩
  refine ⟨t, hexec, ?_, ?_, hinst, congrArg Core.preReq hcore, hmem, fun d hd => ?_, fun e => ?_⟩
  · rw [hparked]; exact hlive
  · rw [hparked]; rfl
  · rw [coreAt_of_cores hcores d, State.coreAt_updCore_ne _ _ _ _ hd]
  · exact ⟨(heng e).regs, (heng e).preds, (heng e).pc, (heng e).tr⟩

/-- Only the vector parts of a core's engines differ, with what the vector image holds and the register file. -/
structure VectorOnly (c : CoreId) (s t : State) : Prop where
  mem : t.mem = s.mem
  other : ∀ d, d ≠ c → t.coreAt d = s.coreAt d
  core : { t.coreAt c with inst := Inst.reset, vrf := [] } = { s.coreAt c with inst := Inst.reset, vrf := [] }
  inst : { t.instAt c with engs := Inst.reset.engs, held := 0 } = { s.instAt c with engs := Inst.reset.engs, held := 0 }
  eng : ∀ e, { t.engAt c e with v := VSt.reset } = { s.engAt c e with v := VSt.reset }

theorem VectorOnly.refl (c : CoreId) (s : State) : VectorOnly c s s := ⟨rfl, fun _ _ => rfl, rfl, rfl, fun _ => rfl⟩

theorem VectorOnly.trans {c : CoreId} {s t u : State} (h : VectorOnly c s t) (k : VectorOnly c t u) : VectorOnly c s u :=
  ⟨k.mem.trans h.mem, fun d hd => (k.other d hd).trans (h.other d hd), k.core.trans h.core, k.inst.trans h.inst,
    fun e => (k.eng e).trans (h.eng e)⟩

theorem vectorOnly_updV (s : State) (c : CoreId) (e : EngId) (f : VSt → VSt) : VectorOnly c s (s.updV c e f) where
  mem := rfl
  other d hd := State.coreAt_updCore_ne _ _ _ _ hd
  core := by simp [State.updV, State.updEng, State.updInst]
  inst := by simp [State.updV, State.updEng, Inst.updEng]
  eng d := by
    by_cases hd : d = e
    · subst hd; simp [State.updV]
    · rw [State.updV, State.engAt_updEng_ne _ _ _ _ _ _ (.inr hd)]

theorem vectorOnly_updCore (s : State) (c : CoreId) (f : Core → Core)
    (hcore : ∀ k, { f k with inst := Inst.reset, vrf := [] } = { k with inst := Inst.reset, vrf := [] })
    (hinst : ∀ k, { (f k).inst with held := 0 } = { k.inst with held := 0 }) : VectorOnly c s (s.updCore c f) := by
  have hat : (s.updCore c f).instAt c = (f (s.coreAt c)).inst := congrArg Core.inst (State.coreAt_updCore s c f)
  refine ⟨rfl, fun d hd => State.coreAt_updCore_ne _ _ _ _ hd, ?_, ?_, fun e => ?_⟩
  · rw [State.coreAt_updCore]; exact hcore _
  · rw [hat]; exact congrArg (fun n : Inst => { n with engs := Inst.reset.engs }) (hinst (s.coreAt c))
  · rw [State.engAt, hat]
    exact congrArg (fun n : Inst => { n.engs[e] with v := VSt.reset }) (hinst (s.coreAt c))

theorem vectorOnly_unhold (s : State) (c : CoreId) (e : EngId) : VectorOnly c s (s.unhold c e) :=
  vectorOnly_updCore s c (fun k => { k with inst := { k.inst with held := _ } }) (fun _ => rfl) (fun _ => rfl)

theorem vectorOnly_zeroSlices (s : State) (c : CoreId) (homes : List Nat) : VectorOnly c s (s.updCore c (fun k => k.zeroSlices homes)) :=
  vectorOnly_updCore s c (fun k => k.zeroSlices homes) (fun _ => rfl) (fun _ => rfl)

theorem vectorOnly_invalidate (s : State) (c : CoreId) (e : EngId) : VectorOnly c s (s.invalidate c e) := by
  unfold State.invalidate
  dsimp only
  split
  · exact ((vectorOnly_updV s c e _).trans (vectorOnly_zeroSlices _ c _)).trans (vectorOnly_unhold _ c e)
  · exact vectorOnly_updV s c e _

theorem vectorOnly_reshape (s : State) (c : CoreId) (t : Nat) : VectorOnly c s (s.reshape c t) := by
  unfold State.reshape State.moveHomes
  dsimp only
  split
  · exact VectorOnly.refl c s
  · exact ((vectorOnly_unhold s c _).trans (vectorOnly_updV _ c _ _)).trans (vectorOnly_invalidate _ c _)

theorem vectorOnly_reshapes (c : CoreId) (ts : List Nat) (s : State) :
    VectorOnly c s (ts.foldl (fun s t => s.reshape c t) s) := by
  induction ts generalizing s with
  | nil => exact VectorOnly.refl c s
  | cons t ts ih => exact (vectorOnly_reshape s c t).trans (ih _)

/-- A core in which the parked `p` goes on, `d` ck after it was parked. -/
def resumedCore (p : Inst) (d : Nat) (k : Core) : Core :=
  { k with
    inst := { p with
      engs := p.engs.map (fun g => g.unpark d), ports := p.ports.map Port.unpark, resumed := true, stopped := false },
    parked := Inst.reset, resumeReq := false, imgCrc := none, owner := if k.owner == .parked then .running else k.owner,
    tlb := k.tlb.map (fun t => { t with parked := false }) }

/-- A resume that is due puts what was parked in place; then its threads may take other home groups. -/
theorem exec_instanceResume {s : State} {c : CoreId} (hpre : launchStepPre s (.instanceResume c)) :
    ∃ t d, exec (.instanceResume c) s = .next t ∧ VectorOnly c (s.updCore c (resumedCore (s.coreAt c).parked d)) t := by
  obtain ⟨hreq, hlive, hret, hhalt, hparked, hstop, himg⟩ := hpre
  have hlive' : (s.coreAt c).inst.live = false := hlive
  have hexec : ∃ u d, exec (.instanceResume c) s = .next ((List.range 4).foldl (fun s t => s.reshape c t) u) ∧
      VectorOnly c (s.updCore c (resumedCore (s.coreAt c).parked d)) u := by
    show ∃ u d, execInstanceResume c s = _ ∧ _
    unfold execInstanceResume
    dsimp only
    rw [if_neg (by simp [hreq, hlive', hret, hhalt]), if_neg (by simp [hparked, hstop]), if_neg (by simp [himg])]
    exact ⟨_, s.clk - (s.coreAt c).parked.parkedAt, rfl, rfl, fun _ _ => rfl, rfl, rfl, fun _ => rfl⟩
  obtain ⟨u, d, hexec, hu⟩ := hexec
  exact ⟨_, d, hexec, hu.trans (vectorOnly_reshapes c _ u)⟩

theorem instanceResume_step (s : State) (c : CoreId) (h : launchStepPre s (.instanceResume c)) :
    ∃ t, exec (.instanceResume c) s = .next t ∧ launchStepPost s t (.instanceResume c) := by
  obtain ⟨t, d, hexec, hvec⟩ := exec_instanceResume h
  have hlive : (s.coreAt c).parked.live = true := by
    obtain ⟨-, -, -, -, hparked, -, -⟩ := h
    exact hparked
  have hat : (s.updCore c (resumedCore (s.coreAt c).parked d)).coreAt c = resumedCore (s.coreAt c).parked d (s.coreAt c) :=
    State.coreAt_updCore _ _ _
  have hcore := hvec.core
  have hinst := hvec.inst
  have heng := hvec.eng
  unfold State.engAt at heng
  simp only [State.instAt, hat] at hcore hinst heng
  have hlaunch := congrArg Inst.launch hinst
  have hreset := congrArg Core.parked hcore
  have hreq := congrArg Core.resumeReq hcore
  refine ⟨t, hexec, (congrArg Inst.live hinst).trans hlive, hlaunch, hreset, hreq, hvec.mem, fun d' hd' => ?_, fun e => ?_⟩
  · rw [hvec.other d' hd', State.coreAt_updCore_ne _ _ _ _ hd']
  · obtain ⟨regs, preds, pc, tr, frozen, thaw⟩ := stoppedEng_atStop ((s.coreAt c).parked.engs[e])
    have he := heng e
    rw [show (resumedCore (s.coreAt c).parked d (s.coreAt c)).inst.engs[e] = ((s.coreAt c).parked.engs[e]).unpark d from
      getElem_map_engs (s.coreAt c).parked (fun g => g.unpark d) e] at he
    refine ⟨(congrArg Eng.regs he).trans regs, (congrArg Eng.preds he).trans preds, (congrArg Eng.pc he).trans pc,
      (congrArg Eng.tr he).trans tr, (congrArg Eng.frozen he).trans ?_⟩
    rw [← frozen, ← thaw]; rfl

/-! ### Start (R87) -/

/-- Arrivals that came early change the barriers alone. -/
theorem arrivals_bars (bs : List (BitVec 6)) (n : Inst) :
    bs.foldl (fun n b => n.arrive b) n = { n with bars := (bs.foldl (fun n b => n.arrive b) n).bars } := by
  induction bs generalizing n with
  | nil => rfl
  | cons b bs ih => rw [List.foldl_cons, ih (n.arrive b)]; rfl

theorem exec_instanceStart {s : State} {c : CoreId} {id : Nat} (hnext : (s.coreAt c).next = some id)
    (hlive : (s.instAt c).live = false) (hret : (s.coreAt c).retired = false) (hhalt : s.haltedAt c = false)
    (hstop : (s.launchAt id).stopping = false) (hrun : (s.launchAt id).st = .running) :
    exec (.instanceStart c) s = .next (s.startInst c (s.launchAt id)) := by
  have hlive' : (s.coreAt c).inst.live = false := hlive
  show execInstanceStart c s = _
  unfold execInstanceStart
  simp [hnext, hlive', hret, hhalt, hstop, hrun]

/-- A core after a start: it runs `Inst.boot`'s, with the arrivals that came before it. -/
theorem coreAt_startInst (s : State) (c : CoreId) (l : Launch) : ∃ bars, (s.startInst c l).coreAt c =
    { (s.coreAt c).freshWindows l.rec_.fg with
      inst := { Inst.boot l c (s.coreAt c).lanesOut with bars := bars }, next := none, early := [] } :=
  ⟨_, (State.coreAt_updCore s c _).trans
    (congrArg (fun n => ({ (s.coreAt c).freshWindows l.rec_.fg with inst := n, next := none, early := [] } : Core))
      (arrivals_bars (s.coreAt c).early (Inst.boot l c (s.coreAt c).lanesOut)))⟩

theorem boot_caller_regs (r : LRec) (lidx : Nat) (homes : List Nat) (i : Fin 32) :
    (Eng.boot r lidx 4 homes).regs[i] = if i.val = 1 then r.param else if i.val = 2 then wordN lidx else 0 := by
  have hregs : (Eng.boot r lidx 4 homes).regs = ((Vector.replicate 32 (0 : Word)).set 1 r.param).set 2 (wordN lidx) := rfl
  rw [hregs, Fin.getElem_fin, Vector.getElem_set, Vector.getElem_set, Vector.getElem_replicate]
  grind

theorem instanceStart_step (s : State) (c : CoreId) (h : launchStepPre s (.instanceStart c)) :
    ∃ t, exec (.instanceStart c) s = .next t ∧ launchStepPost s t (.instanceStart c) := by
  obtain ⟨id, hnext, hlive, hret, hhalt, hstop, hrun⟩ := h
  refine ⟨_, exec_instanceStart hnext hlive hret hhalt hstop hrun, fun id' hid => ?_⟩
  obtain rfl : id = id' := Option.some.inj (hnext.symm.trans hid)
  obtain ⟨bars, hcore⟩ := coreAt_startInst s c (s.launchAt id)
  have hinst := congrArg Core.inst hcore
  have heng : ∀ e : EngId, ∃ homes, (s.startInst c (s.launchAt id)).engAt c e =
      Eng.boot (s.launchAt id).rec_ (c.val % 20 - (s.launchAt id).ox + (s.launchAt id).rec_.w * (c.val / 20 - (s.launchAt id).oy))
        e.val homes := fun e => by
    refine ⟨if e.val = 4 then [] else homesOf (s.launchAt id).rec_.quad (s.coreAt c).lanesOut e.val, ?_⟩
    rw [State.engAt, State.instAt, hinst]
    exact Vector.getElem_ofFn e.isLt
  obtain ⟨homes, hcaller⟩ := heng callerId
  refine ⟨onlyCore_updCore s c _, congrArg Core.next hcore, congrArg Inst.live hinst, congrArg Inst.launch hinst, congrArg Inst.lx hinst,
    congrArg Inst.ly hinst, congrArg Eng.running hcaller, congrArg Eng.pc hcaller, congrArg Eng.preds hcaller,
    congrArg (fun g => g.tr.priv) hcaller, fun r => ?_, fun k hk => ?_⟩
  · rw [hcaller]; exact boot_caller_regs _ _ _ r
  · obtain ⟨homes', hthread⟩ := heng (threadId k)
    have hval : (threadId k).val = k := by
      show k % 4 % 5 = k
      omega
    rw [hthread, hval]
    exact beq_false_of_ne (by omega)

/-! ### End of what runs on a core (R93) -/

theorem instanceEnd_step (s : State) (c : CoreId) (h : launchStepPre s (.instanceEnd c)) :
    ∃ t, exec (.instanceEnd c) s = .next t ∧ launchStepPost s t (.instanceEnd c) := by
  obtain ⟨hdone, hread⟩ := h
  have hexec : exec (.instanceEnd c) s = .next (s.updCore c Core.finished) := by
    show execInstanceEnd c s = _
    unfold execInstanceEnd
    simp only [hdone, hread, Bool.not_true, Bool.false_eq_true, if_false]
  have hcore : (s.updCore c Core.finished).coreAt c = (s.coreAt c).finished := State.coreAt_updCore _ _ _
  have hinst : (s.updCore c Core.finished).instAt c = (s.coreAt c).finished.inst := congrArg Core.inst hcore
  refine ⟨_, hexec, ?_, onlyCore_updCore s c _, ?_, fun e => ?_⟩
  · rw [hinst, hcore]
    simp [Core.finished]
  · rw [hinst]; rfl
  · have heng : (s.updCore c Core.finished).engAt c e =
        { s.engAt c e with v := { (s.engAt c e).v with tags := (s.engAt c e).v.tags.map (fun t => t &&& ~~~ 0x40000) } } := by
      rw [State.engAt, hinst]
      exact getElem_map_engs (s.instAt c) _ e
    rw [heng]
    exact ⟨rfl, fun r => Vector.getElem_map ..⟩

/-! ### What physical memory and the page tables read depends on (R24, R59, R149, R276) -/

/-- Two states agree in what a read of physical memory by the hardware depends on. -/
structure SameMemory (s t : State) : Prop where
  mem : t.mem = s.mem := by rfl
  poison : t.poison = s.poison := by rfl
  chanOut : t.chanOut = s.chanOut := by rfl
  cxl : t.cxl = s.cxl := by rfl
  pdef : ∀ p : Fin 16, t.parts[p].pdef = s.parts[p].pdef := by intro p; rfl
  resetting : ∀ p : Fin 16, t.parts[p].resetting = s.parts[p].resetting := by intro p; rfl

theorem partDef_congr {s t : State} (h : SameMemory s t) (p : Nat) : t.partDef p = s.partDef p :=
  h.pdef ⟨p % 16, Nat.mod_lt _ (by decide)⟩

theorem populated_congr {s t : State} (h : SameMemory s t) (org pa len : Nat) : t.populated org pa len = s.populated org pa len := by
  have hreset (p : Nat) : (t.parts[p % 16]'(Nat.mod_lt _ (by decide))).resetting =
      (s.parts[p % 16]'(Nat.mod_lt _ (by decide))).resetting := h.resetting ⟨p % 16, Nat.mod_lt _ (by decide)⟩
  have hreimage (ch : Nat) : t.reimaging org ch = s.reimaging org ch := by
    unfold State.reimaging
    simp only [hreset, partDef_congr h]
  unfold State.populated
  simp only [h.chanOut, h.cxl, hreimage]

theorem readPhys_congr {s t : State} (h : SameMemory s t) (org pa len va : Nat) :
    t.readPhys org pa len va = s.readPhys org pa len va := by
  unfold State.readPhys
  rw [populated_congr h, h.poison, h.mem]

theorem walk_congr {s t : State} (h : SameMemory s t) (org va : Nat) (levels : List (Nat × Nat × Nat × Nat)) (table perm lvl : Nat) :
    walk t org va levels table perm lvl = walk s org va levels table perm lvl := by
  induction levels generalizing table perm lvl with
  | nil => rfl
  | cons level rest ih =>
    unfold walk
    simp only [readPhys_congr h, ih]

theorem walkRoot_congr {s t : State} (h : SameMemory s t) (org root va : Nat) : t.walkRoot org root va = s.walkRoot org root va := by
  unfold State.walkRoot
  rw [walk_congr h]

/-! ### End of a launch (R83) -/

theorem settleIdle_inst (k : Core) : k.settleIdle.inst = k.inst := by
  unfold Core.settleIdle
  split
  · split <;> rfl
  · rfl

theorem endInst_inst (k : Core) : k.endInst.inst = Inst.reset := settleIdle_inst _

theorem endParked_inst (k : Core) : k.endParked.inst = k.inst := settleIdle_inst _

/-- A launch that leaves every core runs on none. -/
theorem instAt_dropLaunch (s : State) (id : Nat) (c : CoreId) :
    ¬ (((s.dropLaunch id).instAt c).live = true ∧ ((s.dropLaunch id).instAt c).launch = id) := by
  have hparked (k : Core) : (if k.parked.live && k.parked.launch == id then k.endParked else k).inst = k.inst := by
    split
    · exact endParked_inst k
    · rfl
  have hnext (k : Core) : (if k.next == some id then { k with next := none, early := [] } else k).inst = k.inst := by
    split <;> rfl
  have hinst : (s.dropLaunch id).instAt c =
      (if (s.instAt c).live && (s.instAt c).launch == id then (s.coreAt c).endInst else s.coreAt c).inst :=
    (congrArg Core.inst (Vector.getElem_map _ c.isLt)).trans ((hnext _).trans (hparked _))
  rw [hinst]
  split
  next => rw [endInst_inst]; rintro ⟨hlive, -⟩; cases hlive
  next hother => simpa [State.instAt] using hother

theorem writeLoc_g_cores (s : State) (pa : Nat) (bs : List Byte) : (s.writeLoc (.g pa) bs).cores = s.cores := rfl

/-- What writing the completion word leaves alone. -/
theorem writeCmpl_frame (s : State) (l : Launch) :
    (s.writeCmpl l).cores = s.cores ∧ (s.writeCmpl l).launches = s.launches ∧ (s.writeCmpl l).mbox = s.mbox := by
  unfold State.writeCmpl
  split
  · exact ⟨rfl, rfl, rfl⟩
  · split
    · exact ⟨rfl, rfl, rfl⟩
    · split
      · exact ⟨rfl, rfl, rfl⟩
      · split
        · exact ⟨writeLoc_g_cores _ _ _, State.writeLoc_launches _ _ _, State.writeLoc_mbox _ _ _⟩
        · exact ⟨rfl, rfl, rfl⟩

/-- No launch without an address for it has a completion word. -/
theorem writeCmpl_none (s : State) {l : Launch} (h : l.rec_.cmpl = 0) : s.writeCmpl l = s := by
  unfold State.writeCmpl
  rw [if_pos (beq_iff_eq.mpr h)]

theorem writeCmpl_at (s : State) {l : Launch} {page : TlbEnt} {pa : Nat} (hne : l.rec_.cmpl ≠ 0)
    (hwalk : s.walkRoot l.rec_.part l.rec_.ptroot.toNat l.rec_.cmpl.toNat = .ok page)
    (hpage : judgePage page l.rec_.cmpl.toNat permW = .ok pa) (hpop : s.populated l.rec_.part pa 8 = true) :
    (s.writeCmpl l).mem = s.mem.writeBytes pa (bytesLE 8 l.word.toNat) := by
  unfold State.writeCmpl
  rw [if_neg (fun h => hne (beq_iff_eq.mp h))]
  simp only [hwalk, hpage, hpop, if_true]
  rfl

/-- The model's completion word is R83's, which fits its 64 bits. -/
theorem word_toNat (l : Launch) : l.word.toNat = completionWord l := by
  have htag : l.rec_.tag.toNat < 2 ^ 32 := l.rec_.tag.isLt
  have hword : l.word.toNat = (l.status % 256 * 2 ^ 56 + l.ecode % 256 * 2 ^ 48 + l.core % 65536 * 2 ^ 32 + l.rec_.tag.toNat) % 2 ^ 64 :=
    BitVec.toNat_ofNat _ 64
  rw [hword]
  unfold completionWord
  omega

theorem dropLaunch_sameMemory (s : State) (id : Nat) : SameMemory s (s.dropLaunch id) := {}

/-- The state in which the end of a launch is answered. -/
def endedState (s : State) (l : Launch) : State :=
  ((s.dropLaunch l.id).updLaunch l.id (fun x => { x with st := .ended })).writeCmpl l

theorem endedState_frame (s : State) (l : Launch) : (endedState s l).cores = (s.dropLaunch l.id).cores ∧
    (endedState s l).launches = (s.updLaunch l.id (fun x => { x with st := .ended })).launches ∧ (endedState s l).mbox = s.mbox :=
  writeCmpl_frame ((s.dropLaunch l.id).updLaunch l.id (fun x => { x with st := .ended })) l

theorem endedState_no_cmpl (s : State) {l : Launch} (h : l.rec_.cmpl = 0) : (endedState s l).mem = s.mem := by
  rw [endedState, writeCmpl_none _ h]
  exact (dropLaunch_sameMemory s l.id).mem

/-- The completion word lands where the launch's own page tables lead, and nothing else is written. -/
theorem endedState_cmpl {s : State} {l : Launch} {page : TlbEnt} {pa : Nat} (hne : l.rec_.cmpl ≠ 0)
    (hwalk : s.walkRoot l.rec_.part l.rec_.ptroot.toNat l.rec_.cmpl.toNat = .ok page)
    (hpage : judgePage page l.rec_.cmpl.toNat permW = .ok pa) (hpop : s.populated l.rec_.part pa 8 = true) :
    (∀ k, k < 8 → ((endedState s l).mem.read (pa + k)).toNat = completionWord l / 256 ^ k % 256) ∧
      ∀ a, a < pa ∨ pa + 8 ≤ a → (endedState s l).mem.read a = s.mem.read a := by
  have hsame : SameMemory s ((s.dropLaunch l.id).updLaunch l.id (fun x => { x with st := .ended })) := {}
  have hmem : (endedState s l).mem = s.mem.writeBytes pa (bytesLE 8 l.word.toNat) := by
    have hat := writeCmpl_at _ hne ((walkRoot_congr hsame _ _ _).trans hwalk) hpage ((populated_congr hsame _ _ _).trans hpop)
    rw [hsame.mem] at hat
    exact hat
  rw [hmem]
  refine ⟨fun k hk => ?_, fun a ha => Memory.read_writeBytes_out (by rw [bytesLE_length]; exact ha)⟩
  have hlen : k < (bytesLE 8 l.word.toNat).length := by rw [bytesLE_length]; exact hk
  rw [Memory.read_writeBytes_in hlen, bytesLE_getElem, word_toNat]

/-- The end of a launch is answered in the ring to the host, over its port to another package, and to no one else; also in a firmware
switch-over (log 77). -/
theorem endLaunch_frame (s : State) (l : Launch) : RespondFrame (endedState s l) (s.endLaunch l) := by
  unfold State.endLaunch
  dsimp only
  split
  · exact .refl _
  · exact .refl _
  · exact respond_frame _ _ _ _ _ _

theorem endLaunch_host (s : State) {l : Launch} (h : l.by_ = .host) :
    s.endLaunch l = (endedState s l).pushRsp (responseBytes 1 0 l.reqTag l.word) := by
  unfold State.endLaunch
  simp only [h]
  rfl

/-- A launch that may end is one that the dispatcher holds, under its identifier. -/
theorem launchAt_of_mayEnd {s : State} {id : Nat} (h : s.mayEnd (s.launchAt id) = true) :
    s.launches.find? (fun l => l.id == id) = some (s.launchAt id) ∧ (s.launchAt id).id = id := by
  cases hfind : s.launches.find? (fun l => l.id == id) with
  | none =>
    have hblank : s.launchAt id = blankLaunch := by rw [State.launchAt, hfind]; rfl
    rw [hblank] at h
    exact absurd h (by simp [State.mayEnd, blankLaunch])
  | some l =>
    have hl : s.launchAt id = l := by rw [State.launchAt, hfind]; rfl
    rw [hl]
    exact ⟨rfl, beq_iff_eq.mp (List.find?_some (p := fun l : Launch => l.id == id) hfind)⟩

/-- A change of a launch that keeps its identifier is found under it. -/
theorem launchAt_updLaunch {s : State} {id : Nat} {l : Launch} (f : Launch → Launch) (hf : ∀ l, (f l).id = l.id)
    (h : s.launches.find? (fun l => l.id == id) = some l) : (s.updLaunch id f).launchAt id = f l := by
  have hid : l.id == id := List.find?_some (p := fun l : Launch => l.id == id) h
  have hsame : (fun x : Launch => (if x.id == id then f x else x).id == id) = fun x => x.id == id := by
    funext x
    split <;> simp [hf]
  unfold State.launchAt State.updLaunch
  rw [List.find?_map]
  simp only [Function.comp_def, hsame, h, Option.map_some, Option.getD_some, hid, if_true]

/-- The commands of a launch that have not completed go with it (R83). -/
def withoutCommands (s : State) (id : Nat) : State :=
  { s with
    dies := s.dies.map (fun (d : Die) => { d with route := d.route.filter (fun k => k.launch != id) }),
    parts := s.parts.map (fun (p : Part) => { p with pool := { p.pool with cmds := p.pool.cmds.filter (fun k => k.launch != id) } }) }

theorem withoutCommands_sameMemory (s : State) (id : Nat) : SameMemory s (withoutCommands s id) where
  pdef p := by simp [withoutCommands]
  resetting p := by simp [withoutCommands]

theorem exec_launchEnd {s : State} {id : Nat} (h : s.mayEnd (s.launchAt id) = true) :
    exec (.launchEnd id) s = .next ((withoutCommands s id).endLaunch (s.launchAt id)) := by
  show execLaunchEnd id s = _
  unfold execLaunchEnd
  simp only [h, Bool.not_true, Bool.false_eq_true, if_false]
  rfl

theorem launchEnd_step (s : State) (id : Nat) (h : launchStepPre s (.launchEnd id)) :
    ∃ t, exec (.launchEnd id) s = .next t ∧ launchStepPost s t (.launchEnd id) := by
  have hend : s.mayEnd (s.launchAt id) = true := h
  obtain ⟨hfind, hid⟩ := launchAt_of_mayEnd hend
  have hsame := withoutCommands_sameMemory s id
  obtain ⟨hcores, hlaunches, hmbox⟩ := endedState_frame (withoutCommands s id) (s.launchAt id)
  have hframe := endLaunch_frame (withoutCommands s id) (s.launchAt id)
  rw [hid] at hcores hlaunches
  refine ⟨_, exec_launchEnd hend, ?_, fun c => ?_, fun hzero => ?_, fun page pa hne hwalk hpage hpop => ?_, fun hby hring => ?_⟩
  · have hended := launchAt_updLaunch (s := withoutCommands s id) (fun x => { x with st := .ended }) (fun _ => rfl) hfind
    rw [State.launchAt, ← hlaunches, ← hframe.launches] at hended
    exact congrArg Launch.st hended
  · rw [State.instAt, coreAt_of_cores (hframe.cores.trans hcores) c]
    exact instAt_dropLaunch _ id c
  · rw [hframe.mem, endedState_no_cmpl _ hzero]
    exact hsame.mem
  · rw [hframe.mem]
    exact endedState_cmpl hne ((walkRoot_congr hsame _ _ _).trans hwalk) hpage ((populated_congr hsame _ _ _).trans hpop)
  · have hring' : ringFree (endedState (withoutCommands s id) (s.launchAt id)) := by rw [ringFree, hmbox]; exact hring
    have hanswer := pushRsp_responded _ hring' 1 0 (s.launchAt id).reqTag (s.launchAt id).word
    rw [← endLaunch_host _ hby, word_toNat] at hanswer
    unfold responded at hanswer ⊢
    rw [hmbox] at hanswer
    exact hanswer

/-! ### Presenting a submission (R75) -/

theorem launchPortSubmit_step (s : State) (p : Fin 16) (v : Word) (h : launchStepPre s (.launchPortSubmit p v)) :
    ∃ t, exec (.launchPortSubmit p v) s = .next t ∧ launchStepPost s t (.launchPortSubmit p v) := by
  obtain ⟨hbusy, hhalt, hport⟩ := h
  have hgo : (s.hub.halted || (p != 0 && s.hub.boot != .running)) = false := by
    rcases hport with hport | hport <;> simp [hhalt, hport]
  have hexec : exec (.launchPortSubmit p v) s = .next (s.portSubmit p v) := by
    show execLaunchPortSubmit p v s = _
    unfold execLaunchPortSubmit
    rw [hgo]; rfl
  have hsubmit : s.portSubmit p v =
      { s with
        subs := s.subs ++ [{ port := some p, core := none, parent := 0, addr := (v &&& 0xfffffffffffc0).toNat, recBytes := none,
                             rd := 0, seq := 0, tag := none, at_ := s.clk }],
        hub := { s.hub with lbusy := s.hub.lbusy.set p.val true p.isLt } } := by
    unfold State.portSubmit
    rw [hbusy]; rfl
  refine ⟨_, hexec, ?_⟩
  rw [hsubmit]
  refine ⟨_, rfl, rfl, rfl, rfl, rfl, rfl, rfl, fun q => ?_⟩
  show (s.hub.lbusy.set p.val true p.isLt)[q] = _
  by_cases hq : q = p
  · subst hq; simp
  · have hval : p.val ≠ q.val := fun e => hq (Fin.ext e.symm)
    simp [hval, hq]

/-! ### The record of a submission (R72, R73, R76, R77) -/

/-- The model's check of a record is R73's, field by field; that a queue above 15 counts as malformed is log 76's choice. -/
theorem recBad_eq (bs : List Byte) : recBad bs = recordMalformed bs := by
  have hzero : zeroBytes bs 48 16 = true ↔ fieldLE bs 48 16 = 0 := (numLE_eq_zero _).symm
  unfold recBad recordMalformed bitN
  rw [Bool.eq_iff_iff]
  simp only [Bool.or_eq_true, Bool.and_eq_true, Bool.not_eq_true', ← Bool.not_eq_true, hzero, decide_eq_true_eq, beq_iff_eq,
    bne_iff_ne, Nat.pow_zero, Nat.div_one]
  omega

/-- What a `launch` may not ask for is what R77 lists. -/
theorem childBad_iff (parent : LRec) (bs : List Byte) : childBad parent (parseRec bs) = true ↔
    fieldLE bs 24 8 ≠ 0 ∨ fieldLE bs 37 1 ≠ parent.part ∨ (8 ≤ parent.queue ∧ fieldLE bs 36 1 < 8) := by
  have hroot : (parseRec bs).ptroot = 0 ↔ fieldLE bs 24 8 = 0 := by
    have hlt : fieldLE bs 24 8 < 2 ^ 64 := fieldLE_lt bs 24 8
    have hnat : (parseRec bs).ptroot.toNat = fieldLE bs 24 8 := (BitVec.toNat_ofNat _ 64).trans (Nat.mod_eq_of_lt hlt)
    rw [← hnat]
    exact ⟨fun h => by rw [h]; rfl, fun h => BitVec.eq_of_toNat_eq h⟩
  have hpart : (parseRec bs).part = fieldLE bs 37 1 := rfl
  have hqueue : (parseRec bs).queue = fieldLE bs 36 1 := rfl
  unfold childBad LRec.fg
  simp only [Bool.or_eq_true, Bool.and_eq_true, bne_iff_ne, ne_eq, hroot, hpart, hqueue, Bool.not_eq_true',
    decide_eq_false_iff_not, decide_eq_true_eq, Nat.not_lt, or_assoc]

/-- The model's status of a submission is R76's. -/
theorem judgeSub_eq (s : State) (b : Submission) (record : Option (List Byte)) :
    s.judgeSub b record = submissionStatus s b record := by
  cases record with
  | none => rfl
  | some bs =>
    have hchild : (b.core.isSome && childBad (s.launchAt b.parent).rec_ (parseRec bs)) = true ↔
        b.core ≠ none ∧ (fieldLE bs 24 8 ≠ 0 ∨ fieldLE bs 37 1 ≠ (s.launchAt b.parent).rec_.part ∨
          (8 ≤ (s.launchAt b.parent).rec_.queue ∧ fieldLE bs 36 1 < 8)) := by
      rw [Bool.and_eq_true, childBad_iff, Option.isSome_iff_ne_none]
    have hqueued : s.launches.filter (fun l => l.st == .queued && l.rec_.queue == (parseRec bs).queue) =
        s.launches.filter (fun l => l.st = .queued ∧ l.rec_.queue = fieldLE bs 36 1) := by
      congr 1; funext l
      rw [Bool.eq_iff_iff]
      simp [parseRec]
    unfold State.judgeSub submissionStatus
    simp only [recBad_eq, hchild, hqueued, Bool.or_eq_true, decide_eq_true_eq] <;> rfl

/-! ### The order of submissions (R78) -/

theorem firstSub_eq_none {l : List Submission} (h : firstSub l = none) : l = [] := by
  cases l with
  | nil => rfl
  | cons b rest =>
    unfold firstSub at h
    split at h
    · cases h
    · split at h <;> cases h

/-- What is taken next is one of the submissions that wait, and none was presented before it. -/
theorem firstSub_first {l : List Submission} {b : Submission} (h : firstSub l = some b) : b ∈ l ∧ ∀ x ∈ l, b.at_ ≤ x.at_ := by
  induction l generalizing b with
  | nil => cases h
  | cons a rest ih =>
    unfold firstSub at h
    split at h
    next hnone =>
      obtain rfl := Option.some.inj h
      simp [firstSub_eq_none hnone]
    next x hx =>
      obtain ⟨hmem, hmin⟩ := ih hx
      split at h
      next hlater =>
        obtain rfl := Option.some.inj h
        simp only [Bool.or_eq_true, Bool.and_eq_true, decide_eq_true_eq] at hlater
        refine ⟨List.mem_cons_of_mem _ hmem, fun y hy => ?_⟩
        rcases List.mem_cons.mp hy with rfl | hy
        · omega
        · exact hmin y hy
      next hearlier =>
        obtain rfl := Option.some.inj h
        simp only [Bool.or_eq_true, Bool.and_eq_true, decide_eq_true_eq] at hearlier
        refine ⟨List.mem_cons_self, fun y hy => ?_⟩
        rcases List.mem_cons.mp hy with rfl | hy
        · exact Nat.le_refl _
        · have := hmin y hy
          omega

/-! ### The answer to a submission (R70, R75, R78) -/

theorem rd_setPend (g : Eng) (r q : SReg) (v : Bool) : (g.setPend r v).rd q = g.rd q := by
  unfold Eng.setPend
  split <;> rfl

/-- Where no user-level handler runs or has run, a result lands in the register that its instruction named (R148). -/
theorem rd_landAt {g : Eng} (hirq : g.tr.uirq = false) (hspans : g.uispans = []) (seq : Nat) (r q : SReg) (v : Word) :
    (g.landAt seq r v).rd q = if q = r ∧ q ≠ 0 then v else g.rd q := by
  have hbelow : g.below seq r = false := by simp [Eng.below, Eng.inUi, hirq, hspans]
  have hland : g.landAt seq r v = (g.wr r v).unhold seq r := by unfold Eng.landAt; rw [hbelow]; rfl
  rw [hland, ← rd_wr]
  unfold Eng.unhold
  split
  · rfl
  · exact rd_setPend _ _ _ _

/-- What the answer to a submission leaves alone. -/
structure AnswerFrame (s t : State) : Prop where
  mem : t.mem = s.mem
  launches : t.launches = s.launches
  nextId : t.nextId = s.nextId
  round : t.round = s.round
  subs : t.subs = s.subs

/-- The port's part of an answer. -/
def answerPort (s : State) (port : Option (Fin 16)) (status : Nat) : State :=
  match port with
  | some p => { s with hub := { s.hub with lres := s.hub.lres.set p.val status p.isLt, lbusy := s.hub.lbusy.set p.val false p.isLt } }
  | none => s

/-- The part of an answer that a `launch` waits for in its register. -/
def answerCore (s : State) (b : Submission) (status : Nat) : State :=
  match b.core with
  | some c =>
    (match s.instFor b.parent c with
    | some parked => s.updInstP c parked (fun n => n.updEng callerId (fun g => g.landAt b.seq b.rd (wordN status)))
    | none => s)
  | none => s

/-- The part of an answer that goes to the submitter of a request. -/
def answerTag (s : State) (tag : Option (Submitter × BitVec 32)) (status : Nat) : State :=
  match tag with
  | some t =>
    let s : State := { s with mbox := { s.mbox with reqs := s.mbox.reqs.drop 1 } }
    if status = 0 then s else s.respond t.1 1 (16 + status) t.2 0
  | none => s

theorem answerSub_eq (s : State) (b : Submission) (status : Nat) :
    s.answerSub b status = answerTag (answerCore (answerPort s b.port status) b status) b.tag status := rfl

theorem answerPort_frame (s : State) (port : Option (Fin 16)) (status : Nat) :
    answerPort s port status = { s with hub := (answerPort s port status).hub } := by
  unfold answerPort
  split <;> rfl

theorem answerCore_frame (s : State) (b : Submission) (status : Nat) :
    answerCore s b status = { s with cores := (answerCore s b status).cores } := by
  unfold answerCore
  split
  · split <;> rfl
  · rfl

/-- A request's part of an answer changes no core and no register of the hub. -/
theorem answerTag_frame (s : State) (tag : Option (Submitter × BitVec 32)) (status : Nat) : RespondFrame s (answerTag s tag status) := by
  unfold answerTag
  split
  next t =>
    dsimp only
    split
    · exact ⟨rfl, rfl, rfl, rfl, rfl, rfl, rfl⟩
    · obtain ⟨mem, cores, launches, nextId, round, subs, hub⟩ :=
        respond_frame { s with mbox := { s.mbox with reqs := s.mbox.reqs.drop 1 } } t.1 1 (16 + status) t.2 0
      exact ⟨mem, cores, launches, nextId, round, subs, hub⟩
  · exact .refl s

theorem answerSub_frame (s : State) (b : Submission) (status : Nat) : AnswerFrame s (s.answerSub b status) := by
  obtain ⟨mem, -, launches, nextId, round, subs, -⟩ := answerTag_frame (answerCore (answerPort s b.port status) b status) b.tag status
  have hcore := answerCore_frame (answerPort s b.port status) b status
  have hport := answerPort_frame s b.port status
  rw [hcore, hport] at mem launches nextId round subs
  rw [answerSub_eq, hcore, hport]
  exact ⟨mem, launches, nextId, round, subs⟩

theorem answerSub_port {s : State} {b : Submission} {p : Fin 16} (h : b.port = some p) (status : Nat) :
    (s.answerSub b status).hub.lres[p] = status ∧ (s.answerSub b status).hub.lbusy[p] = false := by
  have hhub : (s.answerSub b status).hub = (answerPort s b.port status).hub := by
    rw [answerSub_eq, (answerTag_frame _ _ _).hub, answerCore_frame]
  rw [hhub, h]
  exact ⟨Vector.getElem_set_self _, Vector.getElem_set_self _⟩

theorem answerSub_core {s : State} {b : Submission} {c : CoreId} (h : b.core = some c) (hlive : (s.instAt c).live = true)
    (hparent : (s.instAt c).launch = b.parent) (hirq : (s.engAt c callerId).tr.uirq = false)
    (hspans : (s.engAt c callerId).uispans = []) (status : Nat) (r : SReg) :
    ((s.answerSub b status).engAt c callerId).rd r = if r = b.rd ∧ r ≠ 0 then wordN status else (s.engAt c callerId).rd r := by
  have hcores : (answerPort s b.port status).cores = s.cores := by rw [answerPort_frame]
  have hat : (answerPort s b.port status).engAt c callerId = s.engAt c callerId := by
    rw [State.engAt, State.instAt, coreAt_of_cores hcores c]; rfl
  have hfor : (answerPort s b.port status).instFor b.parent c = some false := by
    have hlive' : (s.coreAt c).inst.live = true := hlive
    have hparent' : (s.coreAt c).inst.launch = b.parent := hparent
    unfold State.instFor
    simp only [coreAt_of_cores hcores c, hlive', hparent', beq_self_eq_true, Bool.and_self, if_true]
  have hcore : answerCore (answerPort s b.port status) b status =
      (answerPort s b.port status).updEng c callerId (fun g => g.landAt b.seq b.rd (wordN status)) := by
    unfold answerCore
    simp only [h, hfor]
    rfl
  have heng : (s.answerSub b status).engAt c callerId = (s.engAt c callerId).landAt b.seq b.rd (wordN status) := by
    rw [answerSub_eq, State.engAt, State.instAt, coreAt_of_cores (answerTag_frame _ _ _).cores c, hcore, ← hat]
    exact State.engAt_updEng _ _ _ _
  rw [heng, rd_landAt hirq hspans]

theorem answerSub_host {s : State} {b : Submission} {tag : BitVec 32} (h : b.tag = some (.host, tag)) {status : Nat}
    (hstatus : status ≠ 0) (hring : ringFree s) : responded s (s.answerSub b status) 1 (16 + status) tag := by
  have hmbox : (answerCore (answerPort s b.port status) b status).mbox = s.mbox := by
    rw [answerCore_frame, answerPort_frame]
  let u : State := { answerCore (answerPort s b.port status) b status with mbox := { s.mbox with reqs := s.mbox.reqs.drop 1 } }
  have htag : s.answerSub b status = u.pushRsp (responseBytes 1 (16 + status) tag 0) := by
    rw [answerSub_eq, h]
    unfold answerTag
    simp only [hstatus, if_false, hmbox]
    rfl
  rw [htag]
  exact (pushRsp_responded u hring 1 (16 + status) tag 0).1

/-! ### Taking a submission (R76, R78) -/

/-- The state in which a submission that has been taken is answered: an accepted one has become a launch. -/
def takenState (s : State) (b : Submission) : State :=
  let u : State := { s with subs := s.subs.erase b, takenAt := some s.clk }
  if submissionStatus s b (s.subBytes b) = 0 then
    { u with launches := s.launches ++ [u.launchFrom b ((s.subBytes b).getD [])], nextId := s.nextId + 1, round := s.round + 1 }
  else u

theorem takenState_frame (s : State) (b : Submission) :
    takenState s b = { s with
      subs := s.subs.erase b, takenAt := some s.clk, launches := (takenState s b).launches, nextId := (takenState s b).nextId,
      round := (takenState s b).round } := by
  unfold takenState
  dsimp only
  split <;> rfl

theorem exec_submissionTake {s : State} {b : Submission} (hfirst : firstSub s.subs = some b) (hhalt : s.hub.halted = false)
    (htaken : s.takenAt ≠ some s.clk) (hround : s.round = 0) (hat : b.at_ < s.clk) :
    exec .submissionTake s = .next ((takenState s b).answerSub b (submissionStatus s b (s.subBytes b))) := by
  let u : State := { s with subs := s.subs.erase b, takenAt := some s.clk }
  have hmay : (!s.mayTake b || s.hub.halted) = false := by simp [State.mayTake, hhalt, htaken, hround, hat]
  have hbytes : u.subBytes b = s.subBytes b := by
    unfold State.subBytes
    rw [readPhys_congr (s := s) (t := u) {}]
  have hjudge : u.judgeSub b (s.subBytes b) = submissionStatus s b (s.subBytes b) := judgeSub_eq s b _
  show execSubmissionTake s = _
  unfold execSubmissionTake
  simp only [hfirst, hmay, Bool.false_eq_true, if_false]
  show Host.Outcome.next ((if u.judgeSub b (u.subBytes b) = 0 then
      { u with launches := s.launches ++ [u.launchFrom b ((u.subBytes b).getD [])], nextId := s.nextId + 1, round := s.round + 1 }
    else u).answerSub b (u.judgeSub b (u.subBytes b))) = _
  rw [hbytes, hjudge]
  rfl

theorem submissionTake_step (s : State) (h : launchStepPre s .submissionTake) :
    ∃ t, exec .submissionTake s = .next t ∧ launchStepPost s t .submissionTake := by
  obtain ⟨hne, hhalt, htaken, hround, x, hx, hearly⟩ := h
  obtain ⟨b, hfirst⟩ := Option.ne_none_iff_exists'.mp (fun hnone => hne (firstSub_eq_none hnone))
  obtain ⟨hmem, hmin⟩ := firstSub_first hfirst
  have hat : b.at_ < s.clk := Nat.lt_of_le_of_lt (hmin x hx) hearly
  have hframe := takenState_frame s b
  generalize hstatus : submissionStatus s b (s.subBytes b) = status
  have hexec := exec_submissionTake hfirst hhalt htaken hround hat
  rw [hstatus] at hexec
  obtain ⟨mem, launches, nextId, round, subs⟩ := answerSub_frame (takenState s b) b status
  have hcores : (takenState s b).cores = s.cores := by rw [hframe]
  have hmbox : (takenState s b).mbox = s.mbox := by rw [hframe]
  have hinst : ∀ c, (takenState s b).instAt c = s.instAt c := fun c => congrArg Core.inst (coreAt_of_cores hcores c)
  refine ⟨_, hexec, b, status, hmem, hmin, ?_, hstatus.symm, ?_, fun p hp => answerSub_port hp status,
    fun c hc hlive hparent hirq hspans r => ?_, fun tag _ htag hrefused hring => ?_, ?_⟩
  · rw [subs, hframe]
  · split
    next hzero =>
      have htake : takenState s b = { s with
          subs := s.subs.erase b, takenAt := some s.clk,
          launches := s.launches ++ [({ s with subs := s.subs.erase b, takenAt := some s.clk } : State).launchFrom b
            ((s.subBytes b).getD [])],
          nextId := s.nextId + 1, round := s.round + 1 } := if_pos (hstatus.trans hzero)
      rw [launches, nextId, round, htake]
      exact ⟨_, rfl, rfl, rfl, rfl, rfl⟩
    next hrefused =>
      have htake : takenState s b = { s with subs := s.subs.erase b, takenAt := some s.clk } :=
        if_neg (fun hzero => hrefused (hstatus.symm.trans hzero))
      rw [launches, htake]
  · have heng : (takenState s b).engAt c callerId = s.engAt c callerId := congrArg (fun n : Inst => n.engs[callerId]) (hinst c)
    rw [← heng] at hirq hspans ⊢
    rw [← hinst c] at hlive hparent
    exact answerSub_core hc hlive hparent hirq hspans status r
  · have hring' : ringFree (takenState s b) := by rw [ringFree, hmbox]; exact hring
    have hresponded := answerSub_host htag hrefused hring'
    unfold responded at hresponded ⊢
    rw [hmbox] at hresponded
    exact hresponded
  · rw [mem, hframe]

/-! ### What a placement round leaves alone (R81) -/

/-- The rounds that are due, and main memory, stay as they are. -/
structure RoundKept (s t : State) : Prop where
  round : t.round = s.round := by rfl
  mem : t.mem = s.mem := by rfl

theorem RoundKept.trans {s t u : State} (h : RoundKept s t) (k : RoundKept t u) : RoundKept s u :=
  ⟨k.round.trans h.round, k.mem.trans h.mem⟩

theorem roundKept_foldl {α : Type} {f : State → α → State} (hf : ∀ s a, RoundKept s (f s a)) (l : List α) (s : State) :
    RoundKept s (l.foldl f s) := by
  induction l generalizing s with
  | nil => exact {}
  | cons a l ih => exact (hf s a).trans (ih (f s a))

theorem roundKept_place (s : State) (l : Launch) (o : Nat × Nat) : RoundKept s (s.place! l o) := by
  obtain ⟨hround, hmem⟩ := roundKept_foldl (f := fun s c => s.updCore c (fun k => { k with next := some l.id })) (fun _ _ => {})
    (rectCores o l.rec_.w l.rec_.h) (s.updLaunch l.id (fun x => { x with st := .running, ox := o.1, oy := o.2 }))
  exact ⟨hround, hmem⟩

theorem roundKept_placeHead (s : State) (q : Nat) (free : Core → Bool) : RoundKept s (s.placeHead q free) := by
  unfold State.placeHead
  split
  · exact {}
  · split
    · exact {}
    · split
      · exact {}
      · exact roundKept_place _ _ _

theorem roundKept_preempt (s : State) (id : Nat) : RoundKept s (s.preempt id) := by
  unfold State.preempt
  dsimp only
  split
  · exact {}
  · refine RoundKept.trans (t := { s.updLaunch id (fun x => { x with st := .parked, preAt := s.preCtr }) with preCtr := s.preCtr + 1 })
      {} (roundKept_foldl (fun s c => ?_) _ _)
    split <;> exact {}

theorem roundKept_placeOver (s : State) (q : Nat) (head : Option Nat) : RoundKept s (s.placeOver q head) := by
  unfold State.placeOver
  split
  · exact {}
  · split
    · exact {}
    · split
      · exact {}
      · dsimp only
        split
        · exact {}
        · refine RoundKept.trans (roundKept_foldl (fun s c => ?_) _ _) (roundKept_place _ _ _)
          split
          · exact roundKept_preempt _ _
          · exact {}

theorem roundKept_resumeAll (s : State) : RoundKept s s.resumeAll := by
  refine roundKept_foldl (fun s l => ?_) _ _
  split
  · refine RoundKept.trans (t := s.updLaunch l.id (fun x => { x with st := .running })) {} (roundKept_foldl (fun _ _ => {}) _ _)
  · exact {}

/-- The four steps of a placement round, for the heads that stood in the foreground queues before it (R81). -/
def roundSteps (heads : List (Option Nat)) (s : State) : State :=
  let s := (List.range 8).foldl (fun s q => s.placeHead q Core.free) s
  let s := (List.range 8).foldl (fun s q => s.placeOver q (heads.getD q none)) s
  (List.range 8).foldl (fun s q => s.placeHead (8 + q) Core.freeBatch) s.resumeAll

theorem placementRound_eq (s : State) :
    ∃ heads, s.placementRound = { roundSteps heads s with round := (roundSteps heads s).round - 1 } := by
  refine ⟨(List.range 8).map (fun q => (s.head q).map (fun l => l.id)), ?_⟩
  simp only [State.placementRound, roundSteps]

theorem roundKept_roundSteps (heads : List (Option Nat)) (s : State) : RoundKept s (roundSteps heads s) := by
  unfold roundSteps
  exact (((roundKept_foldl (fun s q => roundKept_placeHead s q Core.free) (List.range 8) s).trans
    (roundKept_foldl (fun s q => roundKept_placeOver s q (heads.getD q none)) (List.range 8) _)).trans (roundKept_resumeAll _)).trans
    (roundKept_foldl (fun s q => roundKept_placeHead s (8 + q) Core.freeBatch) (List.range 8) _)

theorem placementRound_frame (s : State) : s.placementRound.round = s.round - 1 ∧ s.placementRound.mem = s.mem := by
  obtain ⟨heads, hround⟩ := placementRound_eq s
  obtain ⟨round, mem⟩ := roundKept_roundSteps heads s
  generalize roundSteps heads s = u at *
  rw [hround]
  exact ⟨congrArg (· - 1) round, mem⟩

/-! ### Placement of a queued foreground launch (R79 to R81) -/

/-- Steps of which none changes the state leave it. -/
theorem foldl_fixed {σ α : Type} {f : σ → α → σ} {s : σ} {l : List α} (h : ∀ a ∈ l, f s a = s) : l.foldl f s = s := by
  induction l with
  | nil => rfl
  | cons a l ih => rw [List.foldl_cons, h a List.mem_cons_self, ih (fun b hb => h b (List.mem_cons_of_mem _ hb))]

/-- Where one step alone leads from `s` to `t`, and no other changes either, so do all of them. -/
theorem foldl_once {σ α : Type} {f : σ → α → σ} {s t : σ} {a : α} {l : List α} (hmem : a ∈ l) (hnodup : l.Nodup)
    (hstep : f s a = t) (hbefore : ∀ b ∈ l, b ≠ a → f s b = s) (hafter : ∀ b ∈ l, b ≠ a → f t b = t) : l.foldl f s = t := by
  obtain ⟨pre, post, rfl⟩ := List.append_of_mem hmem
  obtain ⟨-, hpost, hdisj⟩ := List.nodup_append.mp hnodup
  have hpre : pre.foldl f s = s := foldl_fixed (fun b hb =>
    hbefore b (List.mem_append_left _ hb) (hdisj b hb a List.mem_cons_self))
  have htail : post.foldl f t = t := foldl_fixed (fun b hb =>
    hafter b (List.mem_append_right _ (List.mem_cons_of_mem _ hb)) (fun e => (List.nodup_cons.mp hpost).1 (e ▸ hb)))
  rw [List.foldl_append, List.foldl_cons, hpre, hstep, htail]

theorem placeHead_of_no_head {s : State} {q : Nat} (h : s.head q = none) (free : Core → Bool) : s.placeHead q free = s := by
  unfold State.placeHead
  simp only [h]

theorem placeOver_of_no_head {s : State} {q : Nat} (h : s.head q = none) (head : Option Nat) : s.placeOver q head = s := by
  unfold State.placeOver
  simp only [h]

/-- The only launch of the package stands in no other queue than its own. -/
theorem head_other {s : State} {l : Launch} (h : s.launches = [l]) {q : Nat} (hq : l.st ≠ .queued ∨ q ≠ l.rec_.queue) :
    s.head q = none := by
  unfold State.head
  rw [h]
  rcases hq with hst | hne
  · simp [hst]
  · simp [Ne.symm hne]

theorem head_queued {s : State} {l : Launch} (h : s.launches = [l]) (hst : l.st = .queued) : s.head l.rec_.queue = some l := by
  unfold State.head
  rw [h]
  simp [hst]

/-- Promising cores to a launch changes what is next on them, and no launch. -/
theorem promise_next (id : Nat) (cs : List CoreId) (s : State) :
    let t := cs.foldl (fun s c => s.updCore c (fun k => { k with next := some id })) s
    t.launches = s.launches ∧ ∀ c, (t.coreAt c).next = if c ∈ cs then some id else (s.coreAt c).next := by
  induction cs generalizing s with
  | nil => exact ⟨rfl, fun c => by simp⟩
  | cons d cs ih =>
    obtain ⟨hlaunches, hnext⟩ := ih (s.updCore d (fun k => { k with next := some id }))
    refine ⟨hlaunches, fun c => (hnext c).trans ?_⟩
    by_cases hc : c = d
    · subst hc
      simp [State.coreAt_updCore]
    · rw [State.coreAt_updCore_ne _ _ _ _ hc]
      simp [hc]

theorem place_launches_next {s : State} {l : Launch} (h : s.launches = [l]) (o : Nat × Nat) :
    (s.place! l o).launches = [{ l with st := .running, ox := o.1, oy := o.2 }] ∧
      ∀ c, ((s.place! l o).coreAt c).next = if c ∈ rectCores o l.rec_.w l.rec_.h then some l.id else (s.coreAt c).next := by
  obtain ⟨hlaunches, hnext⟩ := promise_next l.id (rectCores o l.rec_.w l.rec_.h)
    (s.updLaunch l.id (fun x => { x with st := .running, ox := o.1, oy := o.2 }))
  refine ⟨hlaunches.trans ?_, hnext⟩
  unfold State.updLaunch
  rw [h]
  simp

/-- Where the only launch runs, the dispatcher resumes none. -/
theorem resumeAll_of_running {s : State} {l : Launch} (h : s.launches = [l]) (hst : l.st = .running) : s.resumeAll = s := by
  have hparked : s.parkedLaunches = [] := by
    unfold State.parkedLaunches
    rw [h]
    simp [hst]
  unfold State.resumeAll
  rw [hparked]
  rfl

/-- A round that finds the only launch at the head of a foreground queue, and a free rectangle for it, places it and does no more. -/
theorem placementRound_places {s : State} {l : Launch} {d : PartDef} {o : Nat × Nat} (h : s.launches = [l]) (hst : l.st = .queued)
    (hq : l.rec_.queue < 8) (hpart : s.partOpen l.rec_.part = some d)
    (hfind : (candidates d l.rec_.w l.rec_.h).find? (fun o => (rectCores o l.rec_.w l.rec_.h).all (fun c => (s.coreAt c).free)) =
      some o) : s.placementRound = { s.place! l o with round := (s.place! l o).round - 1 } := by
  obtain ⟨hlaunches, -⟩ := place_launches_next h o
  have hhead : ∀ q, (s.place! l o).head q = none := fun q => head_other hlaunches (.inl (by simp))
  have hplace : s.placeHead l.rec_.queue Core.free = s.place! l o := by
    unfold State.placeHead
    simp only [head_queued h hst, hpart, hfind]
  have hstep₁ : (List.range 8).foldl (fun s q => s.placeHead q Core.free) s = s.place! l o :=
    foldl_once (List.mem_range.mpr hq) List.nodup_range hplace
      (fun q _ hne => placeHead_of_no_head (head_other h (.inr hne)) _) (fun q _ _ => placeHead_of_no_head (hhead q) _)
  obtain ⟨heads, hround⟩ := placementRound_eq s
  have hstep₂ : (List.range 8).foldl (fun s q => s.placeOver q (heads.getD q none)) (s.place! l o) = s.place! l o :=
    foldl_fixed (fun q _ => placeOver_of_no_head (hhead q) _)
  have hstep₄ : (List.range 8).foldl (fun s q => s.placeHead (8 + q) Core.freeBatch) (s.place! l o) = s.place! l o :=
    foldl_fixed (fun q _ => placeHead_of_no_head (hhead (8 + q)) _)
  have hsteps : roundSteps heads s = s.place! l o := by
    unfold roundSteps
    rw [hstep₁]
    dsimp only
    rw [hstep₂, resumeAll_of_running hlaunches rfl, hstep₄]
  rw [hround, hsteps]

theorem placementRound_step (s : State) (h : launchStepPre s .placementRound) :
    ∃ t, exec .placementRound s = .next t ∧ launchStepPost s t .placementRound := by
  obtain ⟨hround, hhalt⟩ := h
  have hexec : exec .placementRound s = .next s.placementRound := by
    show execPlacementRound s = _
    unfold execPlacementRound
    rw [if_pos (by simp [hround, hhalt])]
  obtain ⟨round, mem⟩ := placementRound_frame s
  refine ⟨_, hexec, round, mem, fun l d o hl hst hq hpart hfind => ?_⟩
  obtain ⟨hlaunches, hnext⟩ := place_launches_next hl o
  rw [placementRound_places hl hst hq hpart hfind]
  exact ⟨hlaunches, hnext⟩

/-! ### All the steps -/

/-- Settles O47: each step of a launch's life does what its rules say, by the lemma of that step. -/
theorem launchSteps : Obligations.launch_steps := by
  unfold Obligations.launch_steps
  intro i s h
  cases i
  case preEmption c => exact preEmption_step s c h
  case instanceStart c => exact instanceStart_step s c h
  case instanceResume c => exact instanceResume_step s c h
  case instanceEnd c => exact instanceEnd_step s c h
  case launchEnd id => exact launchEnd_step s id h
  case launchPortSubmit p v => exact launchPortSubmit_step s p v h
  case submissionTake => exact submissionTake_step s h
  case placementRound => exact placementRound_step s h
  all_goals exact h.elim

end Sys2Proof.LaunchSteps
